-- ==== Sys2Proof/Word.lean ====
section
/-! DEFINITION. The words the SC-40 deals in: bytes, job ids, check words and station numbers. -/

namespace Sys2Proof

/-- One byte, on the link, in a slot or on the disk. -/
abbrev Byte := BitVec 8

/-- A job id (R2): opener's station number in the upper 4 bits, sequence count in the lower 12. -/
abbrev JobId := BitVec 16

/-- A set of stations: bit s is set for station s (R172, roster mask). -/
abbrev StationMask := BitVec 16

/-- A 32-bit check word: the frame check of R171 and the track check word use one computation. -/
abbrev CheckWord := BitVec 32

/-- A station number 0 to 15 (00_scope.md, Conventions). -/
abbrev StationId := Fin 16

end Sys2Proof
end

