-- ==== Sys2Proof/Syntax.lean ====
section
/-! DEFINITION. The commands of the SC-40: one constructor for each row of spec/opcode_table.json. -/

namespace Sys2Proof

/-- A frame that has passed the receive checks of R158, as it is delivered at its completion (R159): the
station number of its arbitration field, its job id and its raw body bytes (R171, R172). The kind is the
command's own. -/
structure Rx where
  sender : StationId
  jobId  : JobId
  body   : List Byte
  deriving DecidableEq, Repr

/-- The fields of a RELEASE that the taking decision reads before the payload (R29): the frame's job id and
body length, and the first nine body bytes (R172). -/
structure ReleaseHead where
  jobId  : JobId
  length : Nat
  track  : Byte
  status : Byte
  reason : Byte
  size   : Byte
  count  : Byte
  check  : CheckWord
  deriving DecidableEq, Repr

/-- Bytes of a slot that have changed of themselves by the time a use of the slot applies its check:
(offset in the slot, byte now there). R35 and R36 speak of such bytes and give no cause for them. -/
abbrev Upset := List (Nat × Byte)

/-- The commands, in the table's order. -/
inductive Instr where
  /-- POWER_ON: the straps' number and the levels of DISKIN, WPROT and TRK0. -/
  | powerOn (straps : StationId) (diskin wprot trk0 : Bool)
  /-- STORE_CLEAR_COMPLETION: whether a frame is on the medium at that moment (R158). -/
  | storeClearCompletion (midFrame : Bool)
  /-- CONFIGURATION_LOAD_COMPLETION: the bytes the configuration store answered, from byte 0 up, and whether
  a frame is on the medium at that moment (R158). -/
  | configurationLoadCompletion (bytes : List Byte) (midFrame : Bool)
  /-- RESTART. -/
  | restart
  /-- LOAD_PRESS: the number on the recipe selector. -/
  | loadPress (selector : Fin 8)
  /-- STOP_BRIEF_PRESS. -/
  | stopBriefPress
  /-- STOP_HELD. -/
  | stopHeld
  /-- REFUSAL_FLASH_END. -/
  | refusalFlashEnd
  /-- ABANDON_SEQUENCE_END. -/
  | abandonSequenceEnd
  /-- ARBITRATION_START. -/
  | arbitrationStart
  /-- JOIN_START. -/
  | joinStart
  /-- ARBITRATION_LOSS. -/
  | arbitrationLoss
  /-- SEND_FAULT. -/
  | sendFault
  /-- RELEASE_CUT_OFF: the slot bytes that have changed of themselves. -/
  | releaseCutOff (upset : Upset)
  /-- FRAME_BREAK: the class of the arbitration field, the bytes received after it, and whether a break
  ended the frame. -/
  | frameBreak (cls : Fin 8) (bytes : List Byte) (broke : Bool)
  /-- QUEUE_PLACE_FREEING. -/
  | queuePlaceFreeing
  /-- HOLD_OFF. -/
  | holdOff (f : Rx)
  /-- HOLD_OFF_TIMER_EXPIRY. -/
  | holdOffTimerExpiry
  /-- JOB_OPEN. -/
  | jobOpen (f : Rx)
  /-- JOB_STOP. -/
  | jobStop (f : Rx)
  /-- JOB_CLOSE. -/
  | jobClose (f : Rx)
  /-- JOB_ABANDON. -/
  | jobAbandon (f : Rx)
  /-- CLAIM. -/
  | claim (f : Rx)
  /-- TALLY. -/
  | tally (f : Rx)
  /-- WANT. -/
  | want (f : Rx)
  /-- RELEASE_BEGIN. -/
  | releaseBegin (h : ReleaseHead)
  /-- RELEASE. -/
  | release (f : Rx)
  /-- CALL_FIRST: a CALL frame whose body gives type FIRST. -/
  | callFirst (f : Rx)
  /-- CALL_ANSWER: a CALL frame whose body gives type ANSWER. -/
  | callAnswer (f : Rx)
  /-- QUERY. -/
  | query (f : Rx)
  /-- REPLY. -/
  | reply (f : Rx)
  /-- WANT_DEADLINE_EXPIRY: the track of the want list entry. -/
  | wantDeadlineExpiry (track : Nat)
  /-- LAST_TRACK_TIMEOUT. -/
  | lastTrackTimeout
  /-- INDEX_EDGE: the time of the edge in µs and the level of TRK0. -/
  | indexEdge (time : Nat) (trk0 : Bool)
  /-- WRITE_COMPLETION: the slot bytes that have changed of themselves. -/
  | writeCompletion (upset : Upset)
  /-- REVOLUTION_COUNTER_EXPIRY: the slot bytes that have changed of themselves. -/
  | revolutionCounterExpiry (upset : Upset)
  /-- ID_RECORD: the four ID bytes and the two ID check bytes as read. -/
  | idRecord (cylinder head sector size : Byte) (check : BitVec 16)
  /-- DATA_RECORD: the data bytes and the two data check bytes as read, and the slot bytes that have
  changed of themselves. -/
  | dataRecord (data : List Byte) (check : BitVec 16) (upset : Upset)
  /-- DATA_MARKER_REACH_EXPIRY. -/
  | dataMarkerReachExpiry
  /-- NO_INDEX. -/
  | noIndex
  /-- QUALIFY_LIMIT_EXPIRY. -/
  | qualifyLimitExpiry
  /-- STEP_TIME_END: the level of TRK0. -/
  | stepTimeEnd (trk0 : Bool)
  /-- HEAD_SETTLE_END: the level of TRK0. -/
  | headSettleEnd (trk0 : Bool)
  /-- EJECT_PULSE_END. -/
  | ejectPulseEnd
  /-- DISKIN_ACTIVE. -/
  | diskinActive
  /-- DISKIN_INACTIVE. -/
  | diskinInactive
  /-- WPROT_CHANGE: the new level. -/
  | wprotChange (active : Bool)
  /-- MASTER_READ_SLOT_GRANT. -/
  | masterReadSlotGrant
  /-- MARKER_OF_ANOTHER_VALUE. -/
  | markerOfAnotherValue
  deriving DecidableEq, Repr

end Sys2Proof
end

