-- ==== Sys2Proof/Decode.lean ====
section
/-! DEFINITION. Commands spelled by words: none. -/

namespace Sys2Proof

/-- The command a word spells by the bits of spec/opcode_table.json. No row of the table gives bits ("fields"
is empty in every row), so no word spells a command (log 30). -/
def decodeTableWord (_nbits _w : Nat) : Option Instr := none

end Sys2Proof
end

