-- ==== Sys2Proof/Config.lean ====
section
/-! DEFINITION. What the part fixes, each constant with the rule that gives it, and the one value the spec leaves free. -/

namespace Sys2Proof.Config

/-- Slots of the Image Store (R22). -/
abbrev slotCount : Nat := 64
/-- Bytes of one slot (02_the_image_store.md, opening). -/
abbrev slotBytes : Nat := 12288
/-- Entries of the track map (R23). -/
abbrev trackCount : Nat := 168
/-- Places of the home allowance (R20). -/
def allowancePlaces : Nat := 60
/-- The largest home count a roster position may have (R5, R7). -/
def homeCountLimit : Nat := 56
/-- Places of the transmit queue (R153). -/
def queuePlaces : Nat := 8
/-- Frames at which classes 4 to 7 are refused (R153). -/
def openQueuePlaces : Nat := 6
/-- Send faults at which a frame is dropped (R152). -/
def sendFaultLimit : Nat := 4
/-- Positions of the repair part of the want list (R44). -/
def repairPositions : Nat := 3
/-- Entries of the restore queue (R57). -/
def restorePlaces : Nat := 8
/-- Entries of the disk history (R169). -/
def historyDepth : Nat := 8
/-- Step pulses of a recalibrate (R142). -/
def recalibratePulses : Nat := 90
/-- In-tolerance periods that qualify the spindle (R144). -/
def qualifyingPeriods : Nat := 3
/-- The largest value of a 32-bit field: serials (R61, R75) and station counters (R175). -/
def max32 : Nat := 4294967295
/-- Length of the EJECT pulse in µs (R138). -/
def ejectPulse : Nat := 100000
/-- Length of the LOAD refusal flash in µs (R168). -/
def refusalFlash : Nat := 3000000
/-- One flash, on and off, in µs (R168). -/
def flashPeriod : Nat := 500000
/-- The dark that ends an abandon sequence, in µs (R168). -/
def sequenceDark : Nat := 1000000
/-- Part revision carried in CALL frames (R154, R163). -/
def partRevision : Nat := 1
/-- Signature of the configuration store (R174). -/
def storeSignature : Byte := 0x5C
/-- Bytes of the configuration store (R164). -/
def configBytes : Nat := 2048
/-- The largest body a frame may carry (R149, R158). -/
def maxBody : Nat := 12400
/-- Idle gap of the medium in bit times (R149). -/
def idleGap : Nat := 16
/-- What a byte of a slot that nothing has written reads as. DESIGN CHOICE (log 4). -/
def unwrittenByte : Byte := 0

/-- FREE VALUE (log 14): R44 gives the time left of a want entry in milliseconds and no rule says how a
part of a millisecond is rounded. For a time left of `us` microseconds that is no whole number of
milliseconds, this says whether page 5 shows the next one up. -/
opaque timeLeftRoundsUp : Nat → Bool

end Sys2Proof.Config
end

