-- ==== Sys2Proof/Machine/State.lean ====
section
/-! DEFINITION. Everything one SC-40 holds, as plain data, block by block, and its state after reset. Where
two names of the spec share storage, one field holds it and Machine/ has a function for the other (log 28). -/

namespace Sys2Proof.Machine

/-! ### Recipes (08_recipes_and_the_track_builder.md) -/

/-- Data rates of R122. -/
inductive DataRate | k250 | k300 | k500
  deriving DecidableEq, Repr

/-- Spindle nominal speeds of R122. -/
inductive Nominal | rpm300 | rpm360
  deriving DecidableEq, Repr

/-- Verify modes (R96). -/
inductive VerifyMode | full | check | off
  deriving DecidableEq, Repr

/-- Stamp span forms (R122). -/
inductive SpanForm | binary | decimal
  deriving DecidableEq, Repr

/-- A stamp span (R122). -/
structure Span where
  track  : Nat
  sector : Nat
  offset : Nat
  length : Nat
  form   : SpanForm
  deriving DecidableEq, Repr

/-- A recipe record (R122). `interleave` holds the `sectors` entries that are read (R173). -/
structure Recipe where
  cylinders  : Nat
  heads      : Nat
  stepMult   : Nat
  sectors    : Nat
  sizeCode   : Nat
  firstId    : Nat
  interleave : List Nat
  skew       : Nat
  rate       : DataRate
  trim       : Int
  nominal    : Nominal
  tolerance  : Nat
  gapI       : Nat
  sync       : Nat
  gap2       : Nat
  gap3       : Nat
  idMarker   : Byte
  dataMarker : Byte
  fill       : Byte
  verify     : VerifyMode
  verifyRevs : Nat
  writeRetry : Nat
  masterRevs : Nat
  stepTime   : Nat
  headSettle : Nat
  spans      : List Span
  deriving DecidableEq, Repr

/-! ### Codes shared by several blocks -/

/-- Job kinds (R1). -/
inductive JobKind | copy | format
  deriving DecidableEq, Repr

/-- Roles (R3). -/
inductive Role | source | member | observer
  deriving DecidableEq, Repr

/-- Job states of a held record (R1, R4). NONE is the absence of a record. -/
inductive JobState | opened | draining
  deriving DecidableEq, Repr

/-- Reasons of a JOB ABANDON (R13, R172). -/
inductive AbandonReason
  | operator | masterUnreadable | masterMisfit | masterRemoved | trackLost | sourceLost
  deriving DecidableEq, Repr

/-- Disk fault codes (R87, R172). -/
inductive DiskFault
  | protected_ | noIndex | speed | noTrack0 | overrun | storeDamage | verifyMissing | verifyCheck
  | verifyMismatch | stampMismatch | trackUnobtainable | serialConflict | pulled | abandoned
  deriving DecidableEq, Repr

/-- Outcomes of a disk (R69). -/
inductive DiskOutcome | accepted | rejected | pulled
  deriving DecidableEq, Repr

/-- End cause of a history entry (R90, R169). -/
inductive EndCause
  | abandon (reason : AbandonReason) | close | restart
  deriving DecidableEq, Repr

/-- Refusals of LOAD (R109, R167). -/
inductive LoadRefusal | rigBusy | recipeInvalid | masterNotProtected | noRoom
  deriving DecidableEq, Repr

/-- Reasons a RELEASE carries (R172). -/
inductive ReleaseReason | firstPass | answer | restore
  deriving DecidableEq, Repr

/-- Status a RELEASE carries (R172). -/
inductive ReleaseStatus | good | lost
  deriving DecidableEq, Repr

/-- The block a queued RELEASE comes from: the DU's answer (R52), the DU's restore from the store (R56), or
the Source Sequencer (R113, R116). -/
inductive ReleaseOrigin | answer | duRestore | source
  deriving DecidableEq, Repr

/-- Status of a REPLY (R170). -/
inductive ReplyStatus | ok | noPage | range
  deriving DecidableEq, Repr

/-! ### Link Controller (10_the_rig_link.md) -/

/-- The terms of a job that JOB OPEN carries (R5). -/
structure JobTerms where
  kind   : JobKind
  roster : StationMask
  r      : Nat
  wanted : Nat
  base   : Nat
  limit  : Nat
  recipe : Recipe
  deriving DecidableEq, Repr

/-- A queued frame's body with the values filled so far (R154). -/
inductive Body
  | holdOff
  | jobOpen (terms : JobTerms)
  | jobStop
  | jobClose (accepted void withdrawn high : Nat)
  | jobAbandon (reason : AbandonReason)
  | claim (serial carried : Nat)
  | tally (outcome : DiskOutcome) (serial : Option Nat) (first : Option DiskFault) (further verified : Nat)
  | want (track attempt : Nat) (restore : Bool)
  | release (track : Nat) (status : ReleaseStatus) (reason : ReleaseReason) (origin : ReleaseOrigin)
      (sizeCode count : Nat) (check : CheckWord)
  | call (first fitted : Bool) (jobId : JobId)
  | reply (page offset : Nat) (status : ReplyStatus) (data : List Byte)
  deriving DecidableEq, Repr

/-- What two frames of the queue are compared by (R153, second table). -/
inductive FrameKey
  | holdOff | jobOpen | jobStop | jobClose | jobAbandon | claim | tally
  | call (first : Bool)
  | want (track : Nat)
  | release (track : Nat) (reason : ReleaseReason)
  | reply (page offset : Nat)
  deriving DecidableEq, Repr

/-- An entry of the transmit queue (R152, R153): `started` is yes from its start of arbitration until it
loses, faults, completes or is cut off. -/
structure Frame where
  body    : Body
  jobId   : JobId
  faults  : Nat := 0
  started : Bool := false
  deriving DecidableEq, Repr

/-- The hold-off view while it names a holder (R156). -/
structure HoldView where
  holder : StationId
  expiry : Nat
  deriving DecidableEq, Repr

/-- An entry of the presence table (R160). -/
structure Presence where
  present  : Bool := false
  fitted   : Bool := false
  revision : Byte := 0
  jobId    : JobId := 0
  deriving DecidableEq, Repr

/-- The nine station counters, in the order of page 7 (R170). -/
structure Counters where
  badFrames  : Nat := 0
  sendFaults : Nat := 0
  holdOffs   : Nat := 0
  wants      : Nat := 0
  restores   : Nat := 0
  damaged    : Nat := 0
  noRoom     : Nat := 0
  accepted   : Nat := 0
  rejected   : Nat := 0
  deriving DecidableEq, Repr

/-- The Link Controller. -/
structure Link where
  queue     : List Frame := []
  lossCount : Nat := 0
  lossFor   : Option FrameKey := none
  view      : Option HoldView := none
  presence  : Vector Presence 16 := Vector.replicate 16 {}
  foreign   : Option JobId := none
  counters  : Counters := {}
  deaf      : Bool := false
  deriving DecidableEq, Repr

/-! ### Job Controller (01_jobs_and_the_rig_roster.md, 04_serials_claims_and_tallies.md) -/

/-- An entry of the claim list (R65). -/
structure Claim where
  serial  : Nat
  station : StationId
  deriving DecidableEq, Repr

/-- The job record (R1). `noneHeard` is the mark of R61 on the high mark of a base of 0. `markAt` is when the
release mark came to its value and `lastRun` whether the last-track timeout of R41 has run. -/
structure JobRecord where
  jobId       : JobId
  kind        : JobKind
  opener      : StationId
  recipe      : Recipe
  r           : Nat
  roster      : StationMask
  departed    : StationMask := 0
  role        : Role
  joinRefused : Bool := false
  state       : JobState := .opened
  mark        : Nat := 0
  markAt      : Nat
  lastRun     : Bool := false
  wanted      : Nat
  base        : Nat
  limit       : Nat
  high        : Nat
  noneHeard   : Bool
  heard       : Nat := 0
  accepted    : Nat := 0
  void        : Nat := 0
  withdrawn   : Nat := 0
  claims      : List Claim := []
  repair      : List Nat := []
  homeShort   : Nat := 0
  deriving DecidableEq, Repr

/-- The Job Controller. -/
structure JobControl where
  record     : Option JobRecord := none
  nextBase   : Nat := 1
  seq        : BitVec 12 := 0
  stopDue    : Bool := false
  abandonDue : List AbandonReason := []
  deriving DecidableEq, Repr

/-! ### Image Store (02_the_image_store.md) -/

/-- Slot states (R22). -/
inductive SlotState | free | filling | home | cache
  deriving DecidableEq, Repr

/-- A slot table entry at its reset value unless written (R22). -/
structure Slot where
  state       : SlotState := .free
  track       : Option Nat := none
  check       : CheckWord := 0
  drivePin    : Bool := false
  linkPin     : Bool := false
  damaged     : Bool := false
  freePending : Bool := false
  deriving DecidableEq, Repr

/-- Presence of a track (R23). -/
inductive TrackPresence | absent | filling | held
  deriving DecidableEq, Repr

/-- A track map entry (R23). -/
structure MapEntry where
  presence : TrackPresence := .absent
  slot     : Option Nat := none
  home     : Bool := false
  deriving DecidableEq, Repr

/-- The Image Store. `fills` are the slots that receive a RELEASE from the link, the last begun first (R29, R30);
`mem` holds the slots' bytes: address slot × 12,288 + offset. -/
structure Store where
  slots       : Vector Slot Config.slotCount := Vector.replicate _ {}
  map         : Vector MapEntry Config.trackCount := Vector.replicate _ {}
  cache       : List Nat := []
  reservation : Nat := 0
  allowance   : List Nat := []
  fills       : List Nat := []
  mem         : List Host.Cell := []
  deriving DecidableEq, Repr

/-! ### Distribution Unit (03_track_distribution.md) -/

/-- Phases of a want list entry (R44). -/
inductive WantPhase | queued | waiting | unsent
  deriving DecidableEq, Repr

/-- A want list entry (R44). -/
structure Want where
  track    : Nat
  attempt  : Nat := 1
  restore  : Bool := false
  phase    : WantPhase := .queued
  deadline : Option Nat := none
  deriving DecidableEq, Repr

/-- The Distribution Unit: the two parts of the want list (R44), the lost set (R51), the restore queue (R57). -/
structure Distribution where
  need     : List Want := []
  repair   : List Want := []
  lost     : List Nat := []
  restores : List Nat := []
  deriving DecidableEq, Repr

/-! ### Copy Sequencer (05_the_copy_cycle.md) -/

/-- States of the copy cycle. -/
inductive CycleState
  | empty | standby | spinup | home | claim | fetch | write | verify | tally | out
  deriving DecidableEq, Repr

/-- The disk record (R76). `track` keeps its last number; the current track is present while `live`. -/
structure Disk where
  serial   : Option Nat := none
  track    : Option Nat := none
  live     : Bool := false
  attempts : Nat := 0
  first    : Option DiskFault := none
  further  : Nat := 0
  verified : Nat := 0
  conflict : Bool := false
  deriving DecidableEq, Repr

/-- Where a WRITE stands (R83, R84): seeking, waiting for requalification, armed for an INDEX edge, writing,
or at its completing INDEX edge. -/
inductive WritePhase | seeking | requalify | armed | writing | completing
  deriving DecidableEq, Repr

/-- The Copy Sequencer. -/
structure Copy where
  state   : CycleState := .empty
  disk    : Disk := {}
  paused  : Bool := false
  pulled  : Bool := false
  outcome : Option DiskOutcome := none
  phase   : Option WritePhase := none
  deriving DecidableEq, Repr

/-! ### Source Sequencer (07_the_source_station.md) -/

/-- States of the Source Sequencer (R108). -/
inductive SourceState | idle | spinup | home | read | release | serve | ending
  deriving DecidableEq, Repr

/-- Steps of a master read (R112). -/
inductive ReadPhase | slotWait | seeking | requalify | searching
  deriving DecidableEq, Repr

/-- A master read in progress (R112). `reading` is the sector whose data marker is looked for, and `reach` the end
of the reach of that search (R100). -/
structure MasterRead where
  track     : Nat
  slot      : Option Nat := none
  phase     : ReadPhase := .slotWait
  unsettled : List Nat := []
  reading   : Option Nat := none
  reach     : Nat := 0
  deriving DecidableEq, Repr

/-- A RELEASE the Source Sequencer holds in reserve (R114, R116). -/
structure Reserve where
  track  : Nat
  status : ReleaseStatus
  reason : ReleaseReason
  deriving DecidableEq, Repr

/-- The Source Sequencer (R108). -/
structure Source where
  state      : SourceState := .idle
  present    : Bool := false
  prot       : Bool := false
  firstTrack : Nat := 0
  restoring  : Option Nat := none
  reread     : Option Nat := none
  read       : Option MasterRead := none
  reserve    : Option Reserve := none
  abandon    : Option AbandonReason := none
  deriving DecidableEq, Repr

/-! ### Track Builder and Verify Unit -/

/-- The write stream in progress, by its arming edge (R134). -/
structure Stream where
  since : Nat
  deriving DecidableEq, Repr

/-- Outcomes of a verify record entry (R97). -/
inductive SectorOutcome | ok | missing | idCheck | dataCheck | mismatch | stampMismatch
  deriving DecidableEq, Repr

/-- A verify record entry (R97). `stamp` is the stamp part with the rendition's byte for each offset (R98). -/
structure SectorEntry where
  id      : Nat
  outcome : SectorOutcome := .missing
  stamp   : List (Nat × Byte) := []
  deriving DecidableEq, Repr

/-- The verify record (R97). `running` is yes until the VU has given its answer; `reading` is the sector whose data
marker is looked for, and `reach` the end of the reach of that search (R100). -/
structure VerifyRecord where
  track    : Nat
  cylinder : Nat
  head     : Nat
  entries  : List SectorEntry
  running  : Bool := true
  reading  : Option Nat := none
  reach    : Nat := 0
  deriving DecidableEq, Repr

/-! ### Drive Port and Spindle Monitor (09_the_drive_port_and_spindle_monitor.md) -/

/-- The spindle record (R144), the last edge on record and the start of the index watch (R146). -/
structure Spindle where
  period    : Option Nat := none
  inTol     : Bool := false
  count     : Nat := 0
  qualified : Bool := false
  lastEdge  : Option Nat := none
  watch     : Option Nat := none
  deriving DecidableEq, Repr

/-- The two operations that move the head (R141, R142). A recalibrate made for a seek keeps its goal. -/
inductive MotionKind
  | recalibrate (goal : Option (Nat × Bool))
  | seek (cylinder : Nat) (head : Bool)
  deriving DecidableEq, Repr

/-- A seek or recalibrate in progress: pulses given, pulses still to give (seek), whether the settle runs,
and the end of the present step time or settle. -/
structure Motion where
  kind     : MotionKind
  pulses   : Nat := 0
  toGo     : Nat := 0
  settling : Bool := false
  ends     : Nat
  deriving DecidableEq, Repr

/-- An open qualify request (R145). -/
structure Qualify where
  limit : Nat
  seen  : Bool := false
  deriving DecidableEq, Repr

/-- The Drive Port: output lines, input lines as last given, and its operations (R136 to R148). -/
structure Drive where
  motor     : Bool := false
  select    : Bool := false
  head      : Bool := false
  step      : Bool := false
  dir       : Bool := false
  wgate     : Bool := false
  lock      : Bool := false
  ejectEnds : Option Nat := none
  diskin    : Bool := false
  wprot     : Bool := false
  trk0      : Bool := false
  cylinder  : Option Nat := none
  spindle   : Spindle := {}
  counter   : Option Nat := none
  motion    : Option Motion := none
  qualify   : Option Qualify := none
  deriving DecidableEq, Repr

/-! ### Panel and configuration (11_start_up_panel_and_queries.md) -/

/-- The station parameters with their defaults (R165); times in ms. -/
structure Params where
  fitted         : Bool := true
  r              : Nat := 2
  holdOffLimit   : Nat := 6
  holdOffTime    : Nat := 20
  wantTimeout    : Nat := 40
  wantAttempts   : Nat := 3
  restoreTimeout : Nat := 2000
  lookahead      : Nat := 2
  spinUpLimit    : Nat := 1000
  requireProt    : Bool := true
  wanted         : Nat := 0
  serialBase     : Nat := 1
  serialSpan     : Nat := 100000
  deriving DecidableEq, Repr

/-- A disk history entry (R169). -/
structure HistoryEntry where
  outcome  : DiskOutcome
  serial   : Option Nat
  first    : Option DiskFault
  further  : Nat
  verified : Nat
  cause    : Option EndCause
  deriving DecidableEq, Repr

/-- Panel and Configuration. `flash` is the end of the LOAD refusal flash, `sequence` the reason and start of
the abandon sequence (R168). -/
structure Panel where
  params    : Params := {}
  directory : Vector (Option Recipe) 8 := Vector.replicate 8 none
  flash     : Option Nat := none
  sequence  : Option (AbandonReason × Nat) := none
  refusal   : Option LoadRefusal := none
  history   : List HistoryEntry := []
  deriving DecidableEq, Repr

/-- Start-up (R40, R163, R166): store clear of power-on or of a restart, configuration load, or ready. -/
inductive Boot
  | clearing (powerOn : Bool) | loading | ready
  deriving DecidableEq, Repr

/-! ### The machine -/

/-- One SC-40 and the commands waiting for it. -/
structure State where
  pending : List Instr := []
  now     : Nat := 0
  station : StationId := 0
  boot    : Boot := .clearing true
  lc      : Link := {}
  jc      : JobControl := {}
  store   : Store := {}
  du      : Distribution := {}
  cs      : Copy := {}
  ss      : Source := {}
  tb      : Option Stream := none
  vu      : Option VerifyRecord := none
  dp      : Drive := {}
  pc      : Panel := {}
  deriving DecidableEq, Repr

/-- No rule of the spec ends the machine: every event has an effect or none (log 27). Nobody raises a fault,
which is safe. -/
inductive Fault
  deriving DecidableEq, Repr

/-- Reasons to give a command no meaning. -/
inductive Refusal
  /-- Raised by exec's arm of a command that has no meaning yet; safe. No arm raises it. -/
  | notModelled (mnemonic : String)
  deriving DecidableEq, Repr

/-- What one step answers. -/
abbrev Result := Host.Outcome State Fault Refusal

/-- The machine right after power-on: every field at its power-on value (R163), store clear under way, no
command waiting. Log 5 names the values the spec does not give. -/
def State.reset : State := {}

end Sys2Proof.Machine
end

