-- ==== Sys2Proof/Machine/Bytes.lean ====
section
/-! DEFINITION. Byte order, the two cyclic redundancy checks and the slot memory as a canonical list. -/

namespace Sys2Proof.Machine

/-! ### Byte order: most significant byte first (00_scope.md, Conventions; 12, opening) -/

/-- The low byte of a number. -/
def byteOf (n : Nat) : Byte := BitVec.ofNat 8 n

/-- A number in `k` bytes, most significant first; what does not fit is dropped. -/
def beBytes : (k : Nat) → (n : Nat) → List Byte
  | 0, _ => []
  | k + 1, n => byteOf (n >>> (8 * k)) :: beBytes k n

/-- The number that bytes spell, most significant first. -/
def beNat (bs : List Byte) : Nat := bs.foldl (fun n b => n * 256 + b.toNat) 0

/-- The number in bytes `i` to `i + k - 1` of a list. -/
def beAt (bs : List Byte) (i k : Nat) : Nat := beNat ((bs.drop i).take k)

/-- One byte of a list, 0 past its end. -/
def byteAt (bs : List Byte) (i : Nat) : Byte := bs.getD i 0

/-- A flag byte (12, opening): 00h for no and 01h for yes. -/
def flagByte (b : Bool) : Byte := if b then 1 else 0

/-- A flag as read: no other value is listed (12, opening). -/
def flagOf (b : Byte) : Option Bool := if b = 0 then some false else if b = 1 then some true else none

/-- A number in two's complement in one byte (12, opening: signed fields). -/
def signedByte (i : Int) : Byte := BitVec.ofInt 8 i

/-! ### Checks -/

/-- `k` bits of a check with a register of `w` bits, most significant bit first: the register is doubled, and
the polynomial added where a bit falls out. (The match on the register only has it computed at every bit.) -/
def crcBits (w poly : Nat) : (k c : Nat) → Nat
  | 0, c => c
  | k + 1, c =>
    match if c < 2 ^ (w - 1) then 2 * c else (2 * c - 2 ^ w) ^^^ poly with
    | 0 => crcBits w poly k 0
    | n + 1 => crcBits w poly k (n + 1)

/-- A check over bytes, each byte most significant bit first, from register value `c`. -/
def crcBytes (w poly : Nat) : (bs : List Byte) → (c : Nat) → Nat
  | [], c => c
  | b :: bs, c =>
    match crcBits w poly 8 (c ^^^ (b.toNat <<< (w - 8))) with
    | 0 => crcBytes w poly bs 0
    | n + 1 => crcBytes w poly bs (n + 1)

/-- The 32-bit check: polynomial 04C11DB7h, preset 0FFFFFFFFh, no final inversion. It is the frame check and
the track check word (R171). -/
def crc32 (bs : List Byte) : CheckWord := BitVec.ofNat 32 (crcBytes 32 0x04C11DB7 bs 0xFFFFFFFF)

/-- The 16-bit check of ID and data records: polynomial 1021h, preset 0FFFFh, no final inversion (R131). -/
def crc16 (bs : List Byte) : BitVec 16 := BitVec.ofNat 16 (crcBytes 16 0x1021 bs 0xFFFF)

/-! ### Slot memory: addresses strictly rising, no listed byte equal to the unwritten byte -/

/-- The canonical form: addresses at or above `lo`, strictly rising, no byte equal to what an unlisted address
reads as. -/
def Memory.wfFrom : (lo : Nat) → List Host.Cell → Bool
  | _, [] => true
  | lo, (a, b) :: rest => decide (lo ≤ a) && decide (b ≠ Config.unwrittenByte) && Memory.wfFrom (a + 1) rest

/-- The canonical form of a memory. -/
def Memory.wf (m : List Host.Cell) : Bool := Memory.wfFrom 0 m

/-- One byte. -/
def Memory.read (m : List Host.Cell) (a : Nat) : Byte :=
  match m with
  | [] => Config.unwrittenByte
  | (x, b) :: rest => if x = a then b else Memory.read rest a

/-- The cells that hold `bs` from address `a` up, in canonical form. -/
def Memory.cells (a : Nat) : List Byte → List Host.Cell
  | [] => []
  | b :: bs => if b = Config.unwrittenByte then Memory.cells (a + 1) bs else (a, b) :: Memory.cells (a + 1) bs

/-- Writes `bs` from address `a` up. -/
def Memory.write (m : List Host.Cell) (a : Nat) (bs : List Byte) : List Host.Cell :=
  m.filter (fun c => decide (c.1 < a)) ++ Memory.cells a bs ++ m.filter (fun c => decide (a + bs.length ≤ c.1))

/-- The `n` bytes from address `a` up, read off a canonical list in one pass. -/
def Memory.scan : List Host.Cell → (a n : Nat) → List Byte
  | _, _, 0 => []
  | [], a, n + 1 => Config.unwrittenByte :: Memory.scan [] (a + 1) n
  | (x, b) :: rest, a, n + 1 =>
    if x = a then b :: Memory.scan rest (a + 1) n
    else Config.unwrittenByte :: Memory.scan ((x, b) :: rest) (a + 1) n

/-- The `n` bytes from address `a` up. -/
def Memory.readBytes (m : List Host.Cell) (a n : Nat) : List Byte :=
  Memory.scan (m.filter fun c => decide (a ≤ c.1)) a n

/-- Writes single bytes of a slot whose bytes begin at address `base`: those offsets that lie in the slot. -/
def Memory.upset (m : List Host.Cell) (base : Nat) (u : Upset) : List Host.Cell :=
  u.foldl (fun m c => if c.1 < Config.slotBytes then Memory.write m (base + c.1) [c.2] else m) m

end Sys2Proof.Machine
end

