-- ==== Sys2Proof/Machine/Recipes.lean ====
section
/-! DEFINITION. Recipes and the Track Builder (08_recipes_and_the_track_builder.md): layout of a recipe record,
validity, track fit, physical order, and the formatted track with its stamp renditions. -/

namespace Sys2Proof.Machine

/-! ### Field meanings (R122) -/

/-- Bits per second. -/
def DataRate.bps : DataRate → Nat
  | .k250 => 250000
  | .k300 => 300000
  | .k500 => 500000

/-- Revolutions per minute. -/
def Nominal.rpm : Nominal → Nat
  | .rpm300 => 300
  | .rpm360 => 360

/-- Nominal period in µs (R144). -/
def Nominal.period : Nominal → Nat
  | .rpm300 => 200000
  | .rpm360 => 166667

/-- Sector size 128 × 2^code (R122). -/
def Recipe.size (r : Recipe) : Nat := 128 * 2 ^ r.sizeCode

/-- T = cylinders × heads (R122). -/
def Recipe.tracks (r : Recipe) : Nat := r.cylinders * r.heads

/-- Data bytes of one track: sectors × size. -/
def Recipe.trackBytes (r : Recipe) : Nat := r.sectors * r.size

/-- The recipe's sector IDs in ascending order (R122). -/
def Recipe.ids (r : Recipe) : List Nat := (List.range r.sectors).map (r.firstId + ·)

/-- Cylinder of a track: t div heads. -/
def Recipe.cylinderOf (r : Recipe) (t : Nat) : Nat := t / r.heads

/-- Head of a track: t mod heads. -/
def Recipe.headOf (r : Recipe) (t : Nat) : Nat := t % r.heads

/-! ### Track fit (R124) -/

/-- Length of one sector with its gaps. -/
def Recipe.sectorLength (r : Recipe) : Nat := 2 * r.sync + 12 + r.size + r.gap2 + r.gap3

/-- Bytes from index to the end of the last gap-3. -/
def Recipe.trackLength (r : Recipe) : Nat := r.gapI + r.sectors * r.sectorLength

/-- 200 + trim: the rate factor 1 + trim/200 in two-hundredths. -/
def Recipe.trimmed (r : Recipe) : Nat := (200 + r.trim).toNat

/-- Whole bytes of the shortest revolution the tolerance allows: the product taken exactly, rounded down once. -/
def Recipe.capacity (r : Recipe) : Nat :=
  r.rate.bps * r.trimmed * 60 * (1000 - r.tolerance) / (200 * r.nominal.rpm * 1000 * 8)

/-- Whole bytes sent in a time of `us` microseconds at the byte-cell rate. -/
def Recipe.bytesIn (r : Recipe) (us : Nat) : Nat := us * r.rate.bps * r.trimmed / (1600 * 1000000)

/-- The time of a number of byte cells, in microseconds rounded up (R124). -/
def Recipe.cellTime (r : Recipe) (cells : Nat) : Nat :=
  (cells * (1600 * 1000000) + (r.rate.bps * r.trimmed - 1)) / (r.rate.bps * r.trimmed)

/-- The end of the reach of a search for a data marker that begins at `now`: gap-2 + S + 8 byte cells (R100). -/
def Recipe.reachEnd (r : Recipe) (now : Nat) : Nat := now + r.cellTime (r.gap2 + r.sync + 8)

/-- A data record that has ended by `now` can have had its marker within the reach: from the marker to its last
check byte it takes size + 2 byte cells (R100, log 45). -/
def Recipe.inReach (r : Recipe) (reach now : Nat) : Bool := decide (now ≤ reach + r.cellTime (r.size + 2))

/-- The track fits (R124). -/
def Recipe.fits (r : Recipe) : Bool := decide (r.trackLength ≤ r.capacity)

/-! ### Validity (R123, R125) -/

/-- A number lies in a range, both ends included. -/
def inRange (lo hi n : Nat) : Bool := decide (lo ≤ n) && decide (n ≤ hi)

/-- Every field in its range (R122); the coded fields have no values out of range. -/
def Recipe.rangesHold (r : Recipe) : Bool :=
  inRange 1 84 r.cylinders && inRange 1 2 r.heads && inRange 1 2 r.stepMult && inRange 1 36 r.sectors
  && inRange 0 3 r.sizeCode && inRange 0 255 r.firstId && inRange 0 35 r.skew
  && decide (-12 ≤ r.trim) && decide (r.trim ≤ 12) && inRange 5 50 r.tolerance
  && inRange 0 255 r.gapI && inRange 4 32 r.sync && inRange 4 64 r.gap2 && inRange 4 255 r.gap3
  && inRange 0 7 r.verifyRevs && inRange 0 3 r.writeRetry && inRange 1 8 r.masterRevs
  && inRange 2 16 r.stepTime && inRange 5 40 r.headSettle && decide (r.spans.length ≤ 2)

/-- The interleave table holds each value from 0 to sectors − 1 exactly once (R123). -/
def Recipe.interleaveHolds (r : Recipe) : Bool :=
  decide (r.interleave.length = r.sectors) && (List.range r.sectors).all fun v => decide (v ∈ r.interleave)

/-- One stamp span against its recipe (R123). -/
def Recipe.spanHolds (r : Recipe) (p : Span) : Bool :=
  decide (p.track < r.tracks) && inRange r.firstId (r.firstId + r.sectors - 1) p.sector
  && decide (p.offset + p.length ≤ r.size)
  && match p.form with
     | .binary => decide (p.length = 4)
     | .decimal => inRange 4 10 p.length

/-- Two spans share no byte (R123). -/
def Span.apart (p q : Span) : Bool :=
  decide (p.track ≠ q.track) || decide (p.sector ≠ q.sector)
  || decide (p.offset + p.length ≤ q.offset) || decide (q.offset + q.length ≤ p.offset)

/-- Spans of one recipe stand apart (R123). -/
def spansApart : List Span → Bool
  | [] => true
  | p :: rest => rest.all p.apart && spansApart rest

/-- A recipe is valid (R123). -/
def Recipe.valid (r : Recipe) : Bool :=
  r.rangesHold && r.interleaveHolds && decide (r.firstId + r.sectors - 1 ≤ 255)
  && decide (r.trackBytes ≤ Config.slotBytes) && decide ((r.cylinders - 1) * r.stepMult ≤ 90)
  && decide (r.idMarker ≠ r.dataMarker) && r.spans.all r.spanHolds && spansApart r.spans && r.fits

/-- A DECIMAL span of length d holds serials up to 10^d − 1 (R125). -/
def Recipe.serialsFit (r : Recipe) (limit : Nat) : Bool :=
  r.spans.all fun p => match p.form with
    | .binary => true
    | .decimal => decide (limit ≤ 10 ^ p.length - 1)

/-! ### Layout of a recipe record (R173) -/

/-- Data rate codes. -/
def DataRate.ofCode (b : Byte) : Option DataRate :=
  if b = 0 then some .k250 else if b = 1 then some .k300 else if b = 2 then some .k500 else none

/-- Data rate codes. -/
def DataRate.code : DataRate → Byte
  | .k250 => 0
  | .k300 => 1
  | .k500 => 2

/-- Spindle nominal codes. -/
def Nominal.ofCode (b : Byte) : Option Nominal :=
  if b = 0 then some .rpm300 else if b = 1 then some .rpm360 else none

/-- Spindle nominal codes. -/
def Nominal.code : Nominal → Byte
  | .rpm300 => 0
  | .rpm360 => 1

/-- Verify mode codes. -/
def VerifyMode.ofCode (b : Byte) : Option VerifyMode :=
  if b = 0 then some .full else if b = 1 then some .check else if b = 2 then some .off else none

/-- Verify mode codes. -/
def VerifyMode.code : VerifyMode → Byte
  | .full => 0
  | .check => 1
  | .off => 2

/-- Span form codes. -/
def SpanForm.ofCode (b : Byte) : Option SpanForm :=
  if b = 1 then some .binary else if b = 2 then some .decimal else none

/-- Span form codes. -/
def SpanForm.code : SpanForm → Byte
  | .binary => 1
  | .decimal => 2

/-- A span from its 6 bytes. -/
def Span.ofBytes (bs : List Byte) : Option Span :=
  (SpanForm.ofCode (byteAt bs 5)).map fun form =>
    { track := (byteAt bs 0).toNat, sector := (byteAt bs 1).toNat, offset := beAt bs 2 2,
      length := (byteAt bs 4).toNat, form := form }

/-- A span in 6 bytes. -/
def Span.toBytes (p : Span) : List Byte :=
  [byteOf p.track, byteOf p.sector] ++ beBytes 2 p.offset ++ [byteOf p.length, p.form.code]

/-- The first `n` spans of a record; none if one carries an unlisted form. -/
def spansOfBytes : (n : Nat) → List Byte → Option (List Span)
  | 0, _ => some []
  | n + 1, bs =>
    match Span.ofBytes bs, spansOfBytes n (bs.drop 6) with
    | some p, some ps => some (p :: ps)
    | _, _ => none

/-- A recipe from its 73 bytes; none when the length is another, a code is not listed, or the span count is
above 2 (R173). Ranges are R123's. -/
def Recipe.ofBytes (bs : List Byte) : Option Recipe :=
  if bs.length = 73 ∧ (byteAt bs 60).toNat ≤ 2 then
    match DataRate.ofCode (byteAt bs 43), Nominal.ofCode (byteAt bs 45), VerifyMode.ofCode (byteAt bs 54),
        spansOfBytes (byteAt bs 60).toNat (bs.drop 61) with
    | some rate, some nominal, some verify, some spans =>
      some {
        cylinders := (byteAt bs 0).toNat, heads := (byteAt bs 1).toNat, stepMult := (byteAt bs 2).toNat,
        sectors := (byteAt bs 3).toNat, sizeCode := (byteAt bs 4).toNat, firstId := (byteAt bs 5).toNat,
        interleave := (((bs.drop 6).take 36).take (byteAt bs 3).toNat).map BitVec.toNat,
        skew := (byteAt bs 42).toNat, rate := rate, trim := (byteAt bs 44).toInt, nominal := nominal,
        tolerance := (byteAt bs 46).toNat, gapI := (byteAt bs 47).toNat, sync := (byteAt bs 48).toNat,
        gap2 := (byteAt bs 49).toNat, gap3 := (byteAt bs 50).toNat, idMarker := byteAt bs 51,
        dataMarker := byteAt bs 52, fill := byteAt bs 53, verify := verify,
        verifyRevs := (byteAt bs 55).toNat, writeRetry := (byteAt bs 56).toNat,
        masterRevs := (byteAt bs 57).toNat, stepTime := (byteAt bs 58).toNat,
        headSettle := (byteAt bs 59).toNat, spans := spans }
    | _, _, _, _ => none
  else none

/-- A list in exactly `n` bytes: cut, or filled with zeros (R173: entries not read are carried as 0). -/
def padTo (n : Nat) (bs : List Byte) : List Byte := (bs ++ List.replicate n 0).take n

/-- A recipe in 73 bytes. -/
def Recipe.toBytes (r : Recipe) : List Byte :=
  [byteOf r.cylinders, byteOf r.heads, byteOf r.stepMult, byteOf r.sectors, byteOf r.sizeCode, byteOf r.firstId]
  ++ padTo 36 (r.interleave.map byteOf)
  ++ [byteOf r.skew, r.rate.code, signedByte r.trim, r.nominal.code, byteOf r.tolerance,
      byteOf r.gapI, byteOf r.sync, byteOf r.gap2, byteOf r.gap3, r.idMarker, r.dataMarker, r.fill,
      r.verify.code, byteOf r.verifyRevs, byteOf r.writeRetry, byteOf r.masterRevs, byteOf r.stepTime,
      byteOf r.headSettle, byteOf r.spans.length]
  ++ padTo 12 (r.spans.flatMap Span.toBytes)

/-- Built-in recipe 0 (08, examples). -/
def Recipe.builtIn : Recipe where
  cylinders := 80
  heads := 2
  stepMult := 1
  sectors := 9
  sizeCode := 2
  firstId := 1
  interleave := [0, 1, 2, 3, 4, 5, 6, 7, 8]
  skew := 0
  rate := .k250
  trim := 0
  nominal := .rpm300
  tolerance := 20
  gapI := 80
  sync := 12
  gap2 := 22
  gap3 := 80
  idMarker := 0xB5
  dataMarker := 0xC6
  fill := 0xD9
  verify := .full
  verifyRevs := 1
  writeRetry := 2
  masterRevs := 4
  stepTime := 6
  headSettle := 15
  spans := []

/-! ### Physical order (R127) -/

/-- The sector ID at each physical position of a cylinder. -/
def Recipe.physicalOrder (r : Recipe) (c : Nat) : List Nat :=
  (List.range r.sectors).map fun k =>
    r.firstId + r.interleave.getD ((k + r.sectors - (r.skew * c) % r.sectors) % r.sectors) 0

/-! ### Stamp renditions (R133) -/

/-- `d` decimal digits of a serial as ASCII, right-aligned, padded with 30h. -/
def decimalDigits : (d n : Nat) → List Byte
  | 0, _ => []
  | d + 1, n => decimalDigits d (n / 10) ++ [byteOf (0x30 + n % 10)]

/-- The rendition of a serial for a span. -/
def Span.rendition (p : Span) (serial : Nat) : List Byte :=
  match p.form with
  | .binary => beBytes 4 serial
  | .decimal => decimalDigits p.length serial

/-- The stamp part of a sector: each masked offset with the rendition's byte there (R102, R133). -/
def Recipe.stampPart (r : Recipe) (t sector serial : Nat) : List (Nat × Byte) :=
  r.spans.flatMap fun p =>
    if p.track = t ∧ p.sector = sector then (List.range' p.offset p.length).zip (p.rendition serial) else []

/-! ### The formatted track (R128 to R132) -/

/-- A byte as written: in ordinary cells, or in the marker cell pattern (R129). -/
structure TrackByte where
  value  : Byte
  marker : Bool := false
  deriving DecidableEq, Repr

/-- Bytes in ordinary cells. -/
def plain (bs : List Byte) : List TrackByte := bs.map fun b => { value := b }

/-- Two marker bytes. -/
def markerPair (m : Byte) : List TrackByte := [⟨m, true⟩, ⟨m, true⟩]

/-- The four ID bytes of a sector (R129). -/
def Recipe.idBytes (r : Recipe) (t sector : Nat) : List Byte :=
  [byteOf (r.cylinderOf t), byteOf (r.headOf t), byteOf sector, byteOf r.sizeCode]

/-- The ID check: over the two marker bytes and the four ID bytes (R129). -/
def Recipe.idCheck (r : Recipe) (idBytes : List Byte) : BitVec 16 := crc16 ([r.idMarker, r.idMarker] ++ idBytes)

/-- The data check: over the two marker bytes and the data as written (R130). -/
def Recipe.dataCheck (r : Recipe) (data : List Byte) : BitVec 16 := crc16 ([r.dataMarker, r.dataMarker] ++ data)

/-- The data bytes of a sector as written (R130): slot bytes or fill bytes, with the stamp put over them. -/
def Recipe.sectorData (r : Recipe) (kind : JobKind) (slotData : List Byte) (t sector serial : Nat) : List Byte :=
  let raw := match kind with
    | .copy => (slotData.drop ((sector - r.firstId) * r.size)).take r.size
    | .format => List.replicate r.size r.fill
  (r.stampPart t sector serial).foldl (fun bs c => bs.set c.1 c.2) raw

/-- One sector with its records and gaps (R128 to R130). -/
def Recipe.sectorTrack (r : Recipe) (kind : JobKind) (slotData : List Byte) (t sector serial : Nat) :
    List TrackByte :=
  let data := r.sectorData kind slotData t sector serial
  plain (List.replicate r.sync 0) ++ markerPair r.idMarker ++ plain (r.idBytes t sector)
  ++ plain (beBytes 2 (r.idCheck (r.idBytes t sector)).toNat) ++ plain (List.replicate r.gap2 r.fill)
  ++ plain (List.replicate r.sync 0) ++ markerPair r.dataMarker ++ plain data
  ++ plain (beBytes 2 (r.dataCheck data).toNat) ++ plain (List.replicate r.gap3 r.fill)

/-- The track from the index to the end of the last gap-3 (R128). Gap-4, fill bytes, follows (R132). -/
def Recipe.buildTrack (r : Recipe) (kind : JobKind) (slotData : List Byte) (t serial : Nat) : List TrackByte :=
  plain (List.replicate r.gapI r.fill)
  ++ (r.physicalOrder (r.cylinderOf t)).flatMap fun sector => r.sectorTrack kind slotData t sector serial

/-- Parts of the build position (R134). -/
inductive TrackPart | gapI | idRecord | gap2 | dataRecord | gap3 | gap4
  deriving DecidableEq, Repr

/-- The build position after `n` bytes: the part, the physical position, and the byte within the part (R134). The parts
have the lengths of R124 and R128 to R130; that these hold against the overrun example, which has byte 5,812 of recipe 0 in
gap-3 of position 8, is the model's reading (log 61). -/
def Recipe.buildPosition (r : Recipe) (n : Nat) : TrackPart × Nat × Nat :=
  if n < r.gapI then (.gapI, 0, n)
  else if r.trackLength ≤ n then (.gap4, r.sectors, n - r.trackLength)
  else
    let k := (n - r.gapI) / r.sectorLength
    let i := (n - r.gapI) % r.sectorLength
    if i < r.sync + 8 then (.idRecord, k, i)
    else if i < r.sync + 8 + r.gap2 then (.gap2, k, i - (r.sync + 8))
    else if i < 2 * r.sync + 12 + r.gap2 + r.size then (.dataRecord, k, i - (r.sync + 8 + r.gap2))
    else (.gap3, k, i - (2 * r.sync + 12 + r.gap2 + r.size))

/-- The stream has reached gap-4 when the last byte of the last gap-3 has been sent (R132). -/
def Recipe.reachesGap4 (r : Recipe) (us : Nat) : Bool := decide (r.trackLength ≤ r.bytesIn us)

/-! ### Spindle tolerance (R144) -/

/-- |period − nominal| × 1,000 ≤ nominal × tolerance. -/
def Recipe.inTolerance (r : Recipe) (period : Nat) : Bool :=
  let n := r.nominal.period
  decide ((if period < n then n - period else period - n) * 1000 ≤ n * r.tolerance)

end Sys2Proof.Machine
end

