-- ==== Sys2Proof/Machine/Ops.lean ====
section
/-! DEFINITION. The named operations over the state's registers and over the Image Store: clock, counters, slot
table, track map, pins, freeing, damage, allocation and eviction. -/

namespace Sys2Proof.Machine

/-! ### Clock and counters -/

/-- The clock comes to time `t` if it is behind it (log 2). -/
def State.tickTo (t : Nat) (s : State) : State := { s with now := max s.now t }

/-- A time in ms from now, in µs. -/
def State.after (s : State) (ms : Nat) : Nat := s.now + ms * 1000

/-- A 32-bit counter rises by 1 and holds at its largest value (R175). -/
def bump (n : Nat) : Nat := min (n + 1) Config.max32

/-- A change of the station counters. -/
def State.count (g : Counters → Counters) (s : State) : State :=
  { s with lc := { s.lc with counters := g s.lc.counters } }

/-- Bad frames rises (R158, R162). -/
def State.badFrame (s : State) : State := s.count fun c => { c with badFrames := bump c.badFrames }

/-- The job record, changed where one is held. -/
def State.mapRecord (g : JobRecord → JobRecord) (s : State) : State :=
  { s with jc := { s.jc with record := s.jc.record.map g } }

/-! ### Station sets -/

/-- The stations of a mask in ascending order. -/
def stationsOf (m : StationMask) : List StationId := (List.finRange 16).filter fun i => m.getLsbD i.val

/-- The mask of a list of stations. -/
def maskOf (l : List StationId) : StationMask := l.foldl (fun m i => m ||| (1 <<< i.val)) 0

/-- A set of track numbers in ascending order takes one more. -/
def insertTrack (t : Nat) : List Nat → List Nat
  | [] => [t]
  | x :: xs => if t < x then t :: x :: xs else if t = x then x :: xs else x :: insertTrack t xs

/-! ### Slot table and track map (R22, R23) -/

/-- A slot table entry. -/
def Store.slot (st : Store) (i : Nat) : Slot := st.slots[i]?.getD {}

/-- Sets a slot table entry. -/
def Store.setSlot (st : Store) (i : Nat) (e : Slot) : Store := { st with slots := st.slots.setIfInBounds i e }

/-- A track map entry. -/
def Store.entry (st : Store) (t : Nat) : MapEntry := st.map[t]?.getD {}

/-- Sets a track map entry. -/
def Store.setEntry (st : Store) (t : Nat) (e : MapEntry) : Store := { st with map := st.map.setIfInBounds t e }

/-- The number of pins held (R22). -/
def Slot.pins (e : Slot) : Nat := e.drivePin.toNat + e.linkPin.toNat

/-- Damaged or free pending (R22). -/
def Slot.closing (e : Slot) : Bool := e.damaged || e.freePending

/-- The slot in which a track is held here (R23): its map entry is HELD and the slot is not closing. -/
def Store.heldSlot (st : Store) (t : Nat) : Option Nat :=
  match (st.entry t).presence, (st.entry t).slot with
  | .held, some i => if (st.slot i).closing then none else some i
  | _, _ => none

/-- A track is held here (R23). -/
def State.held (s : State) (t : Nat) : Bool := (s.store.heldSlot t).isSome

/-- A track's map entry is FILLING. -/
def State.isFilling (s : State) (t : Nat) : Bool := decide ((s.store.entry t).presence = .filling)

/-- The lowest-numbered slot with a property. -/
def Store.firstSlot (st : Store) (p : Slot → Bool) : Option Nat :=
  (List.range Config.slotCount).find? fun i => p (st.slot i)

/-- The slot that the drive path has pinned (R33). -/
def Store.drivePinned (st : Store) : Option Nat := st.firstSlot (·.drivePin)

/-- The slot that the link path has pinned (R34). -/
def Store.linkPinned (st : Store) : Option Nat := st.firstSlot (·.linkPin)

/-- The number of FREE slots (R27). -/
def Store.freeCount (st : Store) : Nat :=
  ((List.range Config.slotCount).filter fun i => decide ((st.slot i).state = .free)).length

/-- The number of allowance tracks whose map entry is FILLING (R27). -/
def Store.fillingAllowance (st : Store) : Nat :=
  (st.allowance.filter fun t => decide ((st.entry t).presence = .filling)).length

/-! ### Slot bytes -/

/-- The address of the first byte of a slot. -/
def slotBase (i : Nat) : Nat := i * Config.slotBytes

/-- The sectors × size bytes of a slot in slot order (R35). -/
def Store.trackData (st : Store) (r : Recipe) (i : Nat) : List Byte :=
  Memory.readBytes st.mem (slotBase i) r.trackBytes

/-- The bytes of one sector in a slot: sector s lies at offset (s − first sector ID) × size (R30). -/
def Store.sectorData (st : Store) (r : Recipe) (i sector : Nat) : List Byte :=
  Memory.readBytes st.mem (slotBase i + (sector - r.firstId) * r.size) r.size

/-- Writes one sector's bytes into a slot at its offset (R30). -/
def Store.writeSector (st : Store) (r : Recipe) (i sector : Nat) (data : List Byte) : Store :=
  { st with mem := Memory.write st.mem (slotBase i + (sector - r.firstId) * r.size) data }

/-- The track check recomputed over a slot (R35). -/
def Store.trackCheck (st : Store) (r : Recipe) (i : Nat) : CheckWord := crc32 (st.trackData r i)

/-- Bytes of a slot that have changed of themselves (log 4). -/
def Store.upset (st : Store) (i : Nat) (u : Upset) : Store := { st with mem := Memory.upset st.mem (slotBase i) u }

/-! ### Freeing (R22, R37, R38) -/

/-- A slot becomes FREE with its fields at their reset values, leaves the cache order list, and the map entry
of its track becomes ABSENT; the home mark stays. -/
def Store.freeSlot (st : Store) (i : Nat) : Store :=
  let st1 := match (st.slot i).track with
    | some t => st.setEntry t { st.entry t with presence := .absent, slot := none }
    | none => st
  { st1.setSlot i {} with cache := st1.cache.erase i }

/-- A home track of the allowance rejoins the repair list in track order, and the reservation rises by 1
(R21, R37). -/
def State.rejoinRepair (t : Nat) (s : State) : State :=
  { s.mapRecord (fun r => { r with repair := insertTrack t r.repair }) with
    store := { s.store with reservation := s.store.reservation + 1 } }

/-- A closing slot whose pins are 0 is freed (R37, R38). A HOME slot freed as damaged sends its track back to
the repair list. -/
def State.freeIfClosing (i : Nat) (s : State) : State :=
  let e := s.store.slot i
  if e.closing && e.pins == 0 then
    let s1 := { s with store := s.store.freeSlot i }
    match e.damaged, e.state, e.track with
    | true, .home, some t => s1.rejoinRepair t
    | _, _, _ => s1
  else s

/-- Marks a slot damaged unless it already is; the damaged slots counter rises (R36). At 0 pins it is freed at
once (R37). A closing CACHE slot stays on the cache order list until it is freed: the model's choice (log 38). -/
def State.markDamaged (i : Nat) (s : State) : State :=
  let e := s.store.slot i
  let s1 := if e.damaged then s else
    { s with store := s.store.setSlot i { e with damaged := true } }.count
      fun c => { c with damaged := bump c.damaged }
  s1.freeIfClosing i

/-- A request to free a slot (R38): at once at 0 pins, else free pending. -/
def State.requestFree (i : Nat) (s : State) : State :=
  let e := s.store.slot i
  { s with store := s.store.setSlot i { e with freePending := true } }.freeIfClosing i

/-! ### Pins (R33, R34) -/

/-- What follows the release of a pin: a CACHE slot moves to the tail of the cache order list (R25), and a
closing slot without pins is freed. -/
def State.unpinned (i : Nat) (s : State) : State :=
  let st := s.store
  let st1 := if (st.slot i).state = .cache then { st with cache := st.cache.erase i ++ [i] } else st
  { s with store := st1 }.freeIfClosing i

/-- The drive path releases its pin, if it holds one (R33). -/
def State.releaseDrivePin (s : State) : State :=
  match s.store.drivePinned with
  | some i => { s with store := s.store.setSlot i { s.store.slot i with drivePin := false } }.unpinned i
  | none => s

/-- The link path releases its pin, if it holds one (R34). -/
def State.releaseLinkPin (s : State) : State :=
  match s.store.linkPinned with
  | some i => { s with store := s.store.setSlot i { s.store.slot i with linkPin := false } }.unpinned i
  | none => s

/-- The slot whose drive pin a request for track `t` is granted: `t` is held here and the drive path holds no
pin (R33). -/
def Store.drivePinGrant (st : Store) (t : Nat) : Option Nat :=
  match st.drivePinned with
  | some _ => none
  | none => st.heldSlot t

/-- Takes the drive pin on a slot. -/
def Store.takeDrivePin (st : Store) (i : Nat) : Store := st.setSlot i { st.slot i with drivePin := true }

/-- Takes the link pin on a slot. -/
def Store.takeLinkPin (st : Store) (i : Nat) : Store := st.setSlot i { st.slot i with linkPin := true }

/-! ### Allocation and eviction (R27, R28) -/

/-- The first slot of the cache order list whose pins are 0. -/
def Store.evictable (st : Store) : Option Nat := st.cache.find? fun i => (st.slot i).pins == 0

/-- The slot an allocation for a track takes, and whether it is evicted (R27): a home allocation for a track
with a place in the allowance, a non-home allocation otherwise, which needs a spare count of 1 or more. -/
def Store.allocation (st : Store) (t : Nat) : Option Nat :=
  let spare : Bool := t ∈ st.allowance || decide (st.reservation + 1 ≤ st.freeCount + st.fillingAllowance)
  match (if spare then st.firstSlot (fun e => decide (e.state = .free)) else none) with
  | some i => some i
  | none => st.evictable

/-- The slot taken becomes FILLING with the track, and the track's map entry names it (R27). An evicted slot
first gives up its track (R28). -/
def Store.takeSlot (st : Store) (i t : Nat) (check : CheckWord) : Store :=
  let st1 := st.freeSlot i
  (st1.setSlot i { state := .filling, track := some t, check := check }).setEntry t
    { st1.entry t with presence := .filling, slot := some i }

/-- The end of a good fill or read (R31, R32): HOME with the reservation falling for a track of the allowance,
else CACHE at the tail of the list; the map entry becomes HELD, and the track leaves the repair list. -/
def State.settleGood (i t : Nat) (s : State) : State :=
  let st := s.store
  let e := st.slot i
  let m := { st.entry t with presence := TrackPresence.held, slot := some i }
  if t ∈ st.allowance then
    { s.mapRecord (fun r => { r with repair := r.repair.erase t }) with
      store := { (st.setSlot i { e with state := .home }).setEntry t m with reservation := st.reservation - 1 } }
  else
    { s with store := { (st.setSlot i { e with state := .cache }).setEntry t m with cache := st.cache ++ [i] } }

/-- Every slot, map entry, list and count of the store at its reset value; slot bytes stay (R39, R40). -/
def Store.cleared (st : Store) : Store := { mem := st.mem }

/-! ### Panel -/

/-- Appends a history entry, the oldest leaving a full history first, and counts the disk (R169). -/
def State.appendHistory (h : HistoryEntry) (s : State) : State :=
  let kept := if s.pc.history.length < Config.historyDepth then s.pc.history else s.pc.history.drop 1
  { s with pc := { s.pc with history := kept ++ [h] } }.count fun c =>
    match h.outcome with
    | .accepted => { c with accepted := bump c.accepted }
    | .rejected => { c with rejected := bump c.rejected }
    | .pulled => c

/-- RED flashes for 3 s, and the reason becomes the last LOAD refusal (R109, R167, R168). -/
def State.refuseLoad (why : LoadRefusal) (s : State) : State :=
  { s with pc := { s.pc with refusal := some why, flash := some (s.now + Config.refusalFlash) } }

end Sys2Proof.Machine
end

