-- ==== Sys2Proof/Machine/Link.lean ====
section
/-! DEFINITION. The transmit queue, the loss count and the hold-off view of the Link Controller
(10_the_rig_link.md). -/

namespace Sys2Proof.Machine

/-! ### Kinds, classes and keys -/

/-- Kind code (R171). -/
def Body.code : Body → Byte
  | .holdOff => 0x01
  | .jobOpen _ => 0x11
  | .jobStop => 0x12
  | .jobClose _ _ _ _ => 0x13
  | .jobAbandon _ => 0x14
  | .claim _ _ => 0x21
  | .tally _ _ _ _ _ => 0x31
  | .want _ _ _ => 0x41
  | .release _ _ _ _ _ _ _ => 0x51
  | .call _ _ _ => 0x61
  | .reply _ _ _ _ => 0x72

/-- Class: the upper four bits of the kind code (R171). -/
def Body.cls (b : Body) : Nat := b.code.toNat / 16

/-- What duplicates are found by (R153). -/
def Body.key : Body → FrameKey
  | .holdOff => .holdOff
  | .jobOpen _ => .jobOpen
  | .jobStop => .jobStop
  | .jobClose _ _ _ _ => .jobClose
  | .jobAbandon _ => .jobAbandon
  | .claim _ _ => .claim
  | .tally _ _ _ _ _ => .tally
  | .want t _ _ => .want t
  | .release t _ r _ _ _ _ => .release t r
  | .call first _ _ => .call first
  | .reply p o _ _ => .reply p o

/-- A frame's key (R153). -/
def Frame.key (f : Frame) : FrameKey := f.body.key

/-- A frame of the key is in the queue. -/
def Link.has (lc : Link) (k : FrameKey) : Bool := lc.queue.any fun f => decide (f.key = k)

/-- The frame of the key in the queue. -/
def Link.find (lc : Link) (k : FrameKey) : Option Frame := lc.queue.find? fun f => decide (f.key = k)

/-- A frame of the key is in the queue and not on the medium. -/
def Link.waiting (lc : Link) (k : FrameKey) : Bool :=
  lc.queue.any fun f => decide (f.key = k) && !f.started

/-- The frame on the medium. -/
def Link.sending (lc : Link) : Option Frame := lc.queue.find? (·.started)

/-! ### Entry (R153) -/

/-- The queue takes the frame (R153). -/
def State.accepts (s : State) (b : Body) : Bool :=
  decide (s.boot = .ready) && !s.lc.has b.key && decide (s.lc.queue.length < Config.queuePlaces)
  && (decide (b.cls < 4) || decide (s.lc.queue.length < Config.openQueuePlaces))

/-- The frame joins the queue; entry order gives the tail of its class. -/
def State.push (b : Body) (jobId : JobId) (s : State) : State :=
  { s with lc := { s.lc with queue := s.lc.queue ++ [{ body := b, jobId := jobId }] } }

/-- A frame is offered to the queue: taken, or refused without effect (R153). -/
def State.enter (b : Body) (jobId : JobId) (s : State) : State := if s.accepts b then s.push b jobId else s

/-! ### Leaving the queue -/

/-- The queue becomes `q`. The loss count falls to 0 when the frame it counts for is no longer there (R155). -/
def State.setQueue (q : List Frame) (s : State) : State :=
  let gone := match s.lc.lossFor with
    | some k => !q.any fun f => decide (f.key = k)
    | none => false
  { s with lc := { s.lc with
      queue := q
      lossCount := if gone then 0 else s.lc.lossCount
      lossFor := if gone then none else s.lc.lossFor } }

/-- The frame of the key leaves the queue: completed, dropped, cut off or withdrawn at its offer (R154). -/
def State.dequeue (k : FrameKey) (s : State) : State :=
  s.setQueue (s.lc.queue.filter fun f => !decide (f.key = k))

/-- The frames with the property that have not started are withdrawn (R154). -/
def State.withdraw (p : Frame → Bool) (s : State) : State :=
  s.setQueue (s.lc.queue.filter fun f => !p f || f.started)

/-- The frame of the key is withdrawn unless it has started (R154). -/
def State.withdrawKey (k : FrameKey) (s : State) : State := s.withdraw fun f => decide (f.key = k)

/-- A change of the frame of the key. -/
def State.mapFrame (k : FrameKey) (g : Frame → Frame) (s : State) : State :=
  { s with lc := { s.lc with queue := s.lc.queue.map fun f => if f.key = k then g f else f } }

/-- The frame of the key takes a new body. -/
def State.refill (k : FrameKey) (b : Body) (s : State) : State := s.mapFrame k fun f => { f with body := b }

/-! ### Hold-off (R155 to R157) -/

/-- With the loss count at the limit, the view none and no HOLD-OFF queued, a HOLD-OFF is entered (R155). -/
def State.holdOffTest (s : State) : State :=
  if s.lc.lossCount = s.pc.params.holdOffLimit ∧ s.lc.view = none then s.enter .holdOff 0 else s

/-- The view ends when its holder completes a frame (R156). -/
def State.endViewOf (sender : StationId) (s : State) : State :=
  match s.lc.view with
  | some v => if v.holder = sender then { s with lc := { s.lc with view := none } } else s
  | none => s

/-- The HOLD-OFF test at a return of the view to none, judged from the state before (R155). A HOLD-OFF of the view's own
holder, at which the view is none for a moment and then names it again (R156), makes no test: the model's choice
(log 43). -/
def State.holdOffReturn (before s : State) : State :=
  if before.lc.view.isSome ∧ s.lc.view = none then s.holdOffTest else s

/-- The view names another station (R157). -/
def State.heldOff (s : State) : Bool :=
  match s.lc.view with
  | some v => decide (v.holder ≠ s.station)
  | none => false

/-! ### The offer (R154) -/

/-- The frame may be started: while the view names another station, only classes 0 and 1 (R157). -/
def State.mayStart (s : State) (f : Frame) : Bool := !s.heldOff || decide (f.body.cls ≤ 1)

/-- The oldest frame of the lowest class in a list. -/
def lowestClass : List Frame → Option Frame
  | [] => none
  | f :: fs =>
    match lowestClass fs with
    | none => some f
    | some g => if f.body.cls ≤ g.body.cls then some f else some g

/-- The frame to offer (R154). -/
def State.pick (s : State) : Option Frame := lowestClass (s.lc.queue.filter s.mayStart)

/-- A frame starts its arbitration field. The loss count falls to 0 when a frame other than a HOLD-OFF is
offered that is not the one it counts for (R155). That a RELEASE picked and withdrawn at its offer, which starts nothing,
does not count as offered is the model's choice (log 63). -/
def State.startFrame (k : FrameKey) (s : State) : State :=
  let s1 := s.mapFrame k fun f => { f with started := true }
  if k = .holdOff ∨ s.lc.lossFor = some k then s1
  else { s1 with lc := { s1.lc with lossCount := 0, lossFor := none } }

/-- The frame on the medium stops: it keeps its place. -/
def State.stopFrame (k : FrameKey) (s : State) : State := s.mapFrame k fun f => { f with started := false }

/-- A lost arbitration of a frame other than a HOLD-OFF raises the loss count up to the limit (R155). -/
def State.raiseLoss (k : FrameKey) (s : State) : State :=
  if k = .holdOff then s
  else
    { s with lc := { s.lc with
        lossCount := min (s.lc.lossCount + 1) s.pc.params.holdOffLimit
        lossFor := some k } }.holdOffTest

/-- The 7-bit arbitration field: class, then station number (R151). -/
def State.arbitrationField (s : State) (f : Frame) : BitVec 7 :=
  BitVec.ofNat 7 (f.body.cls * 16 + s.station.val)

/-- Bit times a frame of body length `b` takes (R149). -/
def frameBitTimes (b : Nat) : Nat := 79 + 8 * b

/-- The CALL FIRST of this station, its body filled at entry (R163). -/
def State.enterCallFirst (s : State) : State := s.enter (.call true s.pc.params.fitted 0) 0

end Sys2Proof.Machine
end

