-- ==== Sys2Proof/Machine/Flags.lean ====
section
/-! DEFINITION. The conditions the rules test: claim, start, close and drain conditions, closing station, home
assignment, need window, release below the mark, the port's user and the lamps. -/

namespace Sys2Proof.Machine

/-! ### The job record (R1, R10, R18) -/

/-- T of the job's recipe. -/
def JobRecord.tracks (r : JobRecord) : Nat := r.recipe.tracks

/-- Stamping is on when the recipe has stamp spans (R1). -/
def JobRecord.stamping (r : JobRecord) : Bool := !r.recipe.spans.isEmpty

/-- A station is in a mask. -/
def inMask (m : StationMask) (i : StationId) : Bool := m.getLsbD i.val

/-- A mask with one more station. -/
def addMask (m : StationMask) (i : StationId) : StationMask := m ||| (1#16 <<< i.val)

/-- The list L of R18: roster stations not departed, ascending. -/
def JobRecord.remaining (r : JobRecord) : List StationId := stationsOf (r.roster &&& ~~~r.departed)

/-- The opener has departed. -/
def JobRecord.openerGone (r : JobRecord) : Bool := inMask r.departed r.opener

/-- The closing station (R10). -/
def JobRecord.closing (r : JobRecord) : Option StationId :=
  if r.openerGone then r.remaining.head? else some r.opener

/-! ### Home assignment (R18) -/

/-- Position `p` of `n` is a home position of track `t` with replica count `rr`. -/
def homePosition (n rr p t : Nat) : Bool := (List.range rr).any fun j => decide ((t + j) % n = p)

/-- The tracks below `tracks` whose home positions include `p`, ascending. -/
def homeTracks (tracks n rr p : Nat) : List Nat := (List.range tracks).filter fun t => homePosition n rr p t

/-- The home tracks of a station among the stations `l` (R18). -/
def homesAmong (l : List StationId) (tracks r : Nat) (i : StationId) : List Nat :=
  match l.idxOf? i with
  | some p => homeTracks tracks l.length (min r l.length) p
  | none => []

/-- The home set of a station in the job (R18): empty in a FORMAT job. -/
def JobRecord.homes (r : JobRecord) (i : StationId) : List Nat :=
  match r.kind with
  | .copy => homesAmong r.remaining r.tracks r.r i
  | .format => []

/-- Some roster position's home count exceeds 56 (R5). -/
def overfull (roster : StationMask) (tracks r : Nat) : Bool :=
  (stationsOf roster).any fun i =>
    decide (Config.homeCountLimit < (homesAmong (stationsOf roster) tracks r i).length)

/-! ### Serials (R61, R62, R4) -/

/-- The high mark is below a serial; marked none heard it is below every serial (R61). -/
def JobRecord.highBelow (r : JobRecord) (v : Nat) : Bool := r.noneHeard || decide (r.high < v)

/-- The serial a CLAIM filled now carries (R63). -/
def JobRecord.nextSerial (r : JobRecord) : Nat := if r.noneHeard then 0 else r.high + 1

/-- The claim conditions that the record alone decides: copies and serials left (R62). -/
def JobRecord.room (r : JobRecord) : Bool :=
  (decide (r.wanted = 0) || decide (r.accepted + r.claims.length < r.wanted)) && r.highBelow r.limit

/-- The claim conditions (R62). -/
def State.claimConditions (s : State) : Bool :=
  match s.jc.record with
  | some r => decide (r.state = .opened) && !s.cs.paused && r.room
  | none => false

/-- The start conditions (R78). -/
def State.startConditions (s : State) : Bool :=
  match s.jc.record with
  | some r => decide (r.state = .opened) && decide (r.role = .member) && !s.cs.paused && r.room
  | none => false

/-- Copies reached, or serials exhausted (R4, R74). -/
def JobRecord.drained (r : JobRecord) : Bool :=
  (decide (r.wanted ≠ 0) && decide (r.wanted ≤ r.accepted)) || (!r.noneHeard && decide (r.high = r.limit))

/-- The drain test of R4, made in OPEN. -/
def JobRecord.drainTest (r : JobRecord) : JobRecord :=
  if r.state = .opened ∧ r.drained then { r with state := .draining } else r

/-- The close conditions of R11 in this station's view. -/
def State.closeConditions (s : State) : Bool :=
  match s.jc.record with
  | some r =>
    decide (r.closing = some s.station) && decide (r.state = .draining) && r.claims.isEmpty
    && (decide (r.role ≠ .source) || s.ss.restoring.isNone)
  | none => false

/-! ### Distribution (R41 to R43) -/

/-- A track is below the release mark, or is treated so by R41. -/
def JobRecord.released (r : JobRecord) (u : Nat) : Bool :=
  decide (u < r.mark) || (r.lastRun && decide (u + 1 = r.tracks))

/-- The current track of the copy cycle, present while the disk is live (R76). -/
def Copy.current (cs : Copy) : Option Nat := if cs.disk.live then cs.disk.track else none

/-- The need window (R42). -/
def State.window (s : State) : List Nat :=
  match s.jc.record, s.cs.current with
  | some r, some c =>
    if r.kind = .copy ∧ r.role = .member then
      (List.range' c (s.pc.params.lookahead + 1)).filter fun u => decide (u < r.tracks)
    else []
  | _, _ => []

/-- The want list entry of a track, in either part (R44). -/
def Distribution.find (du : Distribution) (t : Nat) : Option Want :=
  (du.need ++ du.repair).find? fun w => decide (w.track = t)

/-- The want list has an entry for a track. -/
def Distribution.has (du : Distribution) (t : Nat) : Bool := (du.find t).isSome

/-! ### The drive port's user (R137) -/

/-- Users of the drive port. -/
inductive PortUser | copySequencer | sourceSequencer | nobody
  deriving DecidableEq, Repr

/-- The user of the drive port (R137). -/
def State.portUser (s : State) : PortUser :=
  match s.jc.record with
  | some r => match r.role with
    | .member => .copySequencer
    | .source => .sourceSequencer
    | .observer => if s.ss.state = .ending then .sourceSequencer else .nobody
  | none => if s.ss.state = .ending then .sourceSequencer else .nobody

/-- The station's role in the open job. -/
def State.role (s : State) : Option Role := s.jc.record.map (·.role)

/-! ### Lamps (R95, R168) -/

/-- What a lamp shows. -/
inductive Lamp | off | steady | flashing
  deriving DecidableEq, Repr

/-- Lamps are dark until the configuration load of power-on has completed (R163). -/
def State.dark (s : State) : Bool := decide (s.boot = .clearing true) || decide (s.boot = .loading)

/-- Number of flashes for an abandon reason (R168). -/
def AbandonReason.flashes : AbandonReason → Nat
  | .operator => 1
  | .masterUnreadable => 2
  | .masterMisfit => 3
  | .masterRemoved => 4
  | .trackLost => 5
  | .sourceLost => 6

/-- What the copy cycle calls AMBER to show (R95). -/
def State.cycleAmber (s : State) : Lamp :=
  match s.cs.state with
  | .empty => .off
  | .standby => if s.startConditions then .off else .flashing
  | .out => .off
  | _ => .steady

/-- What the Source Sequencer calls AMBER to show (R108). -/
def State.sourceAmber (s : State) : Lamp :=
  match s.ss.state with
  | .idle => .off
  | .ending => .off
  | _ => .steady

/-- AMBER: the abandon sequence over what the states call for (R168). In ENDING it is out, also with the record
gone, or at an OBSERVER of the next job, and the cycle in STANDBY, where R95 and R168 would have it flash: the model's
choice (log 21). -/
def State.amber (s : State) : Lamp :=
  if s.dark then .off
  else match s.pc.sequence with
    | some (reason, start) =>
      if s.now < start + reason.flashes * Config.flashPeriod then .flashing else .off
    | none => match s.portUser with
      | .sourceSequencer => s.sourceAmber
      | _ => s.cycleAmber

/-- GREEN (R95). -/
def State.green (s : State) : Lamp :=
  if !s.dark && decide (s.cs.state = .out) && decide (s.cs.outcome = some .accepted) then .steady else .off

/-- RED: the LOAD refusal flash over what the cycle calls for (R95, R168). -/
def State.red (s : State) : Lamp :=
  if s.dark then .off
  else if s.pc.flash.isSome then .flashing
  else if s.cs.state = .out ∧ s.cs.outcome = some .rejected then .steady else .off

end Sys2Proof.Machine
end

