-- ==== Sys2Proof/Machine/Operands.lean ====
section
/-! DEFINITION. Byte layouts read and written: frame bodies (R171, R172), the configuration store (R164, R174)
and the query pages (R170, R175). -/

namespace Sys2Proof.Machine

/-! ### Codes (R172, R175) -/

/-- Job kind codes. -/
def JobKind.code : JobKind → Byte
  | .copy => 1
  | .format => 2

/-- Abandon reason codes. -/
def AbandonReason.code : AbandonReason → Byte
  | .operator => 1
  | .masterUnreadable => 2
  | .masterMisfit => 3
  | .masterRemoved => 4
  | .trackLost => 5
  | .sourceLost => 6

/-- The abandon reason of a code, if it is listed. -/
def AbandonReason.ofCode (b : Byte) : Option AbandonReason :=
  [.operator, .masterUnreadable, .masterMisfit, .masterRemoved, .trackLost, .sourceLost].find?
    fun a => decide (AbandonReason.code a = b)

/-- Disk fault codes 01h to 0Eh. -/
def DiskFault.code : DiskFault → Byte
  | .protected_ => 0x01
  | .noIndex => 0x02
  | .speed => 0x03
  | .noTrack0 => 0x04
  | .overrun => 0x05
  | .storeDamage => 0x06
  | .verifyMissing => 0x07
  | .verifyCheck => 0x08
  | .verifyMismatch => 0x09
  | .stampMismatch => 0x0A
  | .trackUnobtainable => 0x0B
  | .serialConflict => 0x0C
  | .pulled => 0x0D
  | .abandoned => 0x0E

/-- Code of a fault or none. -/
def faultCode (f : Option DiskFault) : Byte := (f.map DiskFault.code).getD 0

/-- The fault or none of a code: nothing when the code is not listed. -/
def faultOfCode (b : Byte) : Option (Option DiskFault) :=
  if b = 0 then some none
  else ([DiskFault.protected_, .noIndex, .speed, .noTrack0, .overrun, .storeDamage, .verifyMissing, .verifyCheck,
    .verifyMismatch, .stampMismatch, .trackUnobtainable, .serialConflict, .pulled, .abandoned].find?
      fun f => decide (f.code = b)).map some

/-- Outcome codes. -/
def DiskOutcome.code : DiskOutcome → Byte
  | .accepted => 1
  | .rejected => 2
  | .pulled => 3

/-- The outcome of a code, if it is listed. -/
def DiskOutcome.ofCode (b : Byte) : Option DiskOutcome :=
  [.accepted, .rejected, .pulled].find? fun o => decide (DiskOutcome.code o = b)

/-- RELEASE status codes. -/
def ReleaseStatus.code : ReleaseStatus → Byte
  | .good => 1
  | .lost => 2

/-- The RELEASE status of a code, if it is listed. -/
def ReleaseStatus.ofCode (b : Byte) : Option ReleaseStatus :=
  if b = 1 then some .good else if b = 2 then some .lost else none

/-- RELEASE reason codes. -/
def ReleaseReason.code : ReleaseReason → Byte
  | .firstPass => 1
  | .answer => 2
  | .restore => 3

/-- The RELEASE reason of a code, if it is listed. -/
def ReleaseReason.ofCode (b : Byte) : Option ReleaseReason :=
  [.firstPass, .answer, .restore].find? fun r => decide (ReleaseReason.code r = b)

/-- REPLY status codes. -/
def ReplyStatus.code : ReplyStatus → Byte
  | .ok => 1
  | .noPage => 2
  | .range => 3

/-! ### Bodies as received (R172) -/

/-- A JOB OPEN body. A recipe record with an unlisted code is no recipe, which R6 discards (R173). -/
structure OpenBody where
  kind   : JobKind
  roster : StationMask
  r      : Nat
  wanted : Nat
  base   : Nat
  limit  : Nat
  recipe : Option Recipe
  deriving DecidableEq, Repr

/-- A TALLY body. -/
structure TallyBody where
  outcome  : DiskOutcome
  serial   : Option Nat
  first    : Option DiskFault
  further  : Nat
  verified : Nat
  deriving DecidableEq, Repr

/-- A WANT body. -/
structure WantBody where
  track   : Nat
  attempt : Nat
  restore : Bool
  deriving DecidableEq, Repr

/-- A RELEASE body: sectors as listed, none when LOST. -/
structure ReleaseBody where
  track   : Nat
  status  : ReleaseStatus
  reason  : ReleaseReason
  size    : Nat
  count   : Nat
  check   : CheckWord
  sectors : List (Nat × List Byte)
  deriving DecidableEq, Repr

/-- A CALL body. -/
structure CallBody where
  first    : Bool
  fitted   : Bool
  revision : Byte
  jobId    : JobId
  deriving DecidableEq, Repr

/-- A QUERY body. -/
structure QueryBody where
  target : Nat
  page   : Nat
  offset : Nat
  count  : Nat
  clear  : Bool
  deriving DecidableEq, Repr

/-- HOLD-OFF: no body. -/
def parseHoldOff (bs : List Byte) : Option Unit := if bs.length = 0 then some () else none

/-- JOB OPEN. -/
def parseOpen (bs : List Byte) : Option OpenBody :=
  let kind : Option JobKind := if byteAt bs 0 = 1 then some .copy else if byteAt bs 0 = 2 then some .format else none
  match kind with
  | some k =>
    if bs.length = 87 then
      some {
        kind := k, roster := BitVec.ofNat 16 (beAt bs 1 2), r := (byteAt bs 3).toNat, wanted := beAt bs 4 2,
        base := beAt bs 6 4, limit := beAt bs 10 4, recipe := Recipe.ofBytes (bs.drop 14) }
    else none
  | none => none

/-- JOB STOP: the reason is OPERATOR alone. -/
def parseStop (bs : List Byte) : Option Unit := if bs.length = 2 ∧ byteAt bs 1 = 1 then some () else none

/-- JOB CLOSE: the carried high mark. The other fields are read by no SC-40 (R12). -/
def parseClose (bs : List Byte) : Option Nat := if bs.length = 17 then some (beAt bs 13 4) else none

/-- JOB ABANDON. -/
def parseAbandon (bs : List Byte) : Option AbandonReason :=
  if bs.length = 2 then AbandonReason.ofCode (byteAt bs 1) else none

/-- CLAIM: the serial and the carried high mark. -/
def parseClaim (bs : List Byte) : Option (Nat × Nat) :=
  if bs.length = 8 then some (beAt bs 0 4, beAt bs 4 4) else none

/-- TALLY. -/
def parseTally (bs : List Byte) : Option TallyBody :=
  if bs.length = 9 then
    match DiskOutcome.ofCode (byteAt bs 0), flagOf (byteAt bs 1), faultOfCode (byteAt bs 6) with
    | some o, some present, some f =>
      some { outcome := o, serial := if present then some (beAt bs 2 4) else none, first := f,
             further := (byteAt bs 7).toNat, verified := (byteAt bs 8).toNat }
    | _, _, _ => none
  else none

/-- WANT. -/
def parseWant (bs : List Byte) : Option WantBody :=
  if bs.length = 3 then
    (flagOf (byteAt bs 2)).map fun f =>
      { track := (byteAt bs 0).toNat, attempt := (byteAt bs 1).toNat, restore := f }
  else none

/-- `n` sector entries, each an ID and `size` bytes. -/
def sectorEntries : (n size : Nat) → List Byte → List (Nat × List Byte)
  | 0, _, _ => []
  | n + 1, size, bs => ((byteAt bs 0).toNat, (bs.drop 1).take size) :: sectorEntries n size (bs.drop (size + 1))

/-- Body length of a RELEASE of a size code and a sector count (R172). -/
def releaseLength (status : ReleaseStatus) (size count : Nat) : Nat :=
  match status with
  | .good => 9 + count * (1 + 128 * 2 ^ size)
  | .lost => 9

/-- RELEASE. -/
def parseRelease (bs : List Byte) : Option ReleaseBody :=
  match ReleaseStatus.ofCode (byteAt bs 1), ReleaseReason.ofCode (byteAt bs 2) with
  | some status, some reason =>
    let size := (byteAt bs 3).toNat
    let count := (byteAt bs 4).toNat
    if 9 ≤ bs.length ∧ bs.length = releaseLength status size count then
      some {
        track := (byteAt bs 0).toNat, status := status, reason := reason, size := size, count := count,
        check := BitVec.ofNat 32 (beAt bs 5 4),
        sectors := match status with
          | .good => sectorEntries count (128 * 2 ^ size) (bs.drop 9)
          | .lost => [] }
    else none
  | _, _ => none

/-- CALL. -/
def parseCall (bs : List Byte) : Option CallBody :=
  let type : Option Bool := if byteAt bs 0 = 1 then some true else if byteAt bs 0 = 2 then some false else none
  match type, flagOf (byteAt bs 1) with
  | some first, some fitted =>
    if bs.length = 5 then
      some { first := first, fitted := fitted, revision := byteAt bs 2, jobId := BitVec.ofNat 16 (beAt bs 3 2) }
    else none
  | _, _ => none

/-- QUERY. -/
def parseQuery (bs : List Byte) : Option QueryBody :=
  if bs.length = 7 then
    (flagOf (byteAt bs 6)).map fun c =>
      { target := (byteAt bs 0).toNat, page := (byteAt bs 1).toNat, offset := beAt bs 2 2, count := beAt bs 4 2,
        clear := c }
  else none

/-- REPLY: page and offset. -/
def parseReply (bs : List Byte) : Option (Nat × Nat) :=
  if inRange 4 260 bs.length && inRange 1 3 (byteAt bs 3).toNat then some ((byteAt bs 0).toNat, beAt bs 1 2) else none

/-! ### Bodies and frames as sent (R171, R172) -/

/-- The sector entries of a RELEASE sent from a slot (R34). -/
def Store.releaseSectors (st : Store) (r : Recipe) (i : Nat) : List Byte :=
  r.ids.flatMap fun sector => byteOf sector :: st.sectorData r i sector

/-- The slot that a RELEASE of a track is read from (R34): the slot that holds the track, or, once that one is
closing, the slot its link pin keeps. -/
def Store.releaseSlot (st : Store) (t : Nat) : Option Nat :=
  match st.heldSlot t with
  | some i => some i
  | none => st.linkPinned.filter fun i => decide ((st.slot i).track = some t)

/-- A flag with its number: present byte, then the number in 4 bytes, 0 when absent. -/
def optSerial (v : Option Nat) : List Byte := flagByte v.isSome :: beBytes 4 (v.getD 0)

/-- The body bytes of a queued frame, as they would go out now (R172). -/
def State.bodyBytes (s : State) : Body → List Byte
  | .holdOff => []
  | .jobOpen j =>
    j.kind.code :: beBytes 2 j.roster.toNat ++ [byteOf j.r] ++ beBytes 2 j.wanted ++ beBytes 4 j.base
    ++ beBytes 4 j.limit ++ j.recipe.toBytes
  | .jobStop => [byteOf s.station.val, 1]
  | .jobClose a v w h => byteOf s.station.val :: beBytes 4 a ++ beBytes 4 v ++ beBytes 4 w ++ beBytes 4 h
  | .jobAbandon reason => [byteOf s.station.val, reason.code]
  | .claim v c => beBytes 4 v ++ beBytes 4 c
  | .tally o v f further verified =>
    o.code :: optSerial v ++ [faultCode f, byteOf further, byteOf verified]
  | .want t a f => [byteOf t, byteOf a, flagByte f]
  | .release t status reason _ size count check =>
    [byteOf t, status.code, reason.code, byteOf size, byteOf count] ++ beBytes 4 check.toNat
    ++ match status, s.jc.record, s.store.releaseSlot t with
       | .good, some r, some i => s.store.releaseSectors r.recipe i
       | _, _, _ => []
  | .call first fitted jobId =>
    [if first then 1 else 2, flagByte fitted, byteOf Config.partRevision] ++ beBytes 2 jobId.toNat
  | .reply page offset status data => byteOf page :: beBytes 2 offset ++ status.code :: data

/-- The bytes of a frame from the kind through the body: what the frame check covers (R171). -/
def coveredBytes (code : Byte) (jobId : JobId) (body : List Byte) : List Byte :=
  code :: beBytes 2 jobId.toNat ++ beBytes 2 body.length ++ body

/-- The bytes of a queued frame on the medium after its arbitration field (R171). -/
def State.frameBytes (s : State) (f : Frame) : List Byte :=
  let covered := coveredBytes f.body.code f.jobId (s.bodyBytes f.body)
  covered ++ beBytes 4 (crc32 covered).toNat

/-! ### Receive checks (R158) -/

/-- The kind codes of R171. -/
def kindCodes : List Byte := [0x01, 0x11, 0x12, 0x13, 0x14, 0x21, 0x31, 0x41, 0x51, 0x61, 0x71, 0x72]

/-- The three checks of R158 on a frame as it arrives: its class, the bytes after its arbitration field, and
whether a break ended it. -/
def receivePasses (cls : Fin 8) (bs : List Byte) (broke : Bool) : Bool :=
  let b := beAt bs 3 2
  decide (byteAt bs 0 ∈ kindCodes) && decide ((byteAt bs 0).toNat / 16 = cls.val) && decide (b ≤ Config.maxBody)
  && !broke && decide (bs.length = b + 9) && decide (crc32 (bs.take (b + 5)) = BitVec.ofNat 32 (beAt bs (b + 5) 4))

/-! ### The configuration store (R164, R174) -/

/-- What a read of the store gives: nothing when the store does not answer at one of the bytes. -/
def storeRead (bs : List Byte) (i n : Nat) : Option (List Byte) :=
  if i + n ≤ bs.length then some ((bs.drop i).take n) else none

/-- Directory entry `e`: length and byte offset of a block that is present (R174). -/
def directoryBlock (dir : List Byte) (e : Nat) : Option (Nat × Nat) :=
  let len := beAt dir (4 * e) 2
  let off := beAt dir (4 * e + 2) 2 * 4
  if len = 0 ∨ Config.configBytes < off + len ∨ off < 37 then none else some (len, off)

/-- The station block (R174); none when its length is not 22 or a field lies outside its range (R165). -/
def Params.ofBytes (b : List Byte) : Option Params :=
  match flagOf (byteAt b 0), flagOf (byteAt b 11) with
  | some fitted, some requireProt =>
    let p : Params := {
      fitted := fitted, r := (byteAt b 1).toNat, holdOffLimit := (byteAt b 2).toNat,
      holdOffTime := (byteAt b 3).toNat, wantTimeout := (byteAt b 4).toNat, wantAttempts := (byteAt b 5).toNat,
      restoreTimeout := beAt b 6 2, lookahead := (byteAt b 8).toNat, spinUpLimit := beAt b 9 2,
      requireProt := requireProt, wanted := beAt b 12 2, serialBase := beAt b 14 4, serialSpan := beAt b 18 4 }
    if b.length = 22 && inRange 1 3 p.r && inRange 2 15 p.holdOffLimit && inRange 5 100 p.holdOffTime
        && inRange 10 250 p.wantTimeout && inRange 1 7 p.wantAttempts && inRange 500 5000 p.restoreTimeout
        && inRange 0 4 p.lookahead && inRange 500 2000 p.spinUpLimit && decide (1 ≤ p.serialSpan)
    then some p else none
  | _, _ => none

/-- The station parameters in 22 bytes (R174). -/
def Params.toBytes (p : Params) : List Byte :=
  [flagByte p.fitted, byteOf p.r, byteOf p.holdOffLimit, byteOf p.holdOffTime, byteOf p.wantTimeout,
   byteOf p.wantAttempts] ++ beBytes 2 p.restoreTimeout ++ [byteOf p.lookahead] ++ beBytes 2 p.spinUpLimit
  ++ [flagByte p.requireProt] ++ beBytes 2 p.wanted ++ beBytes 4 p.serialBase ++ beBytes 4 p.serialSpan

/-- A valid recipe from its record (R123, R173). -/
def recipeOfRecord (b : List Byte) : Option Recipe := (Recipe.ofBytes b).filter Recipe.valid

/-- What the load puts in effect. -/
structure Loaded where
  params    : Params
  directory : Vector (Option Recipe) 8
  deriving DecidableEq, Repr

/-- No signature, or a store that stops answering: defaults and built-in recipe 0 (R164). -/
def Loaded.defaults : Loaded where
  params := {}
  directory := (Vector.replicate 8 none).set 0 (some Recipe.builtIn)

/-- Reads one block of the directory for use, if it has the length its use needs; a block of another length is
not read (log 34). The outer option is none when the store stops answering. -/
def readBlock (bs dir : List Byte) (e len : Nat) : Option (Option (Option (List Byte))) :=
  match directoryBlock dir e with
  | none => some none
  | some (l, off) => if l = len then (storeRead bs off l).map fun b => some (some b) else some (some none)

/-- Recipe `k` of the directory, from what its block read as: absent, of a wrong length, or bytes (R164). -/
def directoryRecipe (k : Nat) : Option (Option (List Byte)) → Option Recipe
  | none => if k = 0 then some Recipe.builtIn else none
  | some none => none
  | some (some b) => recipeOfRecord b

/-- The recipes from number `k` on; none when the store stops answering. -/
def loadRecipes (bs dir : List Byte) : (n k : Nat) → Option (List (Option Recipe))
  | 0, _ => some []
  | n + 1, k =>
    match readBlock bs dir (k + 1) 73, loadRecipes bs dir n (k + 1) with
    | some b, some rest => some (directoryRecipe k b :: rest)
    | _, _ => none

/-- The configuration load over the bytes the store answers (R164). -/
def loadConfig (bs : List Byte) : Loaded :=
  if bs.head? = some Config.storeSignature then
    match storeRead bs 1 36 with
    | none => Loaded.defaults
    | some dir =>
      match readBlock bs dir 0 22, loadRecipes bs dir 8 0 with
      | some block, some recipes =>
        let p := match block with
          | some (some b) => (Params.ofBytes b).getD {}
          | _ => {}
        { params := p, directory := Vector.ofFn fun i => (recipes[i.val]?).getD none }
      | _, _ => Loaded.defaults
  else Loaded.defaults

/-! ### Query pages (R170, R175) -/

/-- A track or slot number, 0FFh for none (12, opening). -/
def orNone (t : Option Nat) : Byte := (t.map byteOf).getD 0xFF

/-- Page 0: the presence table. -/
def State.page0 (s : State) : List Byte :=
  s.lc.presence.toList.flatMap fun p =>
    [flagByte p.present, flagByte p.fitted, p.revision] ++ beBytes 2 p.jobId.toNat

/-- Job state codes. -/
def JobState.code : JobState → Byte
  | .opened => 1
  | .draining => 2

/-- Role codes. -/
def Role.code : Role → Byte
  | .source => 1
  | .member => 2
  | .observer => 3

/-- Source Sequencer state codes. -/
def SourceState.code : SourceState → Byte
  | .idle => 0
  | .spinup => 1
  | .home => 2
  | .read => 3
  | .release => 4
  | .serve => 5
  | .ending => 6

/-- Page 1: the job record, and at a SOURCE the master record. -/
def State.page1 (s : State) : List Byte :=
  match s.jc.record with
  | none => List.replicate 121 0
  | some r =>
    [r.state.code, r.role.code] ++ beBytes 2 r.jobId.toNat ++ [r.kind.code, byteOf r.opener.val]
    ++ r.recipe.toBytes ++ [byteOf r.tracks, byteOf r.r] ++ beBytes 2 r.roster.toNat
    ++ beBytes 2 r.departed.toNat ++ [flagByte r.joinRefused, byteOf r.mark] ++ beBytes 2 r.wanted
    ++ beBytes 4 r.base ++ beBytes 4 r.limit ++ beBytes 4 r.high ++ beBytes 4 r.heard ++ beBytes 4 r.accepted
    ++ beBytes 4 r.void ++ beBytes 4 r.withdrawn
    ++ [byteOf r.claims.length, flagByte r.stamping, byteOf r.homeShort, byteOf r.repair.length]
    ++ r.repair.map byteOf
    ++ if r.role = .source then
         [s.ss.state.code, flagByte s.ss.present, flagByte s.ss.prot, byteOf s.ss.firstTrack,
          orNone s.ss.restoring]
       else []

/-- Page 2: the claim list. -/
def State.page2 (s : State) : List Byte :=
  match s.jc.record with
  | none => []
  | some r => r.claims.flatMap fun c => beBytes 4 c.serial ++ [byteOf c.station.val]

/-- Presence codes. -/
def TrackPresence.code : TrackPresence → Byte
  | .absent => 0
  | .filling => 1
  | .held => 2

/-- Page 3: the track map. -/
def State.page3 (s : State) : List Byte :=
  s.store.map.toList.flatMap fun e => [e.presence.code, orNone e.slot, flagByte e.home]

/-- Slot state codes. -/
def SlotState.code : SlotState → Byte
  | .free => 0
  | .filling => 1
  | .home => 2
  | .cache => 3

/-- Page 4: the slot table. -/
def State.page4 (s : State) : List Byte :=
  s.store.slots.toList.flatMap fun e =>
    [e.state.code, orNone e.track] ++ beBytes 4 e.check.toNat
    ++ [flagByte e.drivePin, flagByte e.linkPin, flagByte e.damaged, flagByte e.freePending]

/-- Want phase codes. -/
def WantPhase.code : WantPhase → Byte
  | .queued => 1
  | .waiting => 2
  | .unsent => 3

/-- Time left to a deadline in ms (R44). How a part of a millisecond shows is a free value (log 14). -/
def timeLeft (now : Nat) : Option Nat → Nat
  | none => 0
  | some d =>
    let us := d - now
    if us % 1000 = 0 then us / 1000
    else us / 1000 + (Config.timeLeftRoundsUp us).toNat

/-- A want list position. -/
def wantEntry (now : Nat) : Option Want → List Byte
  | none => [0xFF, 0, 0, 0, 0, 0]
  | some w =>
    [byteOf w.track, byteOf w.attempt, flagByte w.restore, w.phase.code] ++ beBytes 2 (timeLeft now w.deadline)

/-- Page 5: the want list, positions 1 to 8. -/
def State.page5 (s : State) : List Byte :=
  (List.range 5).flatMap (fun i => wantEntry s.now s.du.need[i]?)
  ++ (List.range 3).flatMap (fun i => wantEntry s.now s.du.repair[i]?)

/-- End cause codes. -/
def causeCode : Option EndCause → Byte
  | none => 0
  | some (.abandon reason) => reason.code
  | some .close => 7
  | some .restart => 8

/-- Page 6: the disk history. -/
def State.page6 (s : State) : List Byte :=
  s.pc.history.flatMap fun h =>
    h.outcome.code :: optSerial h.serial ++ [faultCode h.first, byteOf h.further, byteOf h.verified, causeCode h.cause]

/-- The nine counters in the order of page 7 (R170). -/
def Counters.toList (c : Counters) : List Nat :=
  [c.badFrames, c.sendFaults, c.holdOffs, c.wants, c.restores, c.damaged, c.noRoom, c.accepted, c.rejected]

/-- Page 7: the counters. -/
def State.page7 (s : State) : List Byte := s.lc.counters.toList.flatMap (beBytes 4)

/-- LOAD refusal codes. -/
def refusalCode : Option LoadRefusal → Byte
  | none => 0
  | some .rigBusy => 1
  | some .recipeInvalid => 2
  | some .masterNotProtected => 3
  | some .noRoom => 4

/-- Usable recipes, bit k for recipe k. -/
def usableMask (d : Vector (Option Recipe) 8) : Byte :=
  (List.range 8).foldl (fun m k => if ((d[k]?).getD none).isSome then m ||| (1#8 <<< k) else m) 0

/-- Page 8: the configuration in effect. -/
def State.page8 (s : State) : List Byte :=
  byteOf s.station.val :: s.pc.params.toBytes ++ beBytes 4 s.jc.nextBase
  ++ [usableMask s.pc.directory, refusalCode s.pc.refusal]

/-- A query page (R170). -/
def State.page (s : State) : Nat → Option (List Byte)
  | 0 => some s.page0
  | 1 => some s.page1
  | 2 => some s.page2
  | 3 => some s.page3
  | 4 => some s.page4
  | 5 => some s.page5
  | 6 => some s.page6
  | 7 => some s.page7
  | 8 => some s.page8
  | _ => none

/-- Status and data of the REPLY to a QUERY (R170). -/
def State.answer (s : State) (q : QueryBody) : ReplyStatus × List Byte :=
  match s.page q.page with
  | none => (.noPage, [])
  | some bytes =>
    if inRange 1 256 q.count && decide (q.offset ≤ bytes.length) then (.ok, (bytes.drop q.offset).take q.count)
    else (.range, [])

/-- A counter of which at least one byte lies in the data is set to 0 (R170): counter `k` has bytes 4k to
4k + 3, the data bytes `off` to `off + len − 1`. -/
def clearedCounter (off len k c : Nat) : Nat := if off < 4 * k + 4 ∧ 4 * k < off + len then 0 else c

/-- The counters after a read of page 7 with the clear flag (R170). -/
def Counters.clearRead (off len : Nat) (c : Counters) : Counters where
  badFrames := clearedCounter off len 0 c.badFrames
  sendFaults := clearedCounter off len 1 c.sendFaults
  holdOffs := clearedCounter off len 2 c.holdOffs
  wants := clearedCounter off len 3 c.wants
  restores := clearedCounter off len 4 c.restores
  damaged := clearedCounter off len 5 c.damaged
  noRoom := clearedCounter off len 6 c.noRoom
  accepted := clearedCounter off len 7 c.accepted
  rejected := clearedCounter off len 8 c.rejected

end Sys2Proof.Machine
end

