-- ==== Sys2Proof/Machine/Drive.lean ====
section
/-! DEFINITION. The operations of the Drive Port and Spindle Monitor (09_the_drive_port_and_spindle_monitor.md):
lines, head motion, spindle record, index watch, qualify request, revolution counter, and the write stream's
build position. -/

namespace Sys2Proof.Machine

/-! ### Lines (R136 to R139) -/

/-- WGATE drops (R139). -/
def Drive.dropGate (dp : Drive) : Drive := { dp with wgate := false }

/-- The spindle record is cleared, and the watch restarts from the clearing while MOTOR is active (R147). -/
def Drive.clearSpindle (now : Nat) (dp : Drive) : Drive :=
  { dp with spindle := { watch := if dp.motor then some now else none } }

/-- A seek or recalibrate in progress is ended before its end: the current cylinder becomes unknown (R143). -/
def Drive.endMotion (dp : Drive) : Drive :=
  match dp.motion with
  | some _ => { dp with motion := none, cylinder := none, step := false }
  | none => dp

/-- MOTOR and SELECT are asserted: the spindle record is cleared and the index watch starts (R138). -/
def Drive.startMotor (now : Nat) (dp : Drive) : Drive :=
  { dp with motor := true, select := true }.clearSpindle now

/-- MOTOR and SELECT are released: WGATE drops, a motion in progress ends, the spindle record is cleared, the
revolution counter is disarmed and an open qualify request closes (R138, R145). -/
def Drive.stopMotor (dp : Drive) : Drive :=
  { dp.endMotion with
    motor := false, select := false, wgate := false, spindle := {}, counter := none, qualify := none }

/-- The lines that a port without a user still has to bring to rest (R137). -/
def Drive.atRest (dp : Drive) : Drive := { dp with head := false, dir := false, step := false, lock := false }

/-- An EJECT request: LOCK is released, and a pulse begins unless one is running (R138). -/
def Drive.ejectRequest (now : Nat) (dp : Drive) : Drive :=
  { dp with
    lock := false
    ejectEnds := match dp.ejectEnds with
      | some e => some e
      | none => some (now + Config.ejectPulse) }

/-- The lines come to LOCK, MOTOR and SELECT asserted, with a qualify request from the assertion of MOTOR
(R79, R111, R145). -/
def Drive.spinUp (now limit : Nat) (dp : Drive) : Drive :=
  { dp.startMotor now with lock := true, qualify := some { limit := now + limit } }

/-- After a restart every output is inactive but a running EJECT pulse, the cylinder unknown, the spindle record
cleared and the counter idle (R136, R166). The input lines stay. -/
def Drive.restarted (dp : Drive) : Drive :=
  { ejectEnds := dp.ejectEnds, diskin := dp.diskin, wprot := dp.wprot, trk0 := dp.trk0 }

/-! ### Head motion (R140 to R142) -/

/-- HEAD is set, unless WGATE is active (R140). -/
def Drive.setHead (h : Bool) (dp : Drive) : Drive := if dp.wgate then dp else { dp with head := h }

/-- A seek from the known cylinder `cur`: the drive after the request, and whether the seek has ended good at
once (R141). -/
def Drive.seekFrom (r : Recipe) (now cur c : Nat) (h : Bool) (dp : Drive) : Drive × Bool :=
  if cur = c then
    if dp.head = h then (dp, true)
    else
      ({ dp.setHead h with
         motion := some { kind := .seek c h, settling := true, ends := now + r.headSettle * 1000 } }, false)
  else
    let p := (if c < cur then cur - c else c - cur) * r.stepMult
    ({ dp with
       dir := decide (cur < c)
       step := true
       motion := some { kind := .seek c h, pulses := 1, toGo := p - 1, ends := now + r.stepTime * 1000 } }, false)

/-- A recalibrate: DIR outward and head 0, then TRK0 is read (R142). The second part is yes when it has ended
good at once. -/
def Drive.recalibrate (r : Recipe) (now : Nat) (goal : Option (Nat × Bool)) (dp : Drive) : Drive × Bool :=
  let d := { dp.setHead false with dir := false }
  if d.trk0 then ({ d with cylinder := some 0 }, true)
  else
    ({ d with
       step := true
       motion := some { kind := .recalibrate goal, pulses := 1, ends := now + r.stepTime * 1000 } }, false)

/-- A recalibrate request of the user: refused while a motion is in progress (R137). -/
def Drive.requestRecalibrate (r : Recipe) (now : Nat) (dp : Drive) : Drive × Bool :=
  if dp.motion.isSome then (dp, false) else dp.recalibrate r now none

/-- A seek request of the user (R141): refused while a motion is in progress (R137); from an unknown cylinder a
recalibrate is made first. -/
def Drive.requestSeek (r : Recipe) (now c : Nat) (h : Bool) (dp : Drive) : Drive × Bool :=
  if dp.motion.isSome then (dp, false)
  else match dp.cylinder with
    | some cur => dp.seekFrom r now cur c h
    | none => match dp.recalibrate r now (some (c, h)) with
      | (d, true) => d.seekFrom r now 0 c h
      | (d, false) => (d, false)

/-- What the end of a step time or a settle gives: nothing for the user yet, a good or failed seek, or a good or
failed recalibrate. -/
inductive MotionResult
  | going | seekGood | seekFailed | recalibrateGood | recalibrateFailed
  deriving DecidableEq, Repr

/-- The end of a step time (R141, R142). -/
def Drive.stepEnd (r : Recipe) (dp : Drive) : Drive × MotionResult :=
  match dp.motion with
  | none => (dp, .going)
  | some m =>
    if m.settling then (dp, .going)
    else match m.kind with
      | .seek _ h =>
        if m.toGo = 0 then
          ({ dp.setHead h with
             step := false
             motion := some { m with settling := true, ends := m.ends + r.headSettle * 1000 } }, .going)
        else
          ({ dp with
             motion := some { m with pulses := m.pulses + 1, toGo := m.toGo - 1, ends := m.ends + r.stepTime * 1000 } },
           .going)
      | .recalibrate goal =>
        if dp.trk0 then
          ({ dp with
             step := false
             motion := some { m with settling := true, ends := m.ends + r.headSettle * 1000 } }, .going)
        else if m.pulses < Config.recalibratePulses then
          ({ dp with motion := some { m with pulses := m.pulses + 1, ends := m.ends + r.stepTime * 1000 } }, .going)
        else
          ({ dp with motion := none, cylinder := none, step := false },
           if goal.isSome then .seekFailed else .recalibrateFailed)

/-- The end of a head settle (R141, R142). A seek to cylinder 0 reads TRK0 here, one that only selects a head as
well: the model's choice (log 42). -/
def Drive.settleEnd (r : Recipe) (now : Nat) (dp : Drive) : Drive × MotionResult :=
  match dp.motion with
  | none => (dp, .going)
  | some m =>
    if !m.settling then (dp, .going)
    else match m.kind with
      | .seek c _ =>
        if c = 0 ∧ dp.trk0 = false then ({ dp with motion := none, cylinder := none }, .seekFailed)
        else ({ dp with motion := none, cylinder := some c }, .seekGood)
      | .recalibrate none => ({ dp with motion := none, cylinder := some 0 }, .recalibrateGood)
      | .recalibrate (some (c, h)) =>
        match { dp with motion := none, cylinder := some 0 }.seekFrom r now 0 c h with
        | (d, true) => (d, .seekGood)
        | (d, false) => (d, .going)

/-- When the present step time or settle ends. -/
def Drive.motionEnds (dp : Drive) : Nat := (dp.motion.map (·.ends)).getD 0

/-! ### Spindle monitor (R144 to R147) -/

/-- What an INDEX edge at `time` does to the spindle record (R144): a timing start, or a capture. -/
def Spindle.edge (r : Recipe) (time : Nat) (sp : Spindle) : Spindle :=
  match sp.lastEdge with
  | none => { sp with lastEdge := some time, watch := some time }
  | some e =>
    let period := time - e
    let good := r.inTolerance period
    let count := if good then min (sp.count + 1) Config.qualifyingPeriods else 0
    { period := some period, inTol := good, count := count,
      qualified := sp.qualified || decide (count = Config.qualifyingPeriods),
      lastEdge := some time, watch := some time }

/-- The revolution counter at an INDEX edge (R148). -/
def countEdge : Option Nat → Option Nat
  | none => none
  | some n => some (n - 1)

/-- An INDEX edge at the DP: capture by the job's recipe while MOTOR is active, count, and index seen
(R144, R145, R148). -/
def Drive.indexEdge (r : Option Recipe) (time : Nat) (dp : Drive) : Drive :=
  { dp with
    spindle := match dp.motor, r with
      | true, some r => dp.spindle.edge r time
      | _, _ => dp.spindle
    counter := countEdge dp.counter
    qualify := dp.qualify.map fun q => { q with seen := true } }

/-- A NO INDEX event at the DP: the record is emptied, the watch stops, WGATE drops (R146). -/
def Drive.noIndex (dp : Drive) : Drive := { dp with spindle := {}, wgate := false }

/-- The revolution counter is armed with preload `p` (R148). -/
def Drive.arm (p : Nat) (dp : Drive) : Drive := { dp with counter := some (p + 1) }

/-- The revolution counter is disarmed (R148). -/
def Drive.disarm (dp : Drive) : Drive := { dp with counter := none }

/-- The fault of a report of not qualified (R145). -/
def notQualified (seen : Bool) : DiskFault := if seen then .speed else .noIndex

/-! ### State-level forms -/

/-- A change of the drive port. -/
def State.mapDrive (g : Drive → Drive) (s : State) : State := { s with dp := g s.dp }

/-- A port without a user has its outputs inactive (R137). -/
def State.idlePort (s : State) : State :=
  match s.portUser with
  | .nobody => s.mapDrive Drive.atRest
  | _ => s

/-- The recipe the DP works by: the job's copy (R126). -/
def State.recipe (s : State) : Option Recipe := s.jc.record.map (·.recipe)

/-- A qualify request from now, within the spin-up limit (R145). -/
def State.openQualify (s : State) : State :=
  s.mapDrive fun dp => { dp with qualify := some { limit := s.after s.pc.params.spinUpLimit } }

/-- WGATE drops and the write stream stops early (R135, R139). -/
def State.stopWrite (s : State) : State := { s with dp := s.dp.dropGate, tb := none }

/-- MOTOR and SELECT are released; a stream in progress stops with WGATE (R138). -/
def State.stopMotor (s : State) : State := { s with dp := s.dp.stopMotor, tb := none }

/-- WGATE may be asserted (R139). -/
def State.gateAllowed (s : State) : Bool :=
  !s.dp.wprot && decide (s.role = some .member) && s.dp.motor && s.dp.select && s.dp.motion.isNone

/-! ### The write stream as seen on the port (R134) -/

/-- The bytes sent since the arming edge and the build position, while a write is in progress (R134). -/
def State.buildPosition (s : State) : Option (TrackPart × Nat × Nat) :=
  match s.tb, s.recipe with
  | some t, some r => some (r.buildPosition (r.bytesIn (s.now - t.since)))
  | _, _ => none

/-- The built track of the write in progress: its bytes to the end of the last gap-3 (R128). The slot is read as it
stands at each byte sent, so bytes that change while their sector goes out enter what follows of it, its data check
too: the model's choice (log 56). -/
def State.builtTrack (s : State) : List TrackByte :=
  match s.jc.record, s.cs.current with
  | some r, some t =>
    let data := match s.store.drivePinned with
      | some i => s.store.trackData r.recipe i
      | none => []
    r.recipe.buildTrack r.kind data t (s.cs.disk.serial.getD 0)
  | _, _ => []

/-- The byte that WDATA carries now: none while WGATE is inactive, a fill byte in gap-4 (R132, R139). -/
def State.wdata (s : State) : Option TrackByte :=
  match s.tb, s.recipe with
  | some t, some r => if s.dp.wgate then
      some ((s.builtTrack[r.bytesIn (s.now - t.since)]?).getD { value := r.fill })
    else none
  | _, _ => none

end Sys2Proof.Machine
end

