-- ==== Sys2Proof/Machine/Closing.lean ====
section
/-! DEFINITION. The Job Controller's own frames: JOB CLOSE with its conditions (R11), JOB ABANDON and JOB STOP
with their reserves (R17, R118, R120). -/

namespace Sys2Proof.Machine

/-- The body of JOB CLOSE, filled from the record (R11). -/
def JobRecord.closeBody (r : JobRecord) : Body := .jobClose r.accepted r.void r.withdrawn r.high

/-- The closing station enters JOB CLOSE when the close conditions hold and none is queued (R11). A refusal for
a full queue is made good at the next place freeing. -/
def State.closeTest (s : State) : State :=
  match s.jc.record with
  | some r => if s.closeConditions then s.enter r.closeBody r.jobId else s
  | none => s

/-- A JOB CLOSE that has not started is withdrawn when its conditions have ceased to hold (R11). -/
def State.closeLapse (s : State) : State := if s.closeConditions then s else s.withdrawKey .jobClose

/-- JOB CLOSE is filled again from the record (R11). -/
def State.refillClose (s : State) : State :=
  match s.jc.record with
  | some r => s.refill .jobClose r.closeBody
  | none => s

/-- A JOB ABANDON is held in reserve (R17, R118, R120). -/
def State.reserveAbandon (reason : AbandonReason) (s : State) : State :=
  if reason ∈ s.jc.abandonDue then s
  else { s with jc := { s.jc with abandonDue := s.jc.abandonDue ++ [reason] } }

/-- A JOB ABANDON is entered, or held in reserve when the queue refuses it (R17, R118, R120). -/
def State.enterAbandon (reason : AbandonReason) (s : State) : State :=
  match s.jc.record with
  | some r =>
    if s.accepts (.jobAbandon reason) then s.push (.jobAbandon reason) r.jobId else s.reserveAbandon reason
  | none => s

/-- At a place freeing the oldest JOB ABANDON in reserve is entered (R154). -/
def State.abandonFromReserve (s : State) : State :=
  match s.jc.record, s.jc.abandonDue with
  | some r, reason :: rest =>
    if s.accepts (.jobAbandon reason) then
      { s with jc := { s.jc with abandonDue := rest } }.push (.jobAbandon reason) r.jobId
    else s
  | _, _ => s

/-- The JC enters JOB STOP at the opener, or holds it in reserve when the queue refuses it as full (R120). -/
def State.enterStop (s : State) : State :=
  match s.jc.record with
  | some r =>
    if s.lc.has .jobStop then s
    else if s.accepts .jobStop then { s with jc := { s.jc with stopDue := false } }.push .jobStop r.jobId
    else { s with jc := { s.jc with stopDue := true } }
  | none => s

/-- At a place freeing a JOB STOP in reserve is entered, while the record is held (R120, R154). -/
def State.stopFromReserve (s : State) : State :=
  match s.jc.record with
  | some _ => if s.jc.stopDue then s.enterStop else s
  | none => s

/-- R17, second duty: at a closing station whose job's opener has departed, a TALLY with first fault TRACK
UNOBTAINABLE brings JOB ABANDON TRACK LOST. -/
def State.trackLostTest (first : Option DiskFault) (s : State) : State :=
  match s.jc.record with
  | some r =>
    if r.kind = .copy ∧ r.openerGone ∧ r.closing = some s.station ∧ first = some .trackUnobtainable
    then s.enterAbandon .trackLost else s
  | none => s

/-- R17, first duty: at a closing station whose job's opener has departed, a release mark below T brings JOB
ABANDON SOURCE LOST, unless the close conditions hold. -/
def State.sourceLostTest (s : State) : State :=
  match s.jc.record with
  | some r =>
    if r.kind = .copy ∧ r.openerGone ∧ r.closing = some s.station ∧ r.mark < r.tracks
        ∧ s.closeConditions = false
    then s.enterAbandon .sourceLost else s
  | none => s

end Sys2Proof.Machine
end

