-- ==== Sys2Proof/Machine/Copy.lean ====
section
/-! DEFINITION. The Copy Sequencer (05_the_copy_cycle.md) with the start and the end of a verify (R97, R98, R104
to R107). -/

namespace Sys2Proof.Machine

/-! ### Small changes -/

/-- A change of the Copy Sequencer. -/
def State.mapCopy (g : Copy → Copy) (s : State) : State := { s with cs := g s.cs }

/-- A change of the disk record. -/
def State.mapDisk (g : Disk → Disk) (s : State) : State := s.mapCopy fun cs => { cs with disk := g cs.disk }

/-- A fault is recorded: as the first, or as one more (R87). -/
def Disk.record (f : DiskFault) (d : Disk) : Disk :=
  match d.first with
  | none => { d with first := some f }
  | some _ => { d with further := min (d.further + 1) 255 }

/-- A fault is recorded in the disk record (R87). -/
def State.fault (f : DiskFault) (s : State) : State := s.mapDisk (Disk.record f)

/-- The cycle goes to a state. -/
def State.cycleTo (c : CycleState) (s : State) : State := s.mapCopy fun cs => { cs with state := c }

/-! ### Verify Unit -/

/-- The verify record as built for a track: every entry MISSING, with its stamp part (R97, R98, R102). -/
def VerifyRecord.build (r : Recipe) (t serial : Nat) : VerifyRecord where
  track := t
  cylinder := r.cylinderOf t
  head := r.headOf t
  entries := r.ids.map fun i => { id := i, stamp := r.stampPart t i serial }

/-- A verify in progress is ended without an answer: the record is discarded and the counter disarmed (R107). -/
def State.endVerify (s : State) : State :=
  match s.vu with
  | some v => if v.running then { s with vu := none, dp := s.dp.disarm } else s
  | none => s

/-- The verify fault of a track, by the order of R105; none when every entry is OK. -/
def VerifyRecord.fault (v : VerifyRecord) : Option DiskFault :=
  if v.entries.any (fun e => decide (e.outcome = .missing)) then some .verifyMissing
  else if v.entries.any (fun e => decide (e.outcome = .idCheck) || decide (e.outcome = .dataCheck)) then
    some .verifyCheck
  else if v.entries.any (fun e => decide (e.outcome = .stampMismatch)) then some .stampMismatch
  else if v.entries.any (fun e => decide (e.outcome = .mismatch)) then some .verifyMismatch
  else none

/-! ### Ending the use of a disk -/

/-- The need part of the want list empties, and its WANTs not started are withdrawn (R46). They are found by their tracks:
the model's choice (log 58). -/
def State.dropNeed (s : State) : State :=
  let tracks := s.du.need.map (·.track)
  { s with du := { s.du with need := [] } }.withdraw fun f =>
    match f.body with
    | .want t _ _ => decide (t ∈ tracks)
    | _ => false

/-- Steps 1 to 5 of R88: WGATE drops, a verify in progress ends, the drive pin is released, MOTOR and SELECT are
released, the current track becomes absent with the need part of the want list. -/
def State.endUse (s : State) : State :=
  (s.stopWrite.endVerify.releaseDrivePin.stopMotor.mapCopy fun cs =>
    { cs with phase := none, disk := { cs.disk with live := false } }).dropNeed

/-- The history entry of the disk record (R90, R169). -/
def Disk.entry (d : Disk) (o : DiskOutcome) (cause : Option EndCause) : HistoryEntry where
  outcome := o
  serial := d.serial
  first := d.first
  further := d.further
  verified := d.verified
  cause := cause

/-- Entry to OUT: EJECT, LOCK released, the outcome for its lamp, the history entry (R90). -/
def State.enterOut (o : DiskOutcome) (cause : Option EndCause) (s : State) : State :=
  ((s.mapCopy fun cs => { cs with state := .out, outcome := some o, pulled := false }).mapDrive
    (Drive.ejectRequest s.now)).appendHistory (s.cs.disk.entry o cause)

/-- A pulled disk leaves the cycle: its history entry, and EMPTY (R91). -/
def State.leavePulled (o : DiskOutcome) (cause : Option EndCause) (s : State) : State :=
  (s.mapCopy fun cs => { cs with state := .empty, outcome := none, pulled := false }).appendHistory
    (s.cs.disk.entry o cause)

/-! ### The tally (R69, R88, R90) -/

/-- The TALLY of the disk (R88): without a serial after a conflict. -/
def Disk.tallyBody (d : Disk) (o : DiskOutcome) : Body :=
  .tally o (if d.conflict then none else d.serial) d.first d.further d.verified

/-- In TALLY with an outcome and no TALLY queued, the TALLY is entered; refused, it stays in reserve (R69). -/
def State.enterTally (s : State) : State :=
  match s.jc.record, s.cs.outcome with
  | some r, some o => if s.cs.state = .tally then s.enter (s.cs.disk.tallyBody o) r.jobId else s
  | _, _ => s

/-- The cycle goes to TALLY with an outcome, and its TALLY is entered (R88). -/
def State.toTally (o : DiskOutcome) (s : State) : State :=
  (s.mapCopy fun cs => { cs with state := .tally, outcome := some o }).enterTally

/-- A disk ends ACCEPTED or REJECTED (R88). -/
def State.endDisk (o : DiskOutcome) (s : State) : State :=
  let s1 := s.endUse
  if s1.cs.disk.serial.isSome || s1.cs.disk.conflict then s1.toTally o else s1.enterOut o none

/-- A disk is rejected with a fault that no failed attempt has recorded (R87, R88). -/
def State.reject (f : DiskFault) (s : State) : State := (s.fault f).endDisk .rejected

/-! ### Standby and start (R78, R79) -/

/-- A new disk starts: rejected PROTECTED, or brought to speed (R76, R78, R79). -/
def State.startDisk (s : State) : State :=
  let s1 := s.mapCopy fun cs => { cs with disk := {}, outcome := none, pulled := false, phase := none }
  if s.dp.wprot then (s1.fault .protected_).enterOut .rejected none
  else (s1.cycleTo .spinup).mapDrive (Drive.spinUp s.now (s.pc.params.spinUpLimit * 1000))

/-- The start test in STANDBY (R78). -/
def State.startTest (s : State) : State :=
  if s.cs.state = .standby ∧ s.startConditions then s.startDisk else s

/-- The cycle returns to STANDBY: MOTOR, SELECT and LOCK released, and the start test of the entry (R78, R81). -/
def State.toStandby (s : State) : State :=
  ((s.stopMotor.mapDrive fun dp => { dp with lock := false }).cycleTo .standby).startTest

/-! ### The claim (R62 to R64, R81) -/

/-- A CLAIM as filled now (R63). -/
def JobRecord.claimBody (r : JobRecord) : Body := .claim r.nextSerial r.high

/-- The JC is asked for a serial: the CLAIM is entered, or waits for a place, or the conditions fail and the
cycle returns to STANDBY (R62, R63). -/
def State.askClaim (s : State) : State :=
  match s.jc.record with
  | some r => if s.claimConditions then s.enter r.claimBody r.jobId else s.toStandby
  | none => s

/-- A pulled disk whose CLAIM leaves the queue without completing holds no serial (log 9). -/
def State.pulledUnclaimed (s : State) : State :=
  if s.cs.state = .tally ∧ s.cs.pulled ∧ s.cs.outcome = none then s.leavePulled .pulled none else s

/-- What follows for the cycle when its queued CLAIM is withdrawn because the conditions fail (R62, R64). -/
def State.claimWithdrawn (s : State) : State :=
  if s.cs.state = .claim then s.toStandby else s.pulledUnclaimed

/-- A refill event of a CLAIM queued and not on the medium: filled again, or withdrawn (R64). -/
def State.claimRefill (s : State) : State :=
  match s.jc.record with
  | some r =>
    if s.lc.waiting .claim then
      if s.claimConditions then s.refill .claim r.claimBody
      else (s.withdrawKey .claim).claimWithdrawn
    else s
  | none => s

/-- A CLAIM held in reserve is entered again (R63). -/
def State.claimAgain (s : State) : State :=
  if s.cs.state = .claim ∧ s.lc.has .claim = false then s.askClaim else s

/-! ### Fetch and write (R82 to R84) -/

/-- The result of a write's seek (R83). -/
def State.copySeekEnd (good : Bool) (s : State) : State :=
  if good then
    if s.dp.spindle.qualified then s.mapCopy fun cs => { cs with phase := some .armed }
    else (s.mapCopy fun cs => { cs with phase := some .requalify }).openQualify
  else s.reject .noTrack0

/-- Entry to WRITE for the current track: the seek is asked for (R83). -/
def State.toWrite (s : State) : State :=
  match s.jc.record, s.cs.disk.track with
  | some r, some t =>
    let s1 := s.mapCopy fun cs => { cs with state := .write, phase := some .seeking }
    let d := s.dp.requestSeek r.recipe s.now (r.recipe.cylinderOf t) (decide (r.recipe.headOf t = 1))
    let s2 := { s1 with dp := d.1 }
    if d.2 then s2.copySeekEnd true else s2
  | _, _ => s

/-- In FETCH the drive pin on the current track's slot is asked for; granted, the cycle goes to WRITE. A FORMAT
job asks for no pin (R82). -/
def State.fetchTry (s : State) : State :=
  match s.jc.record, s.cs.disk.track with
  | some r, some t =>
    if s.cs.state = .fetch then
      match r.kind with
      | .format => s.toWrite
      | .copy => match s.store.drivePinGrant t with
        | some i => { s with store := s.store.takeDrivePin i }.toWrite
        | none => s
    else s
  | _, _ => s

/-- Entry to FETCH (R82). -/
def State.toFetch (s : State) : State := (s.cycleTo .fetch).fetchTry

/-- The own CLAIM has been entered with a serial (R68, R91). -/
def State.claimEntered (v : Nat) (s : State) : State :=
  if s.cs.state = .claim then
    (s.mapDisk fun d => { d with serial := some v, track := some 0, live := true, attempts := 0 }).toFetch
  else if s.cs.state = .tally ∧ s.cs.pulled ∧ s.cs.outcome = none then
    (s.mapDisk fun d => { d with serial := some v }).toTally .pulled
  else s

/-- The notice that this station's claim has lost its serial (R67, R71, R89, R91). -/
def State.serialLost (s : State) : State :=
  if s.cs.state ∈ [CycleState.claim, .fetch, .write, .verify] then
    (s.mapDisk fun d => { d with conflict := true, serial := none }).reject .serialConflict
  else if s.cs.state = .tally ∧ s.cs.pulled ∧ s.cs.outcome = none then
    (s.mapDisk fun d => { d with conflict := true }).toTally .rejected
  else s

/-- The notice that a window track is unobtainable (R89). -/
def State.unobtainable (s : State) : State :=
  if s.cs.state ∈ [CycleState.fetch, .write, .verify] then s.reject .trackUnobtainable else s

/-! ### Failed attempts (R86) -/

/-- Write attempts have passed the recipe's write retry limit. -/
def State.attemptsSpent (s : State) : Bool :=
  match s.recipe with
  | some r => decide (r.writeRetry < s.cs.disk.attempts)
  | none => true

/-- A failed attempt whose faults are given in order: they are recorded, write attempts rises by 1, and the
cycle goes on by R86. -/
def State.failedAttempt (faults : List DiskFault) (s : State) : State :=
  let s1 := (faults.foldl (fun s f => s.fault f) s).mapDisk fun d => { d with attempts := d.attempts + 1 }
  if DiskFault.storeDamage ∈ faults then
    let s2 := s1.releaseDrivePin
    if s2.attemptsSpent then s2.endDisk .rejected else s2.toFetch
  else if s1.attemptsSpent then s1.endDisk .rejected else s1.toWrite

/-! ### Verify (R85, R98, R104 to R106) -/

/-- The track counts as verified: the pin is released, and the next track is fetched or the disk ends ACCEPTED
(R85). -/
def State.trackVerified (s : State) : State :=
  match s.jc.record, s.cs.disk.track with
  | some r, some t =>
    let s1 := s.releaseDrivePin
    if t + 1 < r.tracks then
      (s1.mapDisk fun d => { d with verified := d.verified + 1, track := some (t + 1), attempts := 0 }).toFetch
    else (s1.mapDisk fun d => { d with verified := d.verified + 1, live := false }).endDisk .accepted
  | _, _ => s

/-- Entry to VERIFY: the record is built and the counter armed with preload v (R98). -/
def State.toVerify (s : State) : State :=
  match s.jc.record, s.cs.disk.track with
  | some r, some t =>
    { s with
      cs := { s.cs with state := .verify, phase := none }
      vu := some (VerifyRecord.build r.recipe t (s.cs.disk.serial.getD 0))
      dp := s.dp.arm r.recipe.verifyRevs }
  | _, _ => s

/-- A good write: VERIFY, or at once a track verified in mode OFF (R84, R85). -/
def State.writeGood (s : State) : State :=
  match s.recipe with
  | some r => if r.verify = .off then s.trackVerified else s.toVerify
  | none => s

/-- A use's check result is applied to the slot the drive path has pinned: the slot with its damage marked, and
whether the use fails (R35, R36). `u` are the bytes that have changed of themselves. -/
def State.applyCheck (r : Recipe) (u : Upset) (s : State) : State × Bool :=
  match s.store.drivePinned with
  | none => (s, false)
  | some i =>
    let s1 := { s with store := s.store.upset i u }
    if s1.store.trackCheck r i = (s1.store.slot i).check then (s1, (s1.store.slot i).damaged)
    else (s1.markDamaged i, true)

/-- The verify's end: the answer is worked out and acted on (R85, R86, R104 to R106). -/
def State.verifyEnd (u : Upset) (s : State) : State :=
  match s.vu, s.jc.record with
  | some v, some r =>
    let s1 := { s with vu := some { v with running := false, reading := none }, dp := s.dp.disarm }
    let checked : State × Bool :=
      if r.recipe.verify = .full ∧ r.kind = .copy then s1.applyCheck r.recipe u else (s1, false)
    if checked.2 then checked.1.releaseDrivePin.toFetch
    else match v.fault with
      | none => checked.1.trackVerified
      | some f => checked.1.failedAttempt [f]
  | _, _ => s

/-! ### Spindle answers for the copy cycle (R79, R80, R83) -/

/-- The recalibrate of HOME has ended (R80). -/
def State.copyHomeEnd (good : Bool) (s : State) : State :=
  if good then (s.cycleTo .claim).askClaim else s.reject .noTrack0

/-- The spindle has qualified (R79, R83). -/
def State.copyQualified (s : State) : State :=
  match s.cs.state, s.recipe with
  | .spinup, some r =>
    let d := s.dp.requestRecalibrate r s.now
    let s1 := { s.cycleTo .home with dp := d.1 }
    if d.2 then s1.copyHomeEnd true else s1
  | .write, _ =>
    if s.cs.phase = some .requalify then s.mapCopy fun cs => { cs with phase := some .armed } else s
  | _, _ => s

/-- The limit has passed without qualification (R79, R83). -/
def State.copyNotQualified (seen : Bool) (s : State) : State :=
  if s.cs.state = .spinup ∨ (s.cs.state = .write ∧ s.cs.phase = some .requalify) then s.reject (notQualified seen)
  else s

/-- A NO INDEX event at the copy cycle: a write or a verify in progress is one failed attempt (R84, R85). -/
def State.copyNoIndex (s : State) : State :=
  if s.cs.state = .write ∧ (s.cs.phase = some .writing ∨ s.cs.phase = some .completing) then
    ({ s with tb := none }.mapCopy fun cs => { cs with phase := none }).failedAttempt [.noIndex]
  else if s.cs.state = .verify then s.endVerify.failedAttempt [.noIndex]
  else s

/-! ### The disk pulled, the job ended, the station restarted (R91 to R93) -/

/-- The states in which a disk is in the cycle (R91). -/
def CycleState.busy (c : CycleState) : Bool :=
  decide (c ∈ [CycleState.spinup, .home, .claim, .fetch, .write, .verify, .tally])

/-- The disk has been pulled (R91). A TALLY on the medium keeps its outcome, and keeps it when it has to be sent
again: the model's choice (log 29). -/
def State.pullDisk (s : State) : State :=
  let s1 := (s.fault .pulled).endUse.mapDrive fun dp => { dp with lock := false }
  match s.cs.state with
  | .tally =>
    let s2 := s1.mapCopy fun cs => { cs with pulled := true }
    if s.cs.disk.conflict ∨ s.lc.has .tally ∧ s.lc.waiting .tally = false then s2
    else
      (s2.mapCopy fun cs => { cs with outcome := some .pulled }).mapFrame .tally fun f =>
        match f.body with
        | .tally _ v first further verified => { f with body := .tally .pulled v first further verified }
        | _ => f
  | .claim =>
    if s.lc.has .claim ∧ s.lc.waiting .claim = false then
      s1.mapCopy fun cs => { cs with state := .tally, pulled := true, outcome := none }
    else (s1.withdrawKey .claim).leavePulled .pulled none
  | .fetch | .write | .verify => (s1.mapCopy fun cs => { cs with pulled := true }).toTally .pulled
  | _ => s1.leavePulled .pulled none

/-- A disk is ended with fault ABANDONED and goes to OUT with the end cause (R92, R93). -/
def State.abandonDisk (cause : EndCause) (s : State) : State :=
  (s.fault .abandoned).endUse.enterOut .rejected (some cause)

/-- What the end of the job or a restart does to the disk (R92, R93): an unclaimed disk goes back to STANDBY at
a JOB CLOSE. The paused flag is cleared. -/
def State.copyJobEnd (cause : EndCause) (s : State) : State :=
  let s1 := s.mapCopy fun cs => { cs with paused := false }
  match s.cs.state with
  | .spinup | .home | .claim =>
    if cause = .close then
      (s1.stopMotor.mapDrive fun dp => { dp with lock := false }).mapCopy fun cs => { cs with state := .standby }
    else s1.abandonDisk cause
  | .fetch | .write | .verify => s1.abandonDisk cause
  | .tally => if s.cs.pulled then s1.leavePulled .pulled (some cause) else s1.abandonDisk cause
  | .empty | .standby | .out => s1

/-- The own TALLY has completed (R90, R91). -/
def State.tallyDone (o : DiskOutcome) (s : State) : State :=
  if s.cs.state = .tally then
    if s.cs.pulled then s.leavePulled o none else s.enterOut o none
  else s

/-- DISKIN seen by the copy cycle as it stands: EMPTY, STANDBY or OUT settle by it (R77, R90, R163, R166). -/
def State.settleByDiskin (s : State) : State :=
  match s.cs.state, s.dp.diskin with
  | .empty, true => (s.cycleTo .standby).startTest
  | .standby, false => s.cycleTo .empty
  | .out, false => s.mapCopy fun cs => { cs with state := .empty, outcome := none }
  | _, _ => s

end Sys2Proof.Machine
end

