-- ==== Sys2Proof/Machine/Distribution.lean ====
section
/-! DEFINITION. The Distribution Unit (03_track_distribution.md): want list, need test, repair feed, release mark,
lost set, answers and restore requests; and the fills of the Image Store (R29 to R31). -/

namespace Sys2Proof.Machine

/-! ### The want list (R44 to R46) -/

/-- A change of the Distribution Unit. -/
def State.mapDu (g : Distribution → Distribution) (s : State) : State := { s with du := g s.du }

/-- A part of the want list takes an entry in track order (R44). -/
def insertWant (w : Want) : List Want → List Want
  | [] => [w]
  | x :: xs => if w.track < x.track then w :: x :: xs else x :: insertWant w xs

/-- A change of the entry of a track, in whichever part it stands. -/
def Distribution.update (t : Nat) (g : Want → Want) (du : Distribution) : Distribution :=
  let f := fun w : Want => if w.track = t then g w else w
  { du with need := du.need.map f, repair := du.repair.map f }

/-- The entry of a track leaves the list, in whichever part it stands; its WANT is withdrawn unless it has
started (R46). The WANT is found by its track, so that one left in the queue by an earlier entry of the track, which left
while it was on the medium and whose arbitration was then lost, goes with it: the model's choice (log 58). -/
def State.removeWant (t : Nat) (s : State) : State :=
  if s.du.has t then
    (s.mapDu fun du =>
      { du with need := du.need.filter fun w => !decide (w.track = t)
                repair := du.repair.filter fun w => !decide (w.track = t) }).withdrawKey (.want t)
  else s

/-- The WANT of an entry. -/
def Want.body (w : Want) : Body := .want w.track w.attempt w.restore

/-- An entry whose WANT is entered now: QUEUED, or UNSENT with its deadline when the queue refuses it (R45). -/
def State.sentWant (w : Want) (s : State) : Want :=
  if s.accepts w.body then { w with phase := .queued, deadline := none }
  else { w with phase := .unsent, deadline := some (s.after s.pc.params.wantTimeout) }

/-- The entry of a track takes the form `w`, and its WANT is entered (R45, R48, R49). -/
def State.resendWant (w : Want) (jobId : JobId) (s : State) : State :=
  (s.mapDu (Distribution.update w.track fun _ => s.sentWant w)).enter w.body jobId

/-- A new entry joins the need part, and its WANT is entered (R43, R45). An entry whose track the window leaves behind,
its slot closing at the verify's good end, stays, so that the need part can hold one more than the window has tracks:
the model's choice (log 47). -/
def State.addNeed (t : Nat) (jobId : JobId) (s : State) : State :=
  let w : Want := { track := t }
  (s.mapDu fun du => { du with need := insertWant (s.sentWant w) du.need }).enter w.body jobId

/-- A new entry joins the repair part, and its WANT is entered (R58, R45). -/
def State.addRepair (t : Nat) (jobId : JobId) (s : State) : State :=
  let w : Want := { track := t }
  (s.mapDu fun du => { du with repair := insertWant (s.sentWant w) du.repair }).enter w.body jobId

/-- An entry goes to WAITING as its WANT, or one it shares, completes (R45, R47). -/
def State.waitingWant (w : Want) (s : State) : Want :=
  { w with
    phase := .waiting
    deadline := some (s.after (if w.restore then s.pc.params.restoreTimeout else s.pc.params.wantTimeout)) }

/-! ### Need test and repair feed (R43, R58) -/

/-- The need test of one track (R43). -/
def State.needTestOf (u : Nat) (s : State) : State :=
  match s.jc.record with
  | some r =>
    if u ∈ s.window then
      if s.held u || s.isFilling u || s.du.has u then s
      else if u ∈ s.du.lost then s.unobtainable
      else if r.released u then s.addNeed u r.jobId
      else s
    else s
  | none => s

/-- The need test of every window track (R42), in ascending track order: the model's choice (log 40). -/
def State.needTest (s : State) : State := s.window.foldl (fun s u => s.needTestOf u) s

/-- A repair list track may be asked for (R58). -/
def State.eligible (s : State) (r : JobRecord) (u : Nat) : Bool :=
  !s.du.has u && !s.held u && !s.isFilling u && r.released u && !decide (u ∈ s.du.lost)

/-- One entry of the repair feed (R58). -/
def State.feedOne (s : State) : State :=
  match s.jc.record with
  | some r =>
    if s.du.repair.length < Config.repairPositions then
      match r.repair.find? (s.eligible r) with
      | some u => s.addRepair u r.jobId
      | none => s
    else s
  | none => s

/-- The repair feed: at most three positions are free (R58). -/
def State.repairFeed (s : State) : State := s.feedOne.feedOne.feedOne

/-- What calls for the need test between two states (R42): the current track is set or has advanced, the release
mark has risen or its last track now counts as below it (R41), a window track has stopped being held or its slot has
been freed, or a want list entry has left. -/
def State.callsNeedTest (s before : State) : Bool :=
  decide (s.cs.current ≠ before.cs.current)
  || decide (s.jc.record.map (fun r => (r.mark, r.lastRun)) ≠ before.jc.record.map fun r => (r.mark, r.lastRun))
  || s.window.any (fun u => (before.held u && !s.held u)
    || (!decide ((before.store.entry u).presence = .absent) && decide ((s.store.entry u).presence = .absent)))
  || (before.du.need ++ before.du.repair).any fun w => !s.du.has w.track

/-- The repair list has gained a track between two states (R20, R37). -/
def State.repairGained (s before : State) : Bool :=
  match s.jc.record, before.jc.record with
  | some r, some b => r.repair.any fun t => !decide (t ∈ b.repair)
  | _, _ => false

/-- The Distribution Unit acts on what a command has changed since `before`: the need test at the events of R42, and
the repair feed, which changes nothing where nothing calls for it (R58, log 28), but for a master read of a repair list
track that ends without a good end, after which the track is asked for: the model's choice (log 54). Which comes first
for a track of both (R59) is the model's choice (log 39): the feed where the command has put a track on the repair
list, so that it is asked for in positions 6 to 8, and the need test at every other event. Both come last of what one
command does: the model's choice (log 49). -/
def State.settle (s before : State) : State :=
  let fed := if s.repairGained before then s.repairFeed else s
  (if s.callsNeedTest before then fed.needTest else fed).repairFeed

/-! ### Release mark and lost set (R41, R51) -/

/-- The release mark rises to at least `m` (R41). -/
def State.raiseMark (m : Nat) (s : State) : State :=
  let now := s.now
  s.mapRecord fun r => if r.mark < m then { r with mark := m, markAt := now } else r

/-- A completed GOOD RELEASE at the mark (R41). -/
def State.markRelease (b : ReleaseBody) (s : State) : State :=
  match s.jc.record with
  | some r =>
    if r.kind = .copy ∧ b.status = .good ∧ b.track < r.tracks then
      if b.reason = .firstPass then s.raiseMark (b.track + 1)
      else if r.lastRun ∧ b.track + 1 = r.tracks then s.raiseMark r.tracks
      else s
    else s
  | none => s

/-- A completed LOST RELEASE of a track (R51). The track is not tested against T: the model's choice (log 41). -/
def State.lostRelease (t : Nat) (s : State) : State :=
  let needed := s.du.need.any fun w => decide (w.track = t)
  let s1 := (s.removeWant t).mapDu fun du => { du with lost := insertTrack t du.lost }
  if needed then s1.unobtainable else s1

/-! ### Deadlines (R48 to R50) -/

/-- The entry of a track gives up after its restore attempt (R50). -/
def State.giveUp (t : Nat) (s : State) : State :=
  let needed := s.du.need.any fun w => decide (w.track = t)
  let s1 := s.removeWant t
  if needed then s1.unobtainable
  else
    { s1.mapRecord (fun r => { r with repair := r.repair.erase t, homeShort := r.homeShort + 1 }) with
      store := { s1.store with
        reservation := s1.store.reservation - 1
        allowance := s1.store.allowance.erase t } }

/-- The deadline of an entry expires (R48 to R50). -/
def State.wantExpired (w : Want) (jobId : JobId) (s : State) : State :=
  match w.phase with
  | .queued => s
  | .unsent => s.resendWant w jobId
  | .waiting =>
    if w.restore then s.giveUp w.track
    else if w.attempt < s.pc.params.wantAttempts then s.resendWant { w with attempt := w.attempt + 1 } jobId
    else s.resendWant { w with restore := true } jobId

/-! ### Wants heard (R45, R47, R52, R53, R56) -/

/-- A completed WANT moves a QUEUED entry to WAITING: the own entry, or one that shares it (R45, R47). -/
def State.wantHeard (t : Nat) (s : State) : State :=
  s.mapDu (Distribution.update t fun w => if w.phase = .queued then s.waitingWant w else w)

/-- Another station's WANT is shared by a QUEUED entry with the same restore flag (R47). -/
def State.shareWant (b : WantBody) (s : State) : State :=
  match s.du.find b.track with
  | some w =>
    if w.phase = .queued ∧ w.restore = b.restore ∧ (s.lc.has (.want b.track) = false ∨ s.lc.waiting (.want b.track))
    then (s.wantHeard b.track).withdrawKey (.want b.track)
    else s
  | none => s

/-- The queue holds a RELEASE of a track, of any reason (R52, R56). -/
def Link.hasRelease (lc : Link) (t : Nat) : Bool :=
  lc.has (.release t .firstPass) || lc.has (.release t .answer) || lc.has (.release t .restore)

/-- A GOOD RELEASE from a slot (R52, R113). -/
def State.goodRelease (s : State) (r : JobRecord) (t i : Nat) (reason : ReleaseReason) (o : ReleaseOrigin) : Body :=
  .release t .good reason o r.recipe.sizeCode r.recipe.sectors (s.store.slot i).check

/-- The answer decision (R52, R53): a MEMBER answers from a HOME slot, the SOURCE from any slot. -/
def State.answerWant (t : Nat) (s : State) : State :=
  match s.jc.record, s.store.heldSlot t with
  | some r, some i =>
    let may := match r.role with
      | .source => true
      | .member => decide ((s.store.slot i).state = .home)
      | .observer => false
    if r.kind = .copy && decide (t < r.tracks) && may && !s.lc.hasRelease t then
      s.enter (s.goodRelease r t i .answer .answer) r.jobId
    else s
  | _, _ => s

/-- A track joins the tail of the restore queue (R56). -/
def State.queueRestore (t : Nat) (s : State) : State :=
  if s.ss.restoring = some t ∨ t ∈ s.du.restores ∨ Config.restorePlaces ≤ s.du.restores.length then s
  else s.mapDu fun du => { du with restores := du.restores ++ [t] }

/-- A restore request at the SOURCE (R56). -/
def State.restoreRequest (t : Nat) (s : State) : State :=
  match s.jc.record with
  | some r =>
    if r.kind = .copy ∧ r.role = .source ∧ t < r.tracks ∧ s.lc.hasRelease t = false then
      match s.store.heldSlot t with
      | some i => s.enter (s.goodRelease r t i .restore .duRestore) r.jobId
      | none => s.queueRestore t
    else s
  | none => s

/-- Another station's RELEASE of a track withdraws the answers of it that have not started (R54). -/
def State.suppressAnswers (t : Nat) (s : State) : State := s.withdrawKey (.release t .answer)

/-! ### Taking a payload and filling (R29 to R31) -/

/-- The payload of a RELEASE is taken (R29). -/
def State.takes (s : State) (h : ReleaseHead) : Bool :=
  match s.jc.record with
  | some r =>
    let t := h.track.toNat
    decide (h.jobId = r.jobId) && decide (r.kind = .copy) && !decide (h.status = ReleaseStatus.lost.code)
    && decide (t < r.tracks) && decide (h.size.toNat = r.recipe.sizeCode) && decide (h.count.toNat = r.recipe.sectors)
    && decide (h.length = releaseLength .good h.size.toNat h.count.toNat)
    && decide ((s.store.entry t).presence = .absent)
    && (decide (t ∈ s.store.allowance) || s.du.has t
        || match s.cs.current with
           | some c => decide (c ≤ t) && decide (t ≤ c + s.pc.params.lookahead)
           | none => false)
  | none => false

/-- The start of a fill: a slot by R27, or a payload dropped as no-room (R29). -/
def State.beginFill (h : ReleaseHead) (s : State) : State :=
  match s.store.allocation h.track.toNat with
  | some i => { s with store := { s.store.takeSlot i h.track.toNat h.check with fills := i :: s.store.fills } }
  | none => s.count fun c => { c with noRoom := bump c.noRoom }

/-- The sectors of a body that are written into the slot: their IDs are the recipe's and rise (R30). `prev` is
the ID before, as a lower bound. -/
def Store.fillSectors (r : Recipe) (i : Nat) : (prev : Option Nat) → List (Nat × List Byte) → Store → Store
  | _, [], st => st
  | prev, (id, data) :: rest, st =>
    let follows := match prev with
      | some p => decide (p < id)
      | none => true
    let st1 := if decide (id ∈ r.ids) && follows then st.writeSector r i id data else st
    Store.fillSectors r i (some id) rest st1

/-- The sectors of a RELEASE body as far as they have arrived: each sector ID with the data bytes after it; the last
may be short (R30, R172). -/
def arrivedSectors (size : Nat) : (n : Nat) → List Byte → List (Nat × List Byte)
  | 0, _ => []
  | _ + 1, [] => []
  | n + 1, id :: rest => (id.toNat, rest.take size) :: arrivedSectors size n (rest.drop size)

/-- The slot that receives the payload of a track (R30). -/
def Store.fillOf (st : Store) (t : Nat) : Option Nat :=
  st.fills.find? fun i => decide ((st.slot i).track = some t)

/-- The slot of the fill that a frame ends whose body has arrived as `body`: the one of its track, else the last
begun, since the frame on the medium is the one that filled it. -/
def Store.brokenFill (st : Store) (body : List Byte) : Option Nat :=
  match body.head?.bind fun t => st.fillOf t.toNat with
  | some i => some i
  | none => st.fills.head?

/-- A fill ends bad: the slot becomes FREE and the map entry ABSENT (R31). -/
def State.endFill (i : Nat) (s : State) : State :=
  { s with store := { s.store.freeSlot i with fills := s.store.fills.erase i } }

/-- The frame of a fill ends without completing: what has arrived of its body is in the slot (R30), and the slot
becomes FREE (R31). -/
def State.breakFill (body : List Byte) (s : State) : State :=
  match s.recipe, s.store.brokenFill body with
  | some r, some i =>
    { s with store := Store.fillSectors r i none (arrivedSectors r.size r.sectors (body.drop 9)) s.store }.endFill i
  | none, some i => s.endFill i
  | _, none => s

/-- The settlement of a fill at the completion of its RELEASE (R31): good, with the want entry leaving (R46), or
bad, counted as damage. -/
def State.settleFill (b : ReleaseBody) (s : State) : State :=
  match s.store.fillOf b.track, s.recipe with
  | some i, some r =>
    let s1 := { s with store :=
      { Store.fillSectors r i none b.sectors s.store with fills := s.store.fills.erase i } }
    if b.sectors.map (·.1) = r.ids ∧ s1.store.trackCheck r i = (s1.store.slot i).check then
      (s1.settleGood i b.track).removeWant b.track
    else
      ({ s1 with store := s1.store.freeSlot i }).count fun c => { c with damaged := bump c.damaged }
  | _, _ => s

end Sys2Proof.Machine
end

