-- ==== Sys2Proof/Machine/Source.lean ====
section
/-! DEFINITION. The Source Sequencer (07_the_source_station.md): master reads, first pass, restores, abandons,
removal and ENDING. -/

namespace Sys2Proof.Machine

/-- A change of the Source Sequencer. -/
def State.mapSource (g : Source → Source) (s : State) : State := { s with ss := g s.ss }

/-- A master read in progress is ended: its slot freed, its counter disarmed, its qualify request closed
(R32, R39, R118). -/
def State.endRead (s : State) : State :=
  match s.ss.read with
  | some m =>
    let s1 := match m.slot with
      | some i => { s with store := s.store.freeSlot i }
      | none => s
    { s1 with ss := { s1.ss with read := none }, dp := { s1.dp.disarm with qualify := none } }
  | none => s

/-- A RELEASE of the SS is given up: none is held in reserve, and the drive pin is released (R33, R118). -/
def State.giveUpRelease (s : State) : State := (s.mapSource fun ss => { ss with reserve := none }).releaseDrivePin

/-- The SS has a JOB ABANDON entered, unless it holds one already (R118). A master read in progress is ended, and a
RELEASE held in reserve is given up. -/
def State.sourceAbandon (reason : AbandonReason) (s : State) : State :=
  match s.ss.abandon with
  | some _ => s
  | none =>
    let s1 := s.endRead
    let s2 := if s1.ss.reserve.isSome then s1.giveUpRelease else s1
    (s2.mapSource fun ss => { ss with abandon := some reason }).enterAbandon reason

/-! ### Releases (R113, R114, R116) -/

/-- The body of a RELEASE the SS sends: from the slot that holds the track, or LOST (R113, R116, R172). -/
def State.sourceRelease (s : State) (r : JobRecord) (v : Reserve) : Body :=
  match v.status with
  | .good =>
    .release v.track .good v.reason .source r.recipe.sizeCode r.recipe.sectors
      (match s.store.heldSlot v.track with
       | some i => (s.store.slot i).check
       | none => 0)
  | .lost => .release v.track .lost v.reason .source r.recipe.sizeCode r.recipe.sectors 0

/-- The SS enters a RELEASE, or holds it in reserve when the queue refuses it; after its abandon it enters none and
gives the RELEASE up (R33, R114, R116, R118, log 18). -/
def State.enterRelease (v : Reserve) (s : State) : State :=
  match s.jc.record, s.ss.abandon with
  | some r, none =>
    let body := s.sourceRelease r v
    if s.accepts body then (s.mapSource fun ss => { ss with reserve := none }).push body r.jobId
    else s.mapSource fun ss => { ss with reserve := some v }
  | some _, some _ => s.giveUpRelease
  | none, _ => s

/-- At a place freeing the RELEASE in reserve is entered (R114, R116, R154). -/
def State.releaseFromReserve (s : State) : State :=
  match s.ss.reserve with
  | some v => s.enterRelease v
  | none => s

/-- A track whose slot has been read or is held goes out: the drive pin is taken and the RELEASE entered
(R113, R116). -/
def State.releaseTrack (t : Nat) (s : State) : State :=
  let s1 := match s.store.drivePinGrant t with
    | some i => { s with store := s.store.takeDrivePin i }
    | none => s
  match s.ss.state with
  | .read => (s1.mapSource fun ss => { ss with state := .release }).enterRelease ⟨t, .good, .firstPass⟩
  | _ => s1.enterRelease ⟨t, .good, .restore⟩

/-! ### Master reads (R112) -/

/-- The search of a master read begins: every sector unsettled, the counter armed over m revolutions (R112). -/
def State.startSearch (s : State) : State :=
  match s.recipe, s.ss.read with
  | some r, some m =>
    { s with
      ss := { s.ss with read := some { m with phase := .searching, unsettled := r.ids, reading := none } }
      dp := s.dp.arm (r.masterRevs - 1) }
  | _, _ => s

/-- A change of the master read in progress. -/
def State.mapRead (g : MasterRead → MasterRead) (s : State) : State :=
  s.mapSource fun ss => { ss with read := ss.read.map g }

/-- A master read has failed (R112, R116): a first-pass read brings the abandon with the reason given, a restore
read a RELEASE LOST. -/
def State.readFailed (reason : AbandonReason) (s : State) : State :=
  match s.ss.read with
  | some m =>
    let s1 := s.endRead
    match s.ss.state with
    | .read => s1.sourceAbandon reason
    | _ => s1.enterRelease ⟨m.track, .lost, .restore⟩
  | none => s

/-- The result of a master read's seek (R112). -/
def State.sourceSeekEnd (good : Bool) (s : State) : State :=
  match s.ss.read with
  | some _ =>
    if good then
      if s.dp.spindle.qualified then s.startSearch
      else (s.mapRead fun m => { m with phase := .requalify }).openQualify
    else s.readFailed .masterUnreadable
  | none => s

/-- The request for a slot of a master read, made or tried again (R32, R112). A track held by now needs no read;
while its map entry is not ABSENT no slot is given (log 36). The check word of the slot granted is 0 until the read's
good end, that of an evicted slot too: the model's choice (log 53). -/
def State.trySlot (s : State) : State :=
  match s.recipe, s.ss.read with
  | some r, some m =>
    if m.phase = .slotWait then
      if s.held m.track then (s.mapSource fun ss => { ss with read := none }).releaseTrack m.track
      else if (s.store.entry m.track).presence = .absent then
        match s.store.allocation m.track with
        | some i =>
          let d := s.dp.requestSeek r s.now (r.cylinderOf m.track) (decide (r.headOf m.track = 1))
          let s1 := { s with
            store := s.store.takeSlot i m.track 0
            ss := { s.ss with read := some { m with slot := some i, phase := .seeking } }
            dp := d.1 }
          if d.2 then s1.sourceSeekEnd true else s1
        | none => s
      else s
    else s
  | _, _ => s

/-- A master read of a track begins with its slot (R112). -/
def State.startRead (t : Nat) (s : State) : State :=
  (s.mapSource fun ss => { ss with read := some { track := t } }).trySlot

/-- The good end of a master read: check word, settlement, and the RELEASE (R32, R113). -/
def State.readGood (r : Recipe) (m : MasterRead) (i : Nat) (s : State) : State :=
  let st := s.store.setSlot i { s.store.slot i with check := s.store.trackCheck r i }
  ((({ s with store := st, dp := s.dp.disarm, ss := { s.ss with read := none } }.settleGood i m.track).removeWant
    m.track).releaseTrack m.track)

/-! ### Decision points (R115, R116) -/

/-- The SS serves its restore-in-progress track: from the store, from the master, or LOST (R116). -/
def State.serve (t : Nat) (s : State) : State :=
  if s.ss.abandon.isSome then s
  else match s.store.heldSlot t with
    | some _ => s.releaseTrack t
    | none => if s.ss.present then s.startRead t else s.enterRelease ⟨t, .lost, .restore⟩

/-- A decision point (R115): the head of the restore queue, else the first pass, else SERVE. A restore begun ends
the close conditions, so a JOB CLOSE that has not started is withdrawn (R11). After its abandon the SS starts nothing
(R118); that its state then stays as it is, RELEASE after a FIRST PASS RELEASE, is the model's choice (log 60). -/
def State.decision (s : State) : State :=
  match s.recipe, s.ss.abandon with
  | some r, none =>
    match s.du.restores with
    | t :: rest =>
      (((s.mapDu fun du => { du with restores := rest }).mapSource fun ss =>
        { ss with state := .serve, restoring := some t }).closeLapse).serve t
    | [] =>
      if s.ss.firstTrack < r.tracks then
        (s.mapSource fun ss => { ss with state := .read }).startRead s.ss.firstTrack
      else s.mapSource fun ss => { ss with state := .serve }
  | _, _ => s

/-- The decision point of SERVE with no restore in progress when the DU has appended a track (R115). -/
def State.serveAppended (s : State) : State :=
  if s.ss.state = .serve ∧ s.ss.restoring = none ∧ s.du.restores ≠ [] then s.decision else s

/-- The restore in progress ends: the close test of R11 (R116). -/
def State.restoreEnds (s : State) : State := (s.mapSource fun ss => { ss with restoring := none }).closeTest

/-- The slot of a released track that is no source home track is freed (R38, R114, R116). -/
def State.freeReleased (t : Nat) (s : State) : State :=
  match (s.store.entry t).slot with
  | some i => if (s.store.entry t).home then s else s.requestFree i
  | none => s

/-- Damage reread becomes none if it was the track (R114, R116). -/
def State.clearReread (t : Nat) (s : State) : State :=
  s.mapSource fun ss => { ss with reread := if ss.reread = some t then none else ss.reread }

/-- A RELEASE of the SS has completed; the link pin is released already (R114, R116). -/
def State.sourceReleased (t : Nat) (status : ReleaseStatus) (reason : ReleaseReason) (s : State) : State :=
  match reason, status with
  | .restore, .lost => s.restoreEnds.sourceAbandon .trackLost
  | .restore, .good => ((s.releaseDrivePin.freeReleased t).clearReread t).restoreEnds.decision
  | _, _ =>
    ((s.releaseDrivePin.freeReleased t).mapSource fun ss =>
      { ss with reread := none, firstTrack := t + 1 }).decision

/-- A RELEASE of the SS has been withdrawn at its offer, because its track is not held here (R114, R116). -/
def State.sourceWithdrawn (t : Nat) (reason : ReleaseReason) (s : State) : State :=
  let s1 := s.releaseDrivePin
  if s.ss.abandon.isSome then s1
  else match reason with
    | .restore => s1.serve t
    | _ => (s1.mapSource fun ss => { ss with state := .read }).startRead t

/-- A RELEASE of the SS has been cut off by damage; the link pin is released already (R114, R116). -/
def State.sourceCutOff (t : Nat) (reason : ReleaseReason) (s : State) : State :=
  let s1 := s.releaseDrivePin
  if s.ss.abandon.isSome then s1
  else match reason with
    | .restore =>
      if s.ss.reread = some t then s1.enterRelease ⟨t, .lost, .restore⟩
      else (s1.mapSource fun ss => { ss with reread := some t }).serve t
    | _ =>
      if s.ss.reread = some t then s1.sourceAbandon .masterUnreadable
      else (s1.mapSource fun ss => { ss with state := .read, reread := some t }).startRead t

/-! ### Spindle and head answers for the Source Sequencer (R111, R112) -/

/-- The recalibrate of HOME has ended (R111). -/
def State.sourceHomeEnd (good : Bool) (s : State) : State :=
  if good then s.decision else s.sourceAbandon .masterUnreadable

/-- The spindle has qualified (R111, R112). -/
def State.sourceQualified (s : State) : State :=
  match s.ss.state, s.recipe with
  | .spinup, some r =>
    let d := s.dp.requestRecalibrate r s.now
    let s1 := { s.mapSource fun ss => { ss with state := .home } with dp := d.1 }
    if d.2 then s1.sourceHomeEnd true else s1
  | _, _ =>
    match s.ss.read with
    | some m => if m.phase = .requalify then s.startSearch else s
    | none => s

/-- The limit has passed without qualification (R111, R112). -/
def State.sourceNotQualified (s : State) : State :=
  match s.ss.state with
  | .spinup => s.sourceAbandon .masterUnreadable
  | _ =>
    match s.ss.read with
    | some m => if m.phase = .requalify then s.readFailed .masterUnreadable else s
    | none => s

/-- A NO INDEX event at the SS: a search in progress fails (R112). -/
def State.sourceNoIndex (s : State) : State :=
  match s.ss.read with
  | some m => if m.phase = .searching then s.readFailed .masterUnreadable else s
  | none => s

/-! ### The master removed, the job's start and end (R108, R110, R117, R119) -/

/-- The master has left the drive (R117). A restore's read in progress while the first pass is not over is ended with
the abandon alone, without the RELEASE LOST of R116: the model's choice (log 48). -/
def State.masterRemoved (s : State) : State :=
  match s.recipe with
  | some r =>
    let s1 := (s.mapSource fun ss => { ss with present := false }).stopMotor.mapDrive fun dp => { dp with lock := false }
    if s.ss.firstTrack < r.tracks then s1.endRead.sourceAbandon .masterRemoved
    else s1.readFailed .masterRemoved
  | none => s

/-- The SS takes up its COPY job (R108, R110, R111). -/
def State.sourceOpen (s : State) : State :=
  let s1 := s.mapSource fun _ => { state := .spinup, present := s.dp.diskin, prot := s.dp.wprot }
  if s.dp.diskin then s1.mapDrive (Drive.spinUp s.now (s.pc.params.spinUpLimit * 1000))
  else s1.sourceAbandon .masterRemoved

/-- The SS goes to ENDING, or at once to IDLE when no EJECT pulse is given (R119). Its read, a RELEASE held in reserve
and an abandon it called for end with the job. HEAD and DIR are left to the end of ENDING (log 62). -/
def State.sourceEnding (s : State) : State :=
  let s1 := s.endRead.releaseDrivePin.stopMotor
  if s.dp.diskin then { s1 with ss := { s1.ss with state := .ending, reserve := none, abandon := none }, dp := s1.dp.ejectRequest s1.now }
  else { s1 with ss := {}, dp := { s1.dp with lock := false } }

end Sys2Proof.Machine
end

