-- ==== Sys2Proof/Machine/Account.lean ====
section
/-! DEFINITION. The claim list and the counts: how a CLAIM and a TALLY are applied to the job record (R65 to R73),
and the next serial base (R75). -/

namespace Sys2Proof.Machine

/-! ### The claim list (R65) -/

/-- The entry of a serial. -/
def JobRecord.holder (r : JobRecord) (v : Nat) : Option Claim := r.claims.find? fun c => decide (c.serial = v)

/-- The entry of a station. -/
def JobRecord.entryOf (r : JobRecord) (i : StationId) : Option Claim :=
  r.claims.find? fun c => decide (c.station = i)

/-- A claim is entered in serial order. -/
def insertClaim (c : Claim) : List Claim → List Claim
  | [] => [c]
  | x :: xs => if c.serial < x.serial then c :: x :: xs else x :: insertClaim c xs

/-- One entry with the property leaves the list. -/
def dropClaim (p : Claim → Bool) (l : List Claim) : List Claim := l.eraseP p

/-- The entry of a station leaves the list and counts as void: a departure or a supersession (R16, R66, R70). -/
def JobRecord.voidEntry (i : StationId) (r : JobRecord) : JobRecord :=
  match r.entryOf i with
  | some _ => { r with claims := dropClaim (fun c => decide (c.station = i)) r.claims, void := r.void + 1 }
  | none => r

/-- The entry of a station leaves the list and counts as withdrawn (R72). -/
def JobRecord.withdrawEntry (i : StationId) (r : JobRecord) : JobRecord :=
  match r.entryOf i with
  | some _ => { r with claims := dropClaim (fun c => decide (c.station = i)) r.claims, withdrawn := r.withdrawn + 1 }
  | none => r

/-! ### The high mark (R61, R66, R70) -/

/-- The high mark takes a CLAIM's values: the largest of itself, the serial and the carried high mark; the
carried mark of a serial 0 is passed over (R61, R66). -/
def JobRecord.raiseHigh (v carried : Nat) (r : JobRecord) : JobRecord :=
  let top := if v = 0 ∧ carried = Config.max32 then v else max v carried
  { r with high := if r.noneHeard then top else max r.high top, noneHeard := false }

/-- The high mark takes a TALLY's serial if that is higher (R70). -/
def JobRecord.tallyHigh (v : Nat) (r : JobRecord) : JobRecord :=
  if r.highBelow v then { r with high := v, noneHeard := false } else r

/-! ### A CLAIM (R66, R67) -/

/-- The check of R66. -/
def JobRecord.claimPasses (r : JobRecord) (i : StationId) (v : Nat) : Bool :=
  inMask r.roster i && !inMask r.departed i && inRange r.base r.limit v

/-- What a CLAIM does to the stations whose copy cycles must hear of it: a claim entered, a claim that has lost its
serial, or a claim entered in place of another station's (R67, R68). -/
inductive ClaimFate
  | nothing
  | entered (station : StationId)
  | lost (station : StationId)
  | replaced (station loser : StationId)
  deriving DecidableEq, Repr

/-- Step 6 of R66 with R67: the claim is entered, or the lower station number keeps the serial. -/
def JobRecord.enterClaim (i : StationId) (v : Nat) (r : JobRecord) : JobRecord × ClaimFate :=
  match r.holder v with
  | none => ({ r with claims := insertClaim ⟨v, i⟩ r.claims }, .entered i)
  | some c =>
    if i < c.station then
      ({ r with
         claims := insertClaim ⟨v, i⟩ (dropClaim (fun c => decide (c.serial = v)) r.claims)
         withdrawn := r.withdrawn + 1 }, .replaced i c.station)
    else ({ r with withdrawn := r.withdrawn + 1 }, .lost i)

/-- The steps of R66 after its check. -/
def JobRecord.applyClaim (i : StationId) (v carried : Nat) (r : JobRecord) : JobRecord × ClaimFate :=
  if r.claims.any (fun c => decide (c = ⟨v, i⟩)) then (r.raiseHigh v carried, .nothing)
  else
    let r1 := { r with heard := r.heard + 1 }.raiseHigh v carried
    let r2 := r1.voidEntry i
    r2.enterClaim i v

/-! ### A TALLY (R70 to R72) -/

/-- The check of R70. -/
def JobRecord.tallyPasses (r : JobRecord) (i : StationId) (b : TallyBody) : Bool :=
  inMask r.roster i
  && match b.serial with
     | some v => inRange r.base r.limit v
     | none => decide (b.outcome = .rejected)

/-- Steps 1 and 2 of R70 with R71: the entry settled, or the claim implied; and the station that has lost the
serial. -/
def JobRecord.settleEntry (i : StationId) (v : Nat) (r : JobRecord) : JobRecord × ClaimFate :=
  if r.claims.any (fun c => decide (c = ⟨v, i⟩)) then
    ({ r with claims := dropClaim (fun c => decide (c = ⟨v, i⟩)) r.claims }, .nothing)
  else
    let r1 := { r with heard := r.heard + 1 }.voidEntry i
    match r1.holder v with
    | some c =>
      ({ r1 with claims := dropClaim (fun c => decide (c.serial = v)) r1.claims, withdrawn := r1.withdrawn + 1 },
       .lost c.station)
    | none => (r1, .nothing)

/-- Steps 3 and 4 of R70. -/
def JobRecord.countTally (o : DiskOutcome) (v : Nat) (r : JobRecord) : JobRecord :=
  (match o with
    | .accepted => { r with accepted := r.accepted + 1 }
    | _ => { r with void := r.void + 1 }).tallyHigh v

/-- A TALLY that has passed its check (R70 to R72). -/
def JobRecord.applyTally (i : StationId) (b : TallyBody) (r : JobRecord) : JobRecord × ClaimFate :=
  match b.serial with
  | none => (r.withdrawEntry i, .nothing)
  | some v =>
    let p := r.settleEntry i v
    (p.1.countTally b.outcome v, p.2)

/-! ### The next serial base (R75) -/

/-- Plus 1, capped. -/
def capNext (v : Nat) : Nat := min (v + 1) Config.max32

/-- The opener's next serial base from its own high mark; with none heard every serial of the base on is free
(log 37). -/
def JobRecord.nextBase (r : JobRecord) : Nat := if r.noneHeard then 0 else capNext r.high

/-- The opener's next serial base at a JOB CLOSE: from the larger of its own and the carried high mark. The
carried mark of a closing station that has heard none is passed over (log 37). -/
def JobRecord.nextBaseAtClose (carried : Nat) (r : JobRecord) : Nat :=
  if r.noneHeard then if carried = Config.max32 then 0 else capNext carried
  else capNext (max r.high carried)

/-- The next serial base is set, at the opener of the job whose record is held (R75). -/
def State.setNextBase (g : JobRecord → Nat) (s : State) : State :=
  match s.jc.record with
  | some r => if r.opener = s.station then { s with jc := { s.jc with nextBase := g r } } else s
  | none => s

/-! ### The account applied at the station -/

/-- The record is changed by a CLAIM or a TALLY, and the drain test is made (R4, R74). -/
def State.setAccount (r : JobRecord) (s : State) : State :=
  { s with jc := { s.jc with record := some r.drainTest } }

/-- The copy cycle hears what a CLAIM of serial `v` or a TALLY has done to its own claim (R67, R68, R71). -/
def State.tellClaim (v : Nat) (fate : ClaimFate) (s : State) : State :=
  match fate with
  | .nothing => s
  | .entered i => if i = s.station then s.claimEntered v else s
  | .lost i => if i = s.station then s.serialLost else s
  | .replaced i j => if i = s.station then s.claimEntered v else if j = s.station then s.serialLost else s

end Sys2Proof.Machine
end

