-- ==== Sys2Proof/Machine/Jobs.lean ====
section
/-! DEFINITION. The life of the job record: LOAD and the JOB OPEN it enters (R5, R109, R125), the record created
(R6, R7), departure and home repair (R16, R20), and the job's end (R14). -/

namespace Sys2Proof.Machine

/-! ### Opening (R2, R5, R109) -/

/-- The roster of a JOB OPEN built now (R5). -/
def State.rosterNow (s : State) : StationMask :=
  maskOf ((List.finRange 16).filter fun i =>
    decide (i = s.station) || (s.lc.presence[i].present && s.lc.presence[i].fitted))

/-- The serial limit of a JOB OPEN built now (R61). -/
def State.limitNow (s : State) : Nat := min (s.jc.nextBase + s.pc.params.serialSpan - 1) Config.max32

/-- The job id of a JOB OPEN entered now (R2). -/
def State.jobIdNow (s : State) : JobId := BitVec.ofNat 16 (s.station.val * 4096 + s.jc.seq.toNat)

/-- The kind of a job that LOAD opens now (R109). -/
def State.loadKind (s : State) : JobKind := if s.dp.diskin then .copy else .format

/-- The terms of a JOB OPEN built now (R5). -/
def State.termsNow (s : State) (recipe : Recipe) : JobTerms where
  kind := s.loadKind
  roster := s.rosterNow
  r := s.pc.params.r
  wanted := s.pc.params.wanted
  base := s.jc.nextBase
  limit := s.limitNow
  recipe := recipe

/-- The recipe of the selector, if it is usable for a LOAD now (R109, R125). -/
def State.usableRecipe (s : State) (selector : Fin 8) : Option Recipe :=
  s.pc.directory[selector].filter fun r => r.serialsFit s.limitNow

/-- The checks of R109 in table order: a refusal, or the terms to enter. -/
def State.loadChecks (s : State) (selector : Fin 8) : Except LoadRefusal JobTerms :=
  if s.lc.foreign.isSome then .error .rigBusy
  else match s.usableRecipe selector with
    | none => .error .recipeInvalid
    | some recipe =>
      let terms := s.termsNow recipe
      if s.loadKind = .copy ∧ s.pc.params.requireProt = true ∧ s.dp.wprot = false then .error .masterNotProtected
      else if s.loadKind = .copy ∧ overfull terms.roster recipe.tracks terms.r = true then .error .noRoom
      else if s.accepts (.jobOpen terms) then .ok terms
      else .error .rigBusy

/-- The JOB OPEN is entered and the job sequence counter advances (R2, R5). -/
def State.enterOpen (terms : JobTerms) (s : State) : State :=
  { s with jc := { s.jc with seq := s.jc.seq + 1 } }.push (.jobOpen terms) s.jobIdNow

/-- A LOAD press taken as a request to open a job (R109). -/
def State.load (selector : Fin 8) (s : State) : State :=
  match s.loadChecks selector with
  | .error why => s.refuseLoad why
  | .ok terms => s.enterOpen terms

/-- The own JOB OPEN, if one is queued, is withdrawn and its LOAD ends with RIG BUSY (R6, R110, log 13). -/
def State.overtakenOpen (s : State) : State :=
  if s.lc.waiting .jobOpen then (s.withdrawKey .jobOpen).refuseLoad .rigBusy else s

/-! ### The record created (R3, R6, R7) -/

/-- The checks of R6 on a body and its sender, with the recipe they pass with. -/
def openRecipe (i : StationId) (b : OpenBody) : Option Recipe :=
  match b.recipe with
  | some r =>
    if inMask b.roster i && inRange 1 3 b.r && decide (b.base ≤ b.limit) && r.valid && r.serialsFit b.limit
    then some r else none
  | none => none

/-- The home count a station would have in a job (R7, R18). -/
def openHomeCount (i : StationId) (b : OpenBody) (recipe : Recipe) : Nat :=
  match b.kind with
  | .copy => (homesAmong (stationsOf b.roster) recipe.tracks b.r i).length
  | .format => 0

/-- Role and join refused (R3, R7). -/
def State.openRole (s : State) (sender : StationId) (b : OpenBody) (recipe : Recipe) : Role × Bool :=
  if sender = s.station ∧ b.kind = .copy then (.source, false)
  else if inMask b.roster s.station then
    if Config.homeCountLimit < openHomeCount s.station b recipe ∨ s.pc.params.fitted = false then (.observer, true)
    else (.member, false)
  else (.observer, false)

/-- The record as created (R1, R61). -/
def State.newRecord (s : State) (f : Rx) (b : OpenBody) (recipe : Recipe) : JobRecord where
  jobId := f.jobId
  kind := b.kind
  opener := f.sender
  recipe := recipe
  r := b.r
  roster := b.roster
  role := (s.openRole f.sender b recipe).1
  joinRefused := (s.openRole f.sender b recipe).2
  markAt := s.now
  wanted := b.wanted
  base := b.base
  limit := b.limit
  high := if b.base = 0 then Config.max32 else b.base - 1
  noneHeard := decide (b.base = 0)

/-- The home tracks this station keeps: none at an OBSERVER (R6). -/
def JobRecord.ownHomes (r : JobRecord) (i : StationId) : List Nat :=
  match r.role with
  | .observer => []
  | _ => r.homes i

/-- The home marks of the track map are set from a home set (R19, R20). -/
def Store.setMarks (h : List Nat) (st : Store) : Store :=
  { st with map := Vector.ofFn fun i => { st.map[i] with home := decide (i.val ∈ h) } }

/-- The home tracks are handed to the store at JOB OPEN: marks, allowance, reservation (R6, R24, R26). -/
def Store.setHomes (h : List Nat) (st : Store) : Store :=
  { st.setMarks h with allowance := h, reservation := h.length }

/-- The job record is created and the opened job given to the other blocks (R6). -/
def State.createRecord (f : Rx) (b : OpenBody) (recipe : Recipe) (s : State) : State :=
  let r := s.newRecord f b recipe
  let s1 := { s with
    jc := { s.jc with record := some r, stopDue := false, abandonDue := [] }
    lc := { s.lc with foreign := none }
    store := s.store.setHomes (r.ownHomes s.station)
    du := {} }.overtakenOpen
  match r.role with
  | .source => s1.sourceOpen
  | _ => s1.startTest

/-- A JOB OPEN discarded by R6: counted, and noted (R15). -/
def State.discardOpen (f : Rx) (s : State) : State :=
  { s.badFrame with lc := { s.badFrame.lc with foreign := some f.jobId } }

/-! ### The job's end (R14) -/

/-- A frame carries the job's id, in a class whose job id has a meaning (R2, R14). -/
def Frame.ofJob (jobId : JobId) (f : Frame) : Bool :=
  decide (f.jobId = jobId) && decide (1 ≤ f.body.cls) && decide (f.body.cls ≤ 5)

/-- The end of the job at this station (R14): the record goes, the job's frames are withdrawn, the Copy
Sequencer and the Source Sequencer end their use, the store is freed, the Distribution Unit emptied; a port without a user comes to rest (R137). -/
def State.endJob (cause : EndCause) (s : State) : State :=
  match s.jc.record with
  | some r =>
    let s1 := (s.setQueue (s.lc.queue.filter fun f => !f.ofJob r.jobId)).copyJobEnd cause
    let s2 := match r.role with
      | .source => s1.sourceEnding
      | _ => s1
    { s2 with
      jc := { s2.jc with record := none, stopDue := false, abandonDue := [] }
      store := s2.store.cleared
      du := {}
      tb := none
      dp := s2.dp.dropGate }.idlePort
  | none => s

/-- The abandon sequence begins (R168). What is left of an earlier one is dropped: the model's choice (log 50). -/
def State.startSequence (reason : AbandonReason) (s : State) : State :=
  { s with pc := { s.pc with sequence := some (reason, s.now) } }

/-! ### Home repair (R20) -/

/-- The tracks of a set that are held in the sense of R20: a closing slot counts (R37). -/
def Store.heldForRepair (st : Store) (h : List Nat) : List Nat :=
  h.filter fun t => decide ((st.entry t).presence = .held)

/-- Slots after repair: a CACHE slot whose track has a place becomes HOME, a HOME slot whose track has none
becomes CACHE (R20). -/
def Slot.repaired (allowance : List Nat) (e : Slot) : Slot :=
  match e.state, e.track with
  | .cache, some t => if t ∈ allowance then { e with state := .home } else e
  | .home, some t => if t ∈ allowance then e else { e with state := .cache }
  | _, _ => e

/-- The slots demoted in repair, in ascending track order (R20). -/
def Store.demoted (st : Store) (allowance : List Nat) : List Nat :=
  (List.range Config.trackCount).filterMap fun t =>
    match (st.entry t).presence, (st.entry t).slot with
    | .held, some i => if (st.slot i).state = .home ∧ ¬ t ∈ allowance then some i else none
    | _, _ => none

/-- The rebuild of R20: the two passes, promotion and demotion, marks, reservation, repair list, home-short
count, and the want list's repair part. -/
def State.homeRepair (s : State) : State :=
  match s.jc.record with
  | some r =>
    if r.kind = .copy ∧ r.role ≠ .observer then
      let h := r.homes s.station
      let first := (s.store.heldForRepair h).take Config.allowancePlaces
      let second := (h.filter fun t => !decide ((s.store.entry t).presence = .held)).take
        (Config.allowancePlaces - first.length)
      let st := s.store
      let cache := st.cache.filter fun i => !((st.slot i).track.any fun t => decide (t ∈ first))
      let st1 := { st.setMarks h with
        slots := st.slots.map (Slot.repaired first)
        cache := cache ++ st.demoted first
        reservation := second.length
        allowance := h.filter fun t => decide (t ∈ first) || decide (t ∈ second) }
      let dropped := s.du.repair.filter fun w => !decide (w.track ∈ second)
      let s1 := { s.mapRecord (fun r => { r with
          repair := second, homeShort := h.length - first.length - second.length }) with store := st1 }
      dropped.foldl (fun s w => s.removeWant w.track) s1
    else s
  | none => s

/-! ### Departure (R16) -/

/-- Station `i` departs (R16), this station as any other: the model's choice where its own CALL FIRST completes after a
JOB OPEN has given it a record (log 51). -/
def State.depart (i : StationId) (s : State) : State :=
  match s.jc.record with
  | some r =>
    if inMask r.roster i && !inMask r.departed i then
      let r1 := { r with departed := addMask r.departed i }.voidEntry i
      let s1 := { s with jc := { s.jc with record := some r1 } }
      if r1.remaining.isEmpty then s1.endJob .close
      else
        let became := decide (r1.closing = some s.station)
          && (decide (r.closing ≠ some s.station) || decide (i = r.opener))
        let s2 := if became then s1.sourceLostTest else s1
        (s2.closeTest.homeRepair).startTest
    else s
  | none => s

end Sys2Proof.Machine
end

