-- ==== Sys2Proof/Machine/Receive.lean ====
section
/-! DEFINITION. What every frame completion has in common (R152, R156, R158, R159, R172), and the offer of a frame
with what follows a frame that leaves the queue unsent (R34, R154). -/

namespace Sys2Proof.Machine

/-! ### Completion -/

/-- The own frame of the key, if the kind is one a station sends, leaves the queue as part of its completion; a link pin is released (R34, R152). -/
def State.ownLeaves (k : Option FrameKey) (sender : StationId) (s : State) : State :=
  match k with
  | none => s
  | some k =>
    if sender = s.station ∧ s.lc.has k then
      match k with
      | .release _ _ => (s.dequeue k).releaseLinkPin
      | _ => s.dequeue k
    else s

/-- What each frame completion is handed to the JC and the CS for (R63, R64, R69, R159), after the HOLD-OFF test
at a return of the view to none (R155), which comes after the frame's own effect. The WANTs that the completion calls
for at the Distribution Unit (R42, R58) come after all of these, in `settle`: the model's choice of order (log 49).
`before` is the state before the completion. -/
def State.afterCompletion (s before : State) : State :=
  (((before.holdOffReturn s).claimRefill.claimAgain).enterTally).closeLapse

/-- A frame that a receiver discards by R158 or R172, its body having arrived as `raw`: counted, and the fill it was
making freed (R30, R31). -/
def State.discardFrame (raw : List Byte) (s : State) : State := (s.breakFill raw).badFrame

/-- A frame of key `k` has completed at this station (R152, R158, R159): until start-up has ended nothing is
received, and a frame that began before it is passed over. A body that fails its test is discarded (R172); `raw` is
what it has put into a fill.
Otherwise the frame leaves the own queue, ends its sender's hold-off view, and `apply` acts on it. -/
def State.completed {α : Type} (raw : List Byte) (body : Option α) (k : α → Option FrameKey) (sender : StationId)
    (apply : α → State → State) (s : State) : State :=
  if s.boot = .ready then
    if s.lc.deaf then { s with lc := { s.lc with deaf := false } }
    else match body with
      | none => s.discardFrame raw
      | some b => (apply b ((s.ownLeaves (k b) sender).endViewOf sender)).afterCompletion s
  else s

/-- A frame of class 1 to 5 other than JOB OPEN against the station's job (R159): applied when its id is the
record's, noted when no record is held, else ignored. -/
def State.inJob (jobId : JobId) (note apply : State → State) (s : State) : State :=
  match s.jc.record with
  | some r => if jobId = r.jobId then apply s else s
  | none => note s

/-- The foreign-job note takes the frame's id (R15). -/
def State.setNote (jobId : JobId) (s : State) : State := { s with lc := { s.lc with foreign := some jobId } }

/-- The foreign-job note ends with the JOB CLOSE or JOB ABANDON of its id (R15). -/
def State.clearNote (jobId : JobId) (s : State) : State :=
  if s.lc.foreign = some jobId then { s with lc := { s.lc with foreign := none } } else s

/-! ### The offer (R34, R154) -/

/-- What follows a RELEASE withdrawn at its offer (R55, R56, R114, R116); a damaged slot that its drive pin still
held is freed, and a home track may join the repair list (R37, R58). -/
def State.withdrawnAtOffer (t : Nat) (reason : ReleaseReason) (o : ReleaseOrigin) (s : State) : State :=
  let s1 := s.dequeue (.release t reason)
  match o with
  | .answer => s1
  | .duRestore => (s1.queueRestore t).serveAppended
  | .source => (s1.sourceWithdrawn t reason).repairFeed

/-- The frame to offer is picked and starts; a RELEASE whose track is not held here is withdrawn and the next
frame picked (R34, R154). A CALL ANSWER's body is filled now. `fuel` bounds the picks. -/
def State.offer : (fuel : Nat) → State → State
  | 0, s => s
  | fuel + 1, s =>
    match s.pick with
    | none => s
    | some f =>
      match f.body with
      | .release t .good reason o _ _ _ =>
        match s.store.heldSlot t with
        | some i => { s with store := s.store.takeLinkPin i }.startFrame f.key
        | none => State.offer fuel (s.withdrawnAtOffer t reason o)
      | .call false _ _ =>
        (s.refill f.key (.call false s.pc.params.fitted ((s.jc.record.map (·.jobId)).getD 0))).startFrame f.key
      | _ => s.startFrame f.key

/-- A start of arbitration, own or joined (R150, R154): the medium has been idle for the idle gap, so a frame
passed over since start-up has ended. -/
def State.startArbitration (s : State) : State :=
  if s.boot = .ready then
    let s1 := { s with lc := { s.lc with deaf := false } }
    match s1.lc.sending with
    | some _ => s1
    | none => State.offer (2 * Config.queuePlaces) s1
  else s

/-! ### Frames that leave the queue unsent -/

/-- A WANT dropped after its fourth send fault: its entry goes to UNSENT (R45). -/
def State.wantDropped (t : Nat) (s : State) : State :=
  s.mapDu (Distribution.update t fun w =>
    if w.phase = .queued then
      { w with phase := .unsent, deadline := some (s.after s.pc.params.wantTimeout) }
    else w)

/-- What the originating block does about a frame dropped after its fourth send fault (R45, R63, R69, R110, R114,
R116, R118, R160). CLAIM, TALLY, JOB CLOSE and HOLD-OFF come again at the next place freeing. Not entered again are, by
the model's choice, a JOB STOP, a JOB ABANDON not of the Source Sequencer, a CALL ANSWER and a REPLY (log 8), and a
CALL FIRST that the queue then refuses (log 44). -/
def State.dropped (b : Body) (s : State) : State :=
  match b with
  | .jobOpen _ => s.refuseLoad .rigBusy
  | .jobAbandon reason => if s.ss.abandon = some reason then s.enterAbandon reason else s
  | .claim _ _ => s.pulledUnclaimed
  | .want t _ _ => s.wantDropped t
  | .release t status reason .source _ _ _ => s.enterRelease ⟨t, status, reason⟩
  | .call true _ _ => s.enterCallFirst
  | _ => s

/-- A send fault of the frame on the medium (R152): it keeps its place, unless it is a JOB CLOSE whose conditions
have ceased (R11), or is dropped at its fourth fault. -/
def State.faultFrame (f : Frame) (s : State) : State :=
  let s1 := ({ s with lc := { s.lc with counters :=
    { s.lc.counters with sendFaults := bump s.lc.counters.sendFaults } } }.stopFrame f.key).releaseLinkPin
  if f.faults + 1 < Config.sendFaultLimit then
    let s2 := s1.mapFrame f.key fun g => { g with faults := g.faults + 1 }
    if f.key = .jobClose then s2.closeLapse else s2
  else (s1.dequeue f.key).dropped f.body

/-- The frame on the medium loses arbitration (R151): loss count, link pin, refills. -/
def State.loseFrame (f : Frame) (s : State) : State :=
  let s1 := ((s.stopFrame f.key).raiseLoss f.key).releaseLinkPin
  match f.body with
  | .claim _ _ => s1.claimRefill
  | .jobClose _ _ _ _ => s1.refillClose.closeLapse
  | _ => s1

/-- The slot that a RELEASE on the medium is read from, while it is a use of that slot (R35). -/
def State.sendingSlot (s : State) : Option Nat :=
  match s.lc.sending with
  | some f => match f.body with
    | .release _ .good _ _ _ _ _ => s.store.linkPinned
    | _ => none
  | none => none

/-- The result of a use of a slot fails: its recomputed check differs, or the slot is damaged already (R35, R36). -/
def State.useFails (i : Nat) (s : State) : Bool :=
  match s.recipe with
  | some r => (s.store.slot i).damaged || !decide (s.store.trackCheck r i = (s.store.slot i).check)
  | none => false

/-- A RELEASE on the medium whose slot's check has failed is cut off (R36): the slot is marked damaged, the frame
leaves the queue, the link pin is released, and its block treats it as not sent (R55, R56, R114, R116). -/
def State.cutFrame (f : Frame) (i : Nat) (s : State) : State :=
  match f.body with
  | .release t _ reason o _ _ _ =>
    let s1 := ((s.markDamaged i).dequeue f.key).releaseLinkPin
    match o with
    | .answer => s1
    | .duRestore => (s1.queueRestore t).serveAppended
    | .source => s1.sourceCutOff t reason
  | _ => s

/-- The check of a RELEASE from a slot is applied after its last data byte (R35, R36); `u` are the bytes of the slot
that have changed of themselves. With a check that agrees the frame goes on. -/
def State.cutOff (f : Frame) (u : Upset) (s : State) : State :=
  match s.sendingSlot with
  | some i =>
    let s1 := { s with store := s.store.upset i u }
    if s1.useFails i then s1.cutFrame f i else s1
  | none => s

end Sys2Proof.Machine
end

