-- ==== Sys2Proof/Machine/Panel.lean ====
section
/-! DEFINITION. Start-up, restart and panel commands (11_start_up_panel_and_queries.md): their meanings. -/

namespace Sys2Proof.Machine

/-! ### Power-on and start-up (R40, R163, R164) -/

/-- Power-on: every state at its power-on value, the station number from the straps, store clear under way
(R163). The commands that wait stay. -/
def State.poweredOn (straps : StationId) (diskin wprot trk0 : Bool) (s : State) : State :=
  { pending := s.pending, station := straps, dp := { diskin := diskin, wprot := wprot, trk0 := trk0 } }

/-- Start-up has ended: the station receives and sends, CALL FIRST is entered, and the copy cycle settles by
DISKIN (R163, R166). -/
def State.ready (midFrame : Bool) (s : State) : State :=
  ({ s with boot := .ready, lc := { s.lc with deaf := midFrame } }.enterCallFirst).settleByDiskin

/-- Store clear ends: every slot and map entry at its reset value; the configuration load follows at power-on,
CALL FIRST at a restart (R40, R163, R166). -/
def State.storeClearEnds (midFrame : Bool) (s : State) : State :=
  match s.boot with
  | .clearing true => { s with store := s.store.cleared, boot := .loading }
  | .clearing false => { s with store := s.store.cleared }.ready midFrame
  | _ => s

/-- The configuration load ends: parameters, recipe directory and next serial base in effect (R75, R164). -/
def State.configLoadEnds (bytes : List Byte) (midFrame : Bool) (s : State) : State :=
  match s.boot with
  | .loading =>
    let c := loadConfig bytes
    { s with
      pc := { s.pc with params := c.params, directory := c.directory }
      jc := { s.jc with nextBase := c.params.serialBase } }.ready midFrame
  | _ => s

/-! ### Restart (R93, R119, R162, R166) -/

/-- The Link Controller at a restart: nothing queued, no loss count, no view, no note; presence table and
counters stay (R162). -/
def Link.restarted (lc : Link) : Link := { presence := lc.presence, counters := lc.counters }

/-- A restart (R166), in its order: the disk and the source end, the link, the job record with the next serial
base, then store clear begins; a fill ends, and store clear frees its slot (R30). None of the bytes of a fill that it
ends are written into the slot: the model's choice (log 46). -/
def State.restarted (s : State) : State :=
  let s1 := (s.copyJobEnd .restart).endRead
  let s2 := (s1.releaseDrivePin.releaseLinkPin).setNextBase JobRecord.nextBase
  { s2 with
    store := { s2.store with fills := [] }
    boot := .clearing false
    lc := s2.lc.restarted
    jc := { s2.jc with record := none, stopDue := false, abandonDue := [] }
    du := {}
    cs := { s2.cs with disk := {}, phase := none }
    ss := {}
    tb := none
    vu := none
    dp := s2.dp.restarted
    pc := { s2.pc with flash := none, sequence := none } }

/-! ### Buttons (R94, R109, R120, R167) -/

/-- A LOAD press: taken in job state NONE, or clears the paused flag of a MEMBER (R94, R109). -/
def State.loadPressed (selector : Fin 8) (s : State) : State :=
  if s.boot = .ready then
    match s.jc.record with
    | none => if s.lc.has .jobOpen then s else s.load selector
    | some r =>
      if r.role = .member ∧ s.cs.paused then (s.mapCopy fun cs => { cs with paused := false }).startTest else s
  else s

/-- A brief STOP press: JOB STOP at the opener, the paused flag at another MEMBER (R94, R120). A press while the flag is
set is a refill event of a waiting CLAIM (R64) as the one that sets it is: the model's choice (log 55). -/
def State.stopPressed (s : State) : State :=
  if s.boot = .ready then
    match s.jc.record with
    | none => s
    | some r =>
      if r.opener = s.station then if r.state = .opened then s.enterStop else s
      else if r.role = .member then (s.mapCopy fun cs => { cs with paused := true }).claimRefill
      else s
  else s

/-- A held STOP press: JOB ABANDON OPERATOR at a roster station not departed, unless one of its own is queued
(R13, R120). -/
def State.stopHeld (s : State) : State :=
  if s.boot = .ready then
    match s.jc.record with
    | none => s
    | some r =>
      if inMask r.roster s.station && !inMask r.departed s.station && !s.lc.has .jobAbandon then
        s.enterAbandon .operator
      else s
  else s

/-! ### Panel effects (R168) -/

/-- The LOAD refusal flash ends. -/
def State.flashEnds (s : State) : State :=
  match s.pc.flash with
  | some e => { s.tickTo e with pc := { s.pc with flash := none } }
  | none => s

/-- The abandon sequence ends: its flashes and 1 s dark have passed. -/
def State.sequenceEnds (s : State) : State :=
  match s.pc.sequence with
  | some (reason, start) =>
    { s.tickTo (start + reason.flashes * Config.flashPeriod + Config.sequenceDark) with
      pc := { s.pc with sequence := none } }
  | none => s

/-! ### Meanings -/

/-- POWER_ON (R163). -/
def execPowerOn (straps : StationId) (diskin wprot trk0 : Bool) (s : State) : Result :=
  .next (s.poweredOn straps diskin wprot trk0)

/-- STORE_CLEAR_COMPLETION (R40). -/
def execStoreClearCompletion (midFrame : Bool) (s : State) : Result := .next (s.storeClearEnds midFrame)

/-- CONFIGURATION_LOAD_COMPLETION (R164). -/
def execConfigurationLoadCompletion (bytes : List Byte) (midFrame : Bool) (s : State) : Result :=
  .next (s.configLoadEnds bytes midFrame)

/-- RESTART (R166): acts once start-up has ended. -/
def execRestart (s : State) : Result := .next (if s.boot = .ready then s.restarted else s)

/-- LOAD_PRESS (R109). -/
def execLoadPress (selector : Fin 8) (s : State) : Result := .next (s.loadPressed selector)

/-- STOP_BRIEF_PRESS (R120). -/
def execStopBriefPress (s : State) : Result := .next s.stopPressed

/-- STOP_HELD (R120). -/
def execStopHeld (s : State) : Result := .next s.stopHeld

/-- REFUSAL_FLASH_END (R168). -/
def execRefusalFlashEnd (s : State) : Result := .next s.flashEnds

/-- ABANDON_SEQUENCE_END (R168). -/
def execAbandonSequenceEnd (s : State) : Result := .next s.sequenceEnds

end Sys2Proof.Machine
end

