-- ==== Sys2Proof/Machine/LinkEvents.lean ====
section
/-! DEFINITION. The events of the rig link and the frames of class 0, 6 and 7 (10_the_rig_link.md): their
meanings. -/

namespace Sys2Proof.Machine

/-! ### Events of sending and receiving -/

/-- The body of a RELEASE as far as it has arrived: what follows the kind, the job id and the length, up to that
length; of another kind nothing goes into a slot (R30, R171). -/
def arrivedBody (bytes : List Byte) : List Byte :=
  if byteAt bytes 0 = 0x51 then (bytes.drop 5).take (beAt bytes 3 2) else []

/-- A frame ends in a break or fails a check of R158: it is counted, and a fill in progress freed (R31). A frame
that began before start-up ended is not counted. -/
def State.frameBroken (cls : Fin 8) (bytes : List Byte) (broke : Bool) (s : State) : State :=
  if s.boot = .ready then
    if s.lc.deaf then { s with lc := { s.lc with deaf := false } }
    else if receivePasses cls bytes broke then s
    else (s.discardFrame (arrivedBody bytes)).settle s
  else s

/-- A freed place is handed to the blocks in class order of the frames they hold in reserve (R154). -/
def State.placeFreed (s : State) : State :=
  (((((s.holdOffTest.abandonFromReserve).closeTest).stopFromReserve).claimAgain).enterTally).releaseFromReserve

/-- The hold-off timer expires (R155, R156). -/
def State.holdOffExpires (s : State) : State :=
  match s.lc.view with
  | some v =>
    let s1 := s.tickTo v.expiry
    { s1 with lc := { s1.lc with view := none } }.holdOffTest
  | none => s

/-- ARBITRATION_START (R154). -/
def execArbitrationStart (s : State) : Result := .next s.startArbitration

/-- JOIN_START (R150): the joiner offers the frame it would have started with. -/
def execJoinStart (s : State) : Result := .next s.startArbitration

/-- ARBITRATION_LOSS (R151). -/
def execArbitrationLoss (s : State) : Result :=
  .next (match s.lc.sending with
    | some f => (s.loseFrame f).settle s
    | none => s)

/-- SEND_FAULT (R152). -/
def execSendFault (s : State) : Result :=
  .next (match s.lc.sending with
    | some f => (s.faultFrame f).settle s
    | none => s)

/-- RELEASE_CUT_OFF (R36): the slot's check is applied, with the bytes that have changed of themselves (log 35). -/
def execReleaseCutOff (u : Upset) (s : State) : Result :=
  .next (match s.lc.sending with
    | some f => (s.cutOff f u).settle s
    | none => s)

/-- FRAME_BREAK (R158). -/
def execFrameBreak (cls : Fin 8) (bytes : List Byte) (broke : Bool) (s : State) : Result :=
  .next (s.frameBroken cls bytes broke)

/-- QUEUE_PLACE_FREEING (R154). -/
def execQueuePlaceFreeing (s : State) : Result := .next s.placeFreed

/-- HOLD_OFF_TIMER_EXPIRY (R156). -/
def execHoldOffTimerExpiry (s : State) : Result := .next s.holdOffExpires

/-! ### HOLD-OFF (R156) -/

/-- A completed HOLD-OFF sets the view where it is none; an own one is counted in either case (R156). -/
def State.holdOffHeard (sender : StationId) (s : State) : State :=
  let s1 := match s.lc.view with
    | none =>
      { s with lc := { s.lc with
          view := some { holder := sender, expiry := s.after s.pc.params.holdOffTime } } }
    | some _ => s
  if sender = s.station then s1.count fun c => { c with holdOffs := bump c.holdOffs } else s1

/-- HOLD_OFF (R156). -/
def execHoldOff (f : Rx) (s : State) : Result :=
  .next (s.completed [] (parseHoldOff f.body) (fun _ => some .holdOff) f.sender fun _ => State.holdOffHeard f.sender)

/-! ### CALL (R160) -/

/-- The presence entry of a CALL's sender takes the carried values (R160). -/
def State.present (sender : StationId) (b : CallBody) (s : State) : State :=
  { s with lc := { s.lc with
      presence := s.lc.presence.set sender
        { present := true, fitted := b.fitted, revision := b.revision, jobId := b.jobId } } }

/-- A completed CALL FIRST: presence, departure, and a CALL ANSWER to another station's (R16, R160). An own one that
finds a record departs this station from its own job and keeps the record: the model's choice (log 51). The CALL
ANSWER is entered before the WANTs of a repair feed that the departure calls for (R58): the model's choice (log 52). -/
def State.callFirstHeard (sender : StationId) (b : CallBody) (s : State) : State :=
  let s1 := (s.present sender b).depart sender
  if sender = s.station then s1 else s1.enter (.call false s1.pc.params.fitted 0) 0

/-- CALL_FIRST (R160). -/
def execCallFirst (f : Rx) (s : State) : Result :=
  .next ((s.completed [] ((parseCall f.body).filter (·.first)) (fun _ => some (.call true)) f.sender
    fun b => State.callFirstHeard f.sender b).settle s)

/-- CALL_ANSWER (R160). -/
def execCallAnswer (f : Rx) (s : State) : Result :=
  .next (s.completed [] ((parseCall f.body).filter (!·.first)) (fun _ => some (.call false)) f.sender
    fun b => State.present f.sender b)

/-! ### Queries (R161, R170) -/

/-- A QUERY for this station enters a REPLY; taken, and answered OK on page 7 with the clear flag, it clears the
counters it covers (R161, R170). -/
def State.queried (q : QueryBody) (s : State) : State :=
  if q.target = s.station.val then
    let a := s.answer q
    let body := Body.reply q.page q.offset a.1 a.2
    if s.accepts body then
      let s1 := s.push body 0
      if q.clear ∧ q.page = 7 ∧ a.1 = .ok then s1.count (Counters.clearRead q.offset a.2.length) else s1
    else s
  else s

/-- QUERY (R170). -/
def execQuery (f : Rx) (s : State) : Result :=
  .next (s.completed [] (parseQuery f.body) (fun _ => none) f.sender State.queried)

/-- REPLY (R161): nothing beyond its completion. -/
def execReply (f : Rx) (s : State) : Result :=
  .next (s.completed [] (parseReply f.body) (fun p => some (.reply p.1 p.2)) f.sender fun _ s => s)

end Sys2Proof.Machine
end

