-- ==== Sys2Proof/Machine/JobFrames.lean ====
section
/-! DEFINITION. The job frames and the serial frames (01_jobs_and_the_rig_roster.md,
04_serials_claims_and_tallies.md): their meanings. -/

namespace Sys2Proof.Machine

/-! ### JOB OPEN (R6, R8) -/

/-- A completed JOB OPEN: it creates the record in job state NONE, is discarded there, or is ignored. -/
def State.openHeard (f : Rx) (b : OpenBody) (s : State) : State :=
  match s.jc.record with
  | some _ => s
  | none => match openRecipe f.sender b with
    | some recipe => s.createRecord f b recipe
    | none => s.discardOpen f

/-- JOB_OPEN (R6). -/
def execJobOpen (f : Rx) (s : State) : Result :=
  .next (s.completed [] (parseOpen f.body) (fun _ => some .jobOpen) f.sender fun b => State.openHeard f b)

/-! ### JOB STOP, JOB CLOSE, JOB ABANDON (R9, R12, R13) -/

/-- The move to DRAINING (R4, R9). -/
def State.drain (s : State) : State := s.mapRecord fun r => { r with state := .draining }

/-- A JOB STOP of the job: in OPEN the move to DRAINING, with the close test of R11; in DRAINING nothing (R9). -/
def State.stopHeard (s : State) : State :=
  match s.jc.record with
  | some r => if r.state = .opened then s.drain.closeTest else s
  | none => s

/-- JOB_STOP (R9). -/
def execJobStop (f : Rx) (s : State) : Result :=
  .next (s.completed [] (parseStop f.body) (fun _ => some .jobStop) f.sender
    fun _ s => s.inJob f.jobId (State.setNote f.jobId) State.stopHeard)

/-- A JOB CLOSE of the job, with the high mark it carries (R12, R14, R75). -/
def State.closeHeard (carried : Nat) (s : State) : State :=
  (s.setNextBase (JobRecord.nextBaseAtClose carried)).endJob .close

/-- JOB_CLOSE (R12). -/
def execJobClose (f : Rx) (s : State) : Result :=
  .next (s.completed [] (parseClose f.body) (fun _ => some .jobClose) f.sender
    fun carried s => s.inJob f.jobId (State.clearNote f.jobId) (State.closeHeard carried))

/-- A JOB ABANDON of the job (R13, R14, R75, R168). -/
def State.abandonHeard (reason : AbandonReason) (s : State) : State :=
  ((s.setNextBase JobRecord.nextBase).endJob (.abandon reason)).startSequence reason

/-- JOB_ABANDON (R13). -/
def execJobAbandon (f : Rx) (s : State) : Result :=
  .next (s.completed [] (parseAbandon f.body) (fun _ => some .jobAbandon) f.sender
    fun reason s => s.inJob f.jobId (State.clearNote f.jobId) (State.abandonHeard reason))

/-! ### CLAIM (R66 to R68) -/

/-- A CLAIM of the job (R4, R11, R66 to R68, R78). -/
def State.claimHeard (sender : StationId) (v carried : Nat) (s : State) : State :=
  match s.jc.record with
  | some r =>
    if r.claimPasses sender v then
      let p := r.applyClaim sender v carried
      ((((s.setAccount p.1).tellClaim v p.2).closeTest).startTest)
    else s.badFrame
  | none => s

/-- CLAIM (R66). -/
def execClaim (f : Rx) (s : State) : Result :=
  .next ((s.completed [] (parseClaim f.body) (fun _ => some .claim) f.sender
    fun b s => s.inJob f.jobId (State.setNote f.jobId) (State.claimHeard f.sender b.1 b.2)).settle s)

/-! ### TALLY (R70 to R72) -/

/-- A TALLY of the job (R4, R11, R17, R70 to R72, R78, R90). The close test is made when an entry has left the list
or the job may have come to DRAINING. Where one TALLY brings JOB CLOSE and JOB ABANDON TRACK LOST both (R11, R17),
JOB CLOSE is entered first: the model's choice (log 57). -/
def State.tallyHeard (sender : StationId) (b : TallyBody) (s : State) : State :=
  match s.jc.record with
  | some r =>
    if r.tallyPasses sender b then
      let p := r.applyTally sender b
      let s1 := (s.setAccount p.1).tellClaim 0 p.2
      let s2 := if p.1.claims.length < r.claims.length ∨ r.state = .opened then s1.closeTest else s1
      let s3 := s2.trackLostTest b.first
      (if sender = s.station then s3.tallyDone b.outcome else s3).startTest
    else s.badFrame
  | none => s

/-- TALLY (R70). -/
def execTally (f : Rx) (s : State) : Result :=
  .next ((s.completed [] (parseTally f.body) (fun _ => some .tally) f.sender
    fun b s => s.inJob f.jobId (State.setNote f.jobId) (State.tallyHeard f.sender b)).settle s)

end Sys2Proof.Machine
end

