-- ==== Sys2Proof/Machine/TrackFrames.lean ====
section
/-! DEFINITION. The frames and timers of Track Distribution (03_track_distribution.md, 02_the_image_store.md): their
meanings. -/

namespace Sys2Proof.Machine

/-! ### WANT (R45, R47, R52, R53, R56, R60) -/

/-- An own WANT is counted, and its entry goes to WAITING (R45, R60). -/
def State.ownWant (b : WantBody) (s : State) : State :=
  (s.count fun c =>
    { c with
      wants := bump c.wants
      restores := if b.restore then bump c.restores else c.restores }).wantHeard b.track

/-- Another station's WANT is shared, then answered or taken as a restore request (R47, R52, R56). That sharing comes first,
so that what the WANT brings finds the place of the own WANT withdrawn, is the model's choice (log 59). -/
def State.otherWant (b : WantBody) (s : State) : State :=
  let s1 := s.shareWant b
  if b.restore then (s1.restoreRequest b.track).serveAppended else s1.answerWant b.track

/-- WANT (R52). -/
def execWant (f : Rx) (s : State) : Result :=
  .next (s.completed [] (parseWant f.body) (fun b => some (.want b.track)) f.sender
    fun b s => s.inJob f.jobId (State.setNote f.jobId)
      (if f.sender = s.station then State.ownWant b else State.otherWant b))

/-! ### RELEASE (R29 to R31, R41, R46, R51, R54, R114, R116) -/

/-- The taking decision, and the slot of a payload taken (R29). -/
def State.releaseBegins (h : ReleaseHead) (s : State) : State :=
  if s.boot = .ready ∧ s.lc.deaf = false ∧ s.takes h then (s.beginFill h).settle s else s

/-- RELEASE_BEGIN (R29). -/
def execReleaseBegin (h : ReleaseHead) (s : State) : Result := .next (s.releaseBegins h)

/-- The block a queued RELEASE comes from. -/
def Link.releaseOrigin (lc : Link) (t : Nat) (reason : ReleaseReason) : Option ReleaseOrigin :=
  match lc.find (.release t reason) with
  | some f => match f.body with
    | .release _ _ _ o _ _ _ => some o
    | _ => none
  | none => none

/-- A RELEASE of the job has completed (R31, R41, R51, R54, R82, R114, R116). `origin` is the block an own frame
came from. -/
def State.releaseHeard (own : Bool) (origin : Option ReleaseOrigin) (b : ReleaseBody) (s : State) : State :=
  let s1 := (if own then s else s.suppressAnswers b.track).settleFill b
  let s2 := match b.status with
    | .good => s1.markRelease b
    | .lost => s1.lostRelease b.track
  let s3 := if own ∧ origin = some .source then s2.sourceReleased b.track b.status b.reason else s2
  s3.fetchTry

/-- The own RELEASE whose completion is reported has failed its slot's check, which comes before the frame check: it
was cut off (R35, R36). -/
def State.ownCheckFails (sender : StationId) (s : State) : Bool :=
  decide (s.boot = .ready) && !s.lc.deaf && decide (sender = s.station)
  && match s.sendingSlot with
     | some i => s.useFails i
     | none => false

/-- RELEASE (R31, R35). -/
def execRelease (f : Rx) (s : State) : Result :=
  if s.ownCheckFails f.sender then execReleaseCutOff [] s
  else .next ((s.completed f.body (parseRelease f.body) (fun b => some (.release b.track b.reason)) f.sender
    fun b t => t.inJob f.jobId (State.setNote f.jobId)
      (State.releaseHeard (decide (f.sender = s.station)) (s.lc.releaseOrigin b.track b.reason) b)).settle s)

/-! ### Timers (R41, R48 to R50) -/

/-- The deadline of a want list entry expires (R48 to R50). -/
def State.deadlineExpires (track : Nat) (s : State) : State :=
  match s.jc.record, s.du.find track with
  | some r, some w =>
    match w.deadline with
    | some d => ((s.tickTo d).wantExpired w r.jobId).settle s
    | none => s
  | _, _ => s

/-- WANT_DEADLINE_EXPIRY (R48). -/
def execWantDeadlineExpiry (track : Nat) (s : State) : Result := .next (s.deadlineExpires track)

/-- The mark has stood at T − 1 for the restore timeout (R41). -/
def State.lastTrackTimes (s : State) : State :=
  match s.jc.record with
  | some r =>
    if r.kind = .copy ∧ r.mark + 1 = r.tracks ∧ r.lastRun = false then
      ((s.tickTo (r.markAt + s.pc.params.restoreTimeout * 1000)).mapRecord fun r =>
        { r with lastRun := true }).settle s
    else s
  | none => s

/-- LAST_TRACK_TIMEOUT (R41). -/
def execLastTrackTimeout (s : State) : Result := .next s.lastTrackTimes

/-- MASTER_READ_SLOT_GRANT (R32). -/
def execMasterReadSlotGrant (s : State) : Result := .next (s.trySlot.settle s)

end Sys2Proof.Machine
end

