-- ==== Sys2Proof/Machine/DriveEvents.lean ====
section
/-! DEFINITION. The events of the drive port (09_the_drive_port_and_spindle_monitor.md): their meanings. -/

namespace Sys2Proof.Machine

/-! ### Reports to the port's user (R137) -/

/-- The user is told that the spindle has qualified (R145). -/
def State.tellQualified (s : State) : State :=
  match s.role with
  | some .member => s.copyQualified
  | some .source => s.sourceQualified
  | _ => s

/-- The user is told that the spindle has not qualified within the limit (R145). -/
def State.tellNotQualified (seen : Bool) (s : State) : State :=
  match s.role with
  | some .member => s.copyNotQualified seen
  | some .source => s.sourceNotQualified
  | _ => s

/-- The user is told of the end of a seek (R141). -/
def State.tellSeek (good : Bool) (s : State) : State :=
  match s.role with
  | some .member => if s.cs.state = .write ∧ s.cs.phase = some .seeking then s.copySeekEnd good else s
  | some .source => match s.ss.read with
    | some m => if m.phase = .seeking then s.sourceSeekEnd good else s
    | none => s
  | _ => s

/-- The user is told of the end of a recalibrate (R142). -/
def State.tellRecalibrate (good : Bool) (s : State) : State :=
  match s.role with
  | some .member => if s.cs.state = .home then s.copyHomeEnd good else s
  | some .source => if s.ss.state = .home then s.sourceHomeEnd good else s
  | _ => s

/-- The user is told of the end of a head motion (R141, R142). -/
def State.tellMotion (res : MotionResult) (s : State) : State :=
  match res with
  | .going => s
  | .seekGood => s.tellSeek true
  | .seekFailed => s.tellSeek false
  | .recalibrateGood => s.tellRecalibrate true
  | .recalibrateFailed => s.tellRecalibrate false

/-- The user is told of a NO INDEX event (R146). -/
def State.tellNoIndex (s : State) : State :=
  match s.role with
  | some .member => s.copyNoIndex
  | some .source => s.sourceNoIndex
  | _ => s

/-! ### INDEX (R83, R84, R144, R145, R148) -/

/-- The armed INDEX edge of a write: PROTECTED, or WGATE and the stream (R83, R134, R139). -/
def State.armedEdge (s : State) : State :=
  if s.dp.wprot then s.reject .protected_
  else if s.gateAllowed then
    { s with
      dp := { s.dp with wgate := true }
      tb := some { since := s.now }
      cs := { s.cs with phase := some .writing } }
  else s

/-- What an INDEX edge is to a write: its arming edge or its completing edge (R83, R84). -/
def State.writeEdge (s : State) : State :=
  if s.cs.state = .write then
    match s.cs.phase with
    | some .armed => s.armedEdge
    | some .writing => s.mapCopy fun cs => { cs with phase := some .completing }
    | _ => s
  else s

/-- A qualify request is answered when the edge has set the qualified flag (R145). -/
def State.qualifyEdge (was : Bool) (s : State) : State :=
  match s.dp.qualify with
  | some _ =>
    if s.dp.spindle.qualified && !was then
      (s.mapDrive fun dp => { dp with qualify := none }).tellQualified
    else s
  | none => s

/-- An INDEX edge (R144). -/
def State.index (time : Nat) (trk0 : Bool) (s : State) : State :=
  let s1 := s.tickTo time
  let s2 := s1.mapDrive fun dp => { dp with trk0 := trk0 }.indexEdge s1.recipe s1.now
  (s2.writeEdge.qualifyEdge s.dp.spindle.qualified)

/-- INDEX_EDGE (R144). -/
def execIndexEdge (time : Nat) (trk0 : Bool) (s : State) : Result := .next ((s.index time trk0).settle s)

/-- The faults of a completed write that the DP and the TB report: SPEED and OVERRUN, in the order of R84. -/
def State.writeFaults (s : State) (r : Recipe) : List DiskFault :=
  (if s.dp.spindle.inTol then [] else [.speed])
  ++ if r.reachesGap4 (s.dp.spindle.period.getD 0) then [] else [.overrun]

/-- The completion of a write (R84): WGATE drops, the three checks, and what follows. -/
def State.writeCompletes (u : Upset) (s : State) : State :=
  match s.jc.record with
  | some r =>
    if s.cs.state = .write ∧ s.cs.phase = some .completing then
      let s1 := s.stopWrite.mapCopy fun cs => { cs with phase := none }
      let checked : State × Bool := match r.kind with
        | .copy => s1.applyCheck r.recipe u
        | .format => (s1, false)
      let faults := s1.writeFaults r.recipe ++ if checked.2 then [.storeDamage] else []
      if faults = [] then checked.1.writeGood else checked.1.failedAttempt faults
    else s
  | none => s

/-- WRITE_COMPLETION (R84). -/
def execWriteCompletion (u : Upset) (s : State) : Result := .next ((s.writeCompletes u).settle s)

/-- The revolution counter's expiry is reported (R104, R112, R148). -/
def State.counterExpires (u : Upset) (s : State) : State :=
  if s.dp.counter = some 0 then
    let s1 := s.mapDrive Drive.disarm
    match s.role with
    | some .member =>
      if s.cs.state = .verify ∧ s.vu.any (·.running) then s1.verifyEnd u else s1
    | some .source => match s.ss.read with
      | some m => if m.phase = .searching then s1.readFailed .masterUnreadable else s1
      | none => s1
    | _ => s1
  else s

/-- REVOLUTION_COUNTER_EXPIRY (R148). -/
def execRevolutionCounterExpiry (u : Upset) (s : State) : Result := .next ((s.counterExpires u).settle s)

/-! ### Absence of INDEX and the qualify limit (R145, R146) -/

/-- A NO INDEX event (R146): the watch has run out. -/
def State.indexAbsent (s : State) : State :=
  match s.recipe, s.dp.spindle.watch with
  | some r, some w =>
    if s.dp.motor then
      (((s.tickTo (w + 2 * r.nominal.period)).mapDrive Drive.noIndex).tellNoIndex)
    else s
  | _, _ => s

/-- NO_INDEX (R146). -/
def execNoIndex (s : State) : Result := .next (s.indexAbsent.settle s)

/-- The limit of a qualify request expires (R145). -/
def State.limitExpires (s : State) : State :=
  match s.dp.qualify with
  | some q =>
    ((s.tickTo q.limit).mapDrive fun dp => { dp with qualify := none }).tellNotQualified q.seen
  | none => s

/-- QUALIFY_LIMIT_EXPIRY (R145). -/
def execQualifyLimitExpiry (s : State) : Result := .next (s.limitExpires.settle s)

/-! ### Head motion (R141, R142) -/

/-- A step time of a motion in progress ends. -/
def State.stepEnds (trk0 : Bool) (s : State) : State :=
  match s.recipe, s.dp.motion with
  | some r, some m =>
    if m.settling then s
    else
      let s1 := s.tickTo m.ends
      let d := { s1.dp with trk0 := trk0 }.stepEnd r
      { s1 with dp := d.1 }.tellMotion d.2
  | _, _ => s

/-- STEP_TIME_END (R142). -/
def execStepTimeEnd (trk0 : Bool) (s : State) : Result := .next ((s.stepEnds trk0).settle s)

/-- The head settle of a motion in progress ends. -/
def State.settleEnds (trk0 : Bool) (s : State) : State :=
  match s.recipe, s.dp.motion with
  | some r, some m =>
    if m.settling then
      let s1 := s.tickTo m.ends
      let d := { s1.dp with trk0 := trk0 }.settleEnd r s1.now
      { s1 with dp := d.1 }.tellMotion d.2
    else s
  | _, _ => s

/-- HEAD_SETTLE_END (R141). -/
def execHeadSettleEnd (trk0 : Bool) (s : State) : Result := .next ((s.settleEnds trk0).settle s)

/-! ### Eject and the input lines (R77, R90, R91, R110, R117, R119, R138, R139, R147) -/

/-- The EJECT pulse ends, and a Source Sequencer in ENDING goes to IDLE (R119, R138), and a
port without a user comes to rest (R137). That HEAD and DIR stay through the pulse and come to rest with its end is the
model's choice (log 62). -/
def State.ejectEnd (s : State) : State :=
  match s.dp.ejectEnds with
  | some e =>
    let s1 := (s.tickTo e).mapDrive fun dp => { dp with ejectEnds := none }
    if s.ss.state = .ending then { s1 with ss := {} }.idlePort else s1
  | none => s

/-- EJECT_PULSE_END (R138). -/
def execEjectPulseEnd (s : State) : Result := .next s.ejectEnd

/-- DISKIN changes to a level: the line, and the spindle record cleared (R147). -/
def State.diskinLine (level : Bool) (s : State) : State :=
  s.mapDrive fun dp => { dp with diskin := level }.clearSpindle s.now

/-- DISKIN becomes active (R77). Until the configuration load has completed only the line changes (R163). -/
def State.seated (s : State) : State :=
  if s.dp.diskin then s
  else
    let s1 := s.diskinLine true
    if s.dark then s1
    else if s.cs.state = .empty then (s1.cycleTo .standby).startTest
    else s1

/-- DISKIN_ACTIVE (R77). -/
def execDiskinActive (s : State) : Result := .next s.seated

/-- A queued COPY JOB OPEN that has not started is withdrawn without a flash when the diskette leaves (R110). -/
def State.withdrawCopyOpen (s : State) : State :=
  s.withdraw fun f => match f.body with
    | .jobOpen terms => decide (terms.kind = .copy)
    | _ => false

/-- The copy cycle sees the diskette leave: EMPTY, or a disk pulled (R77, R90, R91). -/
def State.copyUnseated (s : State) : State :=
  if s.cs.state.busy && !s.cs.pulled then s.pullDisk else s.settleByDiskin

/-- DISKIN becomes inactive (R77, R90, R91, R110, R117). -/
def State.unseated (s : State) : State :=
  if s.dp.diskin then
    let s1 := s.diskinLine false
    if s.dark then s1
    else
      let s2 := s1.withdrawCopyOpen.copyUnseated
      if s.role = some .source then s2.masterRemoved else s2
  else s

/-- DISKIN_INACTIVE (R91). -/
def execDiskinInactive (s : State) : Result := .next (s.unseated.settle s)

/-- WPROT changes: becoming active during a write it drops WGATE, and the disk is rejected PROTECTED (R139). -/
def State.wprotTo (active : Bool) (s : State) : State :=
  let s1 := s.mapDrive fun dp => { dp with wprot := active }
  if active ∧ s.dp.wgate then
    if s.cs.state = .write then s1.stopWrite.reject .protected_ else s1.stopWrite
  else s1

/-- WPROT_CHANGE (R139). -/
def execWprotChange (active : Bool) (s : State) : Result := .next ((s.wprotTo active).settle s)

end Sys2Proof.Machine
end

