-- ==== Sys2Proof/Machine/Surface.lean ====
section
/-! DEFINITION. What is read from the disk surface (06_verification.md; R112, R113): the meanings of the record and
marker events, at the Verify Unit and in a master read. -/

namespace Sys2Proof.Machine

/-! ### Verify Unit (R99 to R103) -/

/-- An observation of a sector replaces its outcome, unless the entry is OK (R103). -/
def VerifyRecord.observe (sector : Nat) (o : SectorOutcome) (v : VerifyRecord) : VerifyRecord :=
  { v with entries := v.entries.map fun e =>
      if e.id = sector ∧ e.outcome ≠ .ok then { e with outcome := o } else e }

/-- The search for a data marker ends without one: the sector is MISSING, and the ID search resumes (R100). -/
def VerifyRecord.markerMissed (v : VerifyRecord) : VerifyRecord :=
  match v.reading with
  | some sector => { v.observe sector .missing with reading := none }
  | none => v

/-- An ID record (R99); a matching one with a good check starts the search for the data marker (R100). -/
def VerifyRecord.idRead (r : Recipe) (now : Nat) (c h s z : Byte) (check : BitVec 16) (v : VerifyRecord) : VerifyRecord :=
  let matching := decide (c.toNat = v.cylinder) && decide (h.toNat = v.head) && decide (z.toNat = r.sizeCode)
    && v.entries.any fun e => decide (e.id = s.toNat) && decide (e.outcome ≠ .ok)
  if matching then
    if r.idCheck [c, h, s, z] = check then { v with reading := some s.toNat, reach := r.reachEnd now }
    else v.observe s.toNat .idCheck
  else v

/-- Some byte inside the stamp part differs from the rendition (R101). -/
def stampDiffers (stamp : List (Nat × Byte)) (data : List Byte) : Bool :=
  stamp.any fun c => !decide (data[c.1]? = some c.2)

/-- Some byte outside the stamp part differs from what is expected there (R101). -/
def dataDiffers (stamp : List (Nat × Byte)) (data expected : List Byte) : Bool :=
  (List.range expected.length).any fun k =>
    !(stamp.any fun c => decide (c.1 = k)) && !decide (data[k]? = expected[k]?)

/-- The observation of a sector whose data record has been read (R100, R101). A record of another length than
the recipe's sector fails its check (log 32). -/
def observation (r : Recipe) (stamp : List (Nat × Byte)) (expected : Option (List Byte)) (data : List Byte)
    (check : BitVec 16) : SectorOutcome :=
  if data.length ≠ r.size ∨ r.dataCheck data ≠ check then .dataCheck
  else if stampDiffers stamp data then .stampMismatch
  else match expected with
    | some e => if dataDiffers stamp data e then .mismatch else .ok
    | none => .ok

/-- The bytes a sector is compared with outside its stamp part: none in CHECK mode, the slot's in a COPY job, fill
bytes in a FORMAT job (R96, R101). -/
def State.expectedData (s : State) (r : JobRecord) (sector : Nat) : Option (List Byte) :=
  if r.recipe.verify = .full then
    match r.kind with
    | .copy => s.store.drivePinned.map fun i => s.store.sectorData r.recipe i sector
    | .format => some (List.replicate r.recipe.size r.recipe.fill)
  else none

/-- A data record at the Verify Unit (R100, R101, R103, R104): the observation, and the verify's end when it
settles the last entry. -/
def State.verifyData (r : JobRecord) (v : VerifyRecord) (data : List Byte) (check : BitVec 16) (u : Upset)
    (s : State) : State :=
  match v.reading with
  | some sector =>
    let s1 := match s.store.drivePinned with
      | some i => { s with store := s.store.upset i u }
      | none => s
    let stamp := ((v.entries.find? fun e => decide (e.id = sector)).map (·.stamp)).getD []
    let o := observation r.recipe stamp (s1.expectedData r sector) data check
    let v1 := { v.observe sector o with reading := none }
    let s2 := { s1 with vu := some v1 }
    if v1.entries.all (fun e => decide (e.outcome = .ok)) then s2.verifyEnd [] else s2
  | none => s

/-- The verify that runs (R104). -/
def State.verifying (s : State) : Option VerifyRecord :=
  if s.cs.state = .verify then s.vu.filter (·.running) else none

/-! ### Master read (R112, R113) -/

/-- The search of a master read. -/
def State.searching (s : State) : Option MasterRead :=
  s.ss.read.filter fun m => decide (m.phase = .searching)

/-- An ID record in a master read: a good one that fits no sector of the track is a misfit (R112). -/
def State.masterId (r : Recipe) (m : MasterRead) (c h z : Byte) (sector : Nat) (good : Bool) (s : State) : State :=
  if good then
    if c.toNat = r.cylinderOf m.track ∧ h.toNat = r.headOf m.track ∧ z.toNat = r.sizeCode ∧ sector ∈ r.ids then
      if sector ∈ m.unsettled then
        s.mapRead fun m => { m with reading := some sector, reach := r.reachEnd s.now }
      else s
    else s.readFailed .masterMisfit
  else s

/-- A data record in a master read: with a good check its data go to the slot and the sector is settled; the
last one ends the read good (R112, R113). -/
def State.masterData (r : Recipe) (m : MasterRead) (data : List Byte) (check : BitVec 16) (s : State) : State :=
  match m.reading, m.slot with
  | some sector, some i =>
    if data.length = r.size ∧ r.dataCheck data = check then
      let m1 := { m with unsettled := m.unsettled.erase sector, reading := none }
      let s1 := { s with
        store := s.store.writeSector r i sector data
        ss := { s.ss with read := some m1 } }
      if m1.unsettled = [] then s1.readGood r m1 i else s1
    else s.mapRead fun m => { m with reading := none }
  | _, _ => s

/-! ### The events -/

/-- The search for a data marker ends without one, at whichever reader it runs (R100, R112). -/
def State.markerMissed (s : State) : State :=
  match s.verifying, s.searching with
  | some v, _ => { s with vu := some v.markerMissed }
  | none, some _ => s.mapRead fun m => { m with reading := none }
  | none, none => s

/-- An ID record is read (R99, R112). One met while a data marker is looked for is first a marker of another
value (log 22). -/
def State.idRead (c h sector z : Byte) (check : BitVec 16) (s : State) : State :=
  match s.jc.record with
  | some r =>
    match s.verifying, s.searching with
    | some v, _ => { s with vu := some (v.markerMissed.idRead r.recipe s.now c h sector z check) }
    | none, some m =>
      (s.mapRead fun m => { m with reading := none }).masterId r.recipe m c h z sector.toNat
        (decide (r.recipe.idCheck [c, h, sector, z] = check))
    | none, none => s
  | none => s

/-- A data record is read (R100, R112). One whose marker lay beyond the reach ends the search as the reach's end does
(log 45). -/
def State.dataRead (data : List Byte) (check : BitVec 16) (u : Upset) (s : State) : State :=
  match s.jc.record with
  | some r =>
    match s.verifying, s.searching with
    | some v, _ =>
      if r.recipe.inReach v.reach s.now then s.verifyData r v data check u else s.markerMissed
    | none, some m =>
      if r.recipe.inReach m.reach s.now then s.masterData r.recipe m data check else s.markerMissed
    | none, none => s
  | none => s

/-- ID_RECORD (R99). -/
def execIdRecord (c h sector z : Byte) (check : BitVec 16) (s : State) : Result :=
  .next ((s.idRead c h sector z check).settle s)

/-- DATA_RECORD (R100). -/
def execDataRecord (data : List Byte) (check : BitVec 16) (u : Upset) (s : State) : Result :=
  .next ((s.dataRead data check u).settle s)

/-- The end of the reach of a search for a data marker in progress. -/
def State.reach (s : State) : Option Nat :=
  match s.verifying, s.searching with
  | some v, _ => v.reading.map fun _ => v.reach
  | none, some m => m.reading.map fun _ => m.reach
  | none, none => none

/-- DATA_MARKER_REACH_EXPIRY (R100): the clock comes to the end of the reach. -/
def execDataMarkerReachExpiry (s : State) : Result :=
  .next (match s.reach with
    | some e => (s.tickTo e).markerMissed
    | none => s)

/-- MARKER_OF_ANOTHER_VALUE (R100). -/
def execMarkerOfAnotherValue (s : State) : Result := .next s.markerMissed

end Sys2Proof.Machine
end

