-- ==== Sys2Proof/Machine/Dispatch.lean ====
section
/-! DEFINITION. exec: one arm for each command. -/

namespace Sys2Proof.Machine

def exec (i : Instr) (s : State) : Host.Outcome State Fault Refusal :=
  match i with
  | .powerOn straps diskin wprot trk0 => Sys2Proof.Machine.execPowerOn straps diskin wprot trk0 s
  | .storeClearCompletion midFrame => Sys2Proof.Machine.execStoreClearCompletion midFrame s
  | .configurationLoadCompletion bytes midFrame => Sys2Proof.Machine.execConfigurationLoadCompletion bytes midFrame s
  | .restart => Sys2Proof.Machine.execRestart s
  | .loadPress selector => Sys2Proof.Machine.execLoadPress selector s
  | .stopBriefPress => Sys2Proof.Machine.execStopBriefPress s
  | .stopHeld => Sys2Proof.Machine.execStopHeld s
  | .refusalFlashEnd => Sys2Proof.Machine.execRefusalFlashEnd s
  | .abandonSequenceEnd => Sys2Proof.Machine.execAbandonSequenceEnd s
  | .arbitrationStart => Sys2Proof.Machine.execArbitrationStart s
  | .joinStart => Sys2Proof.Machine.execJoinStart s
  | .arbitrationLoss => Sys2Proof.Machine.execArbitrationLoss s
  | .sendFault => Sys2Proof.Machine.execSendFault s
  | .releaseCutOff u => Sys2Proof.Machine.execReleaseCutOff u s
  | .frameBreak cls bytes broke => Sys2Proof.Machine.execFrameBreak cls bytes broke s
  | .queuePlaceFreeing => Sys2Proof.Machine.execQueuePlaceFreeing s
  | .holdOff f => Sys2Proof.Machine.execHoldOff f s
  | .holdOffTimerExpiry => Sys2Proof.Machine.execHoldOffTimerExpiry s
  | .jobOpen f => Sys2Proof.Machine.execJobOpen f s
  | .jobStop f => Sys2Proof.Machine.execJobStop f s
  | .jobClose f => Sys2Proof.Machine.execJobClose f s
  | .jobAbandon f => Sys2Proof.Machine.execJobAbandon f s
  | .claim f => Sys2Proof.Machine.execClaim f s
  | .tally f => Sys2Proof.Machine.execTally f s
  | .want f => Sys2Proof.Machine.execWant f s
  | .releaseBegin h => Sys2Proof.Machine.execReleaseBegin h s
  | .release f => Sys2Proof.Machine.execRelease f s
  | .callFirst f => Sys2Proof.Machine.execCallFirst f s
  | .callAnswer f => Sys2Proof.Machine.execCallAnswer f s
  | .query f => Sys2Proof.Machine.execQuery f s
  | .reply f => Sys2Proof.Machine.execReply f s
  | .wantDeadlineExpiry track => Sys2Proof.Machine.execWantDeadlineExpiry track s
  | .lastTrackTimeout => Sys2Proof.Machine.execLastTrackTimeout s
  | .indexEdge time trk0 => Sys2Proof.Machine.execIndexEdge time trk0 s
  | .writeCompletion u => Sys2Proof.Machine.execWriteCompletion u s
  | .revolutionCounterExpiry u => Sys2Proof.Machine.execRevolutionCounterExpiry u s
  | .idRecord c h sector z check => Sys2Proof.Machine.execIdRecord c h sector z check s
  | .dataRecord data check u => Sys2Proof.Machine.execDataRecord data check u s
  | .dataMarkerReachExpiry => Sys2Proof.Machine.execDataMarkerReachExpiry s
  | .noIndex => Sys2Proof.Machine.execNoIndex s
  | .qualifyLimitExpiry => Sys2Proof.Machine.execQualifyLimitExpiry s
  | .stepTimeEnd trk0 => Sys2Proof.Machine.execStepTimeEnd trk0 s
  | .headSettleEnd trk0 => Sys2Proof.Machine.execHeadSettleEnd trk0 s
  | .ejectPulseEnd => Sys2Proof.Machine.execEjectPulseEnd s
  | .diskinActive => Sys2Proof.Machine.execDiskinActive s
  | .diskinInactive => Sys2Proof.Machine.execDiskinInactive s
  | .wprotChange active => Sys2Proof.Machine.execWprotChange active s
  | .masterReadSlotGrant => Sys2Proof.Machine.execMasterReadSlotGrant s
  | .markerOfAnotherValue => Sys2Proof.Machine.execMarkerOfAnotherValue s

end Sys2Proof.Machine
end

