-- ==== Sys2Proof/Machine/Step.lean ====
section
/-! DEFINITION. One step of the block. -/

namespace Sys2Proof.Machine

/-- A step takes the command at the front of the queue and answers exec's outcome. On an empty queue 1 µs passes
(log 2). -/
def step (s : State) : Host.Outcome State Fault Refusal :=
  match s.pending with
  | [] => .next (s.tickTo (s.now + 1))
  | c :: rest => exec c { s with pending := rest }

/-- The command a word spells goes to the front of the queue; no word spells one (log 30). -/
def State.withFetchWord (s : State) (nbits w : Nat) : State :=
  match decodeTableWord nbits w with
  | some c => { s with pending := c :: s.pending }
  | none => s

end Sys2Proof.Machine
end

