-- ==== Sys2Proof/Safety.lean ====
section
/-! DEFINITION. What is to hold of every state of the block: the properties the spec says hold at every station,
and the bounds its tables give. -/

namespace Sys2Proof.Machine

/-! ### Parts of the job record -/

/-- The fields of the record that R1 fixes at JOB OPEN. -/
structure FixedFields where
  jobId       : JobId
  kind        : JobKind
  opener      : StationId
  recipe      : Recipe
  r           : Nat
  roster      : StationMask
  role        : Role
  joinRefused : Bool
  wanted      : Nat
  base        : Nat
  limit       : Nat
  deriving DecidableEq, Repr

/-- The fields of a record that R1 fixes at JOB OPEN. -/
def JobRecord.fixed (r : JobRecord) : FixedFields where
  jobId := r.jobId
  kind := r.kind
  opener := r.opener
  recipe := r.recipe
  r := r.r
  roster := r.roster
  role := r.role
  joinRefused := r.joinRefused
  wanted := r.wanted
  base := r.base
  limit := r.limit

/-- The account of a record: its counts, its claim list and its high mark (04, opening). -/
structure Account where
  heard     : Nat
  accepted  : Nat
  void      : Nat
  withdrawn : Nat
  claims    : List Claim
  high      : Nat
  noneHeard : Bool
  deriving DecidableEq, Repr

/-- The account of a record. -/
def JobRecord.account (r : JobRecord) : Account where
  heard := r.heard
  accepted := r.accepted
  void := r.void
  withdrawn := r.withdrawn
  claims := r.claims
  high := r.high
  noneHeard := r.noneHeard

/-- The fixed fields of the record held, if any. -/
def State.fixed (s : State) : Option FixedFields := s.jc.record.map (·.fixed)

/-- The account of the record held, if any. -/
def State.account (s : State) : Option Account := s.jc.record.map (·.account)

/-- The job state of the record held; none is job state NONE. -/
def State.jobState (s : State) : Option JobState := s.jc.record.map (·.state)

/-- The release mark of the record held. -/
def State.mark (s : State) : Option Nat := s.jc.record.map (·.mark)

/-- The departed set of the record held. -/
def State.departed (s : State) : Option StationMask := s.jc.record.map (·.departed)

/-! ### A frame completion -/

/-- The state that a completed frame's own rule acts on: an own frame has left the queue, and its sender's hold-off
view has ended. -/
def State.heard (k : FrameKey) (sender : StationId) (s : State) : State :=
  (s.ownLeaves (some k) sender).endViewOf sender

/-- The station receives: start-up has ended, and no frame is passed over that began before (R158). -/
def State.receives (s : State) : Prop := s.boot = .ready ∧ s.lc.deaf = false

/-! ### What is to hold of every state -/

/-- The slots' bytes are kept in canonical form, so that equal contents are equal data. -/
def State.memorySound (s : State) : Prop := Memory.wf s.store.mem = true

/-- At every station with a job record, claims heard equals accepted + void + withdrawn + the number of entries in
the claim list (R65). -/
def JobRecord.balanced (r : JobRecord) : Prop := r.heard = r.accepted + r.void + r.withdrawn + r.claims.length

/-- The claim list is in ascending serial order, with one entry at most for a station and none outside the roster
(R65). -/
def JobRecord.claimsSound (r : JobRecord) : Prop :=
  r.claims.Pairwise (fun a b => a.serial < b.serial) ∧ (r.claims.map (·.station)).Nodup
  ∧ ∀ c ∈ r.claims, inMask r.roster c.station = true

/-- The counts balance, and the claim list is sound (R65). -/
def JobRecord.accountSound (r : JobRecord) : Prop := r.balanced ∧ r.claimsSound

/-- The account of the record held, if any, is sound (R65). -/
def State.accountSound (s : State) : Prop := ∀ r, s.jc.record = some r → r.accountSound

/-- The transmit queue holds at most 8 frames, no two of one key, at most one of them on the medium (R152, R153). -/
def Link.queueSound (lc : Link) : Prop :=
  lc.queue.length ≤ Config.queuePlaces ∧ (lc.queue.map Frame.key).Nodup ∧ (lc.queue.filter (·.started)).length ≤ 1

/-- The write gate law (R139) with what R83 and R138 add: WGATE is active only in a write revolution of a MEMBER's
copy cycle, with WPROT inactive and MOTOR and SELECT active. -/
def State.gateSound (s : State) : Prop :=
  s.dp.wgate = true →
    s.dp.wprot = false ∧ s.role = some .member ∧ s.cs.state = .write
    ∧ (s.cs.phase = some .writing ∨ s.cs.phase = some .completing)
    ∧ s.dp.motor = true ∧ s.dp.select = true

/-- The bounds of the lists and counters: history (R169), restore queue (R57), repair part of the want list (R44),
station counters (R175). -/
def State.bounded (s : State) : Prop :=
  s.pc.history.length ≤ Config.historyDepth ∧ s.du.restores.length ≤ Config.restorePlaces
  ∧ s.du.repair.length ≤ Config.repairPositions ∧ ∀ n ∈ s.lc.counters.toList, n ≤ Config.max32

/-- What every step keeps. -/
structure State.Inv (s : State) : Prop where
  memory  : s.memorySound
  account : s.accountSound
  queue   : s.lc.queueSound
  gate    : s.gateSound
  bounds  : s.bounded

end Sys2Proof.Machine
end

