-- ==== Sys2Proof/Certificates/Slice0/Obligations.lean ====
section
/-! DEFINITION. The statements for the provers. Where a command ends with the Distribution Unit's tests or with what
every frame completion is handed to the JC and the CS for, the statement names `settle` or `afterCompletion` and gives
the state they start from; other statements say what those two can do. -/

section

open Sys2Proof Sys2Proof.Machine

/-! ### Steps, power-on and start-up -/

/-- A step with a command at the front of the queue is that command's effect on the state with the rest. -/
def Obligations.StepRunsTheFrontCommand : Prop :=
  ∀ (c : Instr) (rest : List Instr) (s : State),
    step { s with pending := c :: rest } = exec c { s with pending := rest }

/-- On an empty queue 1 µs passes and nothing else changes: the model's choice (log 2). -/
def Obligations.StepOnAnEmptyQueuePassesTime : Prop :=
  ∀ s : State, s.pending = [] → step s = .next { s with now := s.now + 1 }

/-- POWER_ON leaves the power-on state with the straps' number and the line levels; waiting commands stay. -/
def Obligations.PowerOnGivesThePowerOnState : Prop :=
  ∀ (straps : StationId) (diskin wprot trk0 : Bool) (s : State),
    exec (.powerOn straps diskin wprot trk0) s = .next
      { State.reset with
        pending := s.pending
        station := straps
        dp := { State.reset.dp with diskin := diskin, wprot := wprot, trk0 := trk0 } }

/-- The reset state holds the power-on values the spec gives. -/
def Obligations.ResetHoldsThePowerOnValues : Prop :=
  State.reset.pending = []
  ∧ State.reset.jc.record = none ∧ State.reset.jc.seq = 0
  ∧ State.reset.lc.queue = [] ∧ State.reset.lc.lossCount = 0 ∧ State.reset.lc.view = none
  ∧ State.reset.lc.foreign = none
  ∧ (∀ i : StationId, State.reset.lc.presence[i] = { present := false, fitted := false, revision := 0, jobId := 0 })
  ∧ State.reset.lc.counters.toList = List.replicate 9 0
  ∧ (∀ i : Nat, State.reset.store.slot i = ⟨.free, none, 0, false, false, false, false⟩)
  ∧ (∀ t : Nat, State.reset.store.entry t = ⟨.absent, none, false⟩)
  ∧ State.reset.store.cache = [] ∧ State.reset.store.reservation = 0
  ∧ State.reset.du.need = [] ∧ State.reset.du.repair = [] ∧ State.reset.du.lost = [] ∧ State.reset.du.restores = []
  ∧ State.reset.cs.disk = ⟨none, none, false, 0, none, 0, 0, false⟩
  ∧ State.reset.cs.paused = false
  ∧ State.reset.ss = ⟨.idle, false, false, 0, none, none, none, none, none⟩
  ∧ State.reset.tb = none ∧ State.reset.vu = none
  ∧ State.reset.dp.motor = false ∧ State.reset.dp.select = false ∧ State.reset.dp.head = false
  ∧ State.reset.dp.step = false ∧ State.reset.dp.dir = false ∧ State.reset.dp.wgate = false
  ∧ State.reset.dp.lock = false ∧ State.reset.dp.ejectEnds = none ∧ State.reset.dp.cylinder = none
  ∧ State.reset.dp.spindle = ⟨none, false, 0, false, none, none⟩
  ∧ State.reset.dp.counter = none
  ∧ State.reset.pc.refusal = none ∧ State.reset.pc.history = []

/-- STORE_CLEAR_COMPLETION: of power-on, then the configuration load is under way; of a restart (which leaves no
record and an empty queue), then CALL FIRST is queued and the cycle settles by DISKIN; at other times nothing. That
the slots' bytes stay (log 4) and that a frame begun before is passed over (deaf, log 15) is the model's choice. -/
def Obligations.StoreClearCompletionEmptiesTheStore : Prop :=
  ∀ (mid : Bool) (s : State),
    (s.boot = .clearing true →
      exec (.storeClearCompletion mid) s = .next { s with store := { mem := s.store.mem }, boot := .loading })
    ∧ (s.boot = .clearing false → s.jc.record = none → s.lc.queue = [] →
      exec (.storeClearCompletion mid) s = .next
        { s with
          store := { mem := s.store.mem }
          boot := .ready
          lc := { s.lc with
            deaf := mid
            queue := [{ body := .call true s.pc.params.fitted 0, jobId := 0 }] }
          cs := match s.cs.state, s.dp.diskin with
            | .empty, true => { s.cs with state := .standby }
            | .standby, false => { s.cs with state := .empty }
            | .out, false => { s.cs with state := .empty, outcome := none }
            | _, _ => s.cs })
    ∧ (s.boot = .loading ∨ s.boot = .ready → exec (.storeClearCompletion mid) s = .next s)

/-- CONFIGURATION_LOAD_COMPLETION while the load runs (nothing is queued and no record held then): what the store
gives is in effect, CALL FIRST is queued, and the cycle settles by DISKIN; at other times nothing. That a frame begun
before is passed over (deaf) is the model's choice (log 15). Without the signature, or when the store stops answering
in the directory, every parameter has its default and recipe 0 alone is usable, as the built-in one. -/
def Obligations.ConfigurationLoadPutsTheStoreInEffect : Prop :=
  (∀ (bytes : List Byte) (mid : Bool) (s : State),
     (s.boot = .loading → s.jc.record = none → s.lc.queue = [] →
       exec (.configurationLoadCompletion bytes mid) s = .next
         { s with
           boot := .ready
           pc := { s.pc with params := (loadConfig bytes).params, directory := (loadConfig bytes).directory }
           jc := { s.jc with nextBase := (loadConfig bytes).params.serialBase }
           lc := { s.lc with
             deaf := mid
             queue := [{ body := .call true (loadConfig bytes).params.fitted 0, jobId := 0 }] }
           cs := match s.cs.state, s.dp.diskin with
             | .empty, true => { s.cs with state := .standby }
             | .standby, false => { s.cs with state := .empty }
             | .out, false => { s.cs with state := .empty, outcome := none }
             | _, _ => s.cs })
     ∧ (s.boot ≠ .loading → exec (.configurationLoadCompletion bytes mid) s = .next s))
  ∧ (∀ bytes : List Byte, bytes.head? ≠ some 0x5C ∨ bytes.length < 37 →
       (loadConfig bytes).params =
         { fitted := true, r := 2
           holdOffLimit := 6, holdOffTime := 20, wantTimeout := 40, wantAttempts := 3, restoreTimeout := 2000
           lookahead := 2, spinUpLimit := 1000, requireProt := true, wanted := 0, serialBase := 1, serialSpan := 100000 }
       ∧ (loadConfig bytes).directory[0] = some Recipe.builtIn
       ∧ ∀ k : Fin 8, k ≠ 0 → (loadConfig bytes).directory[k] = none)

/-- RESTART, once start-up has ended: what it clears and what it keeps. That the slots' bytes stay (log 4), those of
a fill it ends as they were (log 46), and the next serial base 0 where no serial has been heard (log 37) are the
model's choices. RESTART and the disk: one in the drive in SPINUP through TALLY goes to OUT with fault ABANDONED and
end cause RESTART; a pulled one waiting in TALLY is entered as PULLED and the cycle goes to EMPTY; EMPTY, STANDBY and
OUT stay. The station counters and the disk history stay, but for that disk: its entry is appended, the oldest of 8
leaving, and a rejected one is counted (R162, R169). -/
def Obligations.RestartClearsKeepsAndEndsTheDisk : Prop :=
  (∀ s : State,
     (s.boot = .ready → ∃ t : State, exec .restart s = .next t
       ∧ t.boot = .clearing false
       ∧ t.lc.queue = [] ∧ t.lc.lossCount = 0 ∧ t.lc.view = none ∧ t.lc.foreign = none
       ∧ t.jc.record = none ∧ t.jc.stopDue = false ∧ t.jc.abandonDue = [] ∧ t.du = {}
       ∧ t.cs.paused = false ∧ t.cs.disk = {} ∧ t.ss = {} ∧ t.tb = none ∧ t.vu = none
       ∧ t.dp.motor = false ∧ t.dp.select = false ∧ t.dp.head = false ∧ t.dp.step = false ∧ t.dp.dir = false
       ∧ t.dp.wgate = false ∧ t.dp.lock = false ∧ t.dp.cylinder = none ∧ t.dp.spindle = {} ∧ t.dp.counter = none
       ∧ t.dp.motion = none ∧ t.dp.qualify = none
       ∧ t.pc.flash = none ∧ t.pc.sequence = none
       ∧ t.pc.params = s.pc.params ∧ t.pc.directory = s.pc.directory ∧ t.pc.refusal = s.pc.refusal
       ∧ t.station = s.station ∧ t.lc.presence = s.lc.presence ∧ t.jc.seq = s.jc.seq
       ∧ t.dp.diskin = s.dp.diskin ∧ t.dp.wprot = s.dp.wprot ∧ t.dp.trk0 = s.dp.trk0
       ∧ t.store.mem = s.store.mem ∧ t.now = s.now ∧ t.pending = s.pending
       ∧ (∀ r, s.jc.record = some r → r.opener = s.station → r.noneHeard = false →
           t.jc.nextBase = min (r.high + 1) 4294967295)
       ∧ (∀ r, s.jc.record = some r → r.opener = s.station → r.noneHeard = true → t.jc.nextBase = 0)
       ∧ ((∀ r, s.jc.record = some r → r.opener ≠ s.station) → t.jc.nextBase = s.jc.nextBase))
     ∧ (s.boot ≠ .ready → exec .restart s = .next s))
  ∧ (∀ s : State, s.boot = .ready → let kept := if s.pc.history.length < 8 then s.pc.history else s.pc.history.drop 1
       ∃ t : State, exec .restart s = .next t
       ∧ (s.cs.state.busy = true → ¬(s.cs.state = .tally ∧ s.cs.pulled = true) →
           t.cs.state = .out ∧ t.cs.outcome = some .rejected
           ∧ t.dp.ejectEnds = some (s.dp.ejectEnds.getD (s.now + 100000))
           ∧ t.pc.history = kept ++ [
               { outcome := .rejected, serial := s.cs.disk.serial, first := some (s.cs.disk.first.getD .abandoned),
                 further := if s.cs.disk.first.isSome then min (s.cs.disk.further + 1) 255 else s.cs.disk.further,
                 verified := s.cs.disk.verified, cause := some .restart }]
           ∧ t.lc.counters = { s.lc.counters with rejected := min (s.lc.counters.rejected + 1) 4294967295 })
       ∧ (s.cs.state = .tally ∧ s.cs.pulled = true →
           t.cs.state = .empty ∧ t.dp.ejectEnds = s.dp.ejectEnds
           ∧ t.pc.history = kept ++ [
               { outcome := .pulled, serial := s.cs.disk.serial, first := s.cs.disk.first, further := s.cs.disk.further,
                 verified := s.cs.disk.verified, cause := some .restart }]
           ∧ t.lc.counters = s.lc.counters)
       ∧ (s.cs.state.busy = false →
           t.cs.state = s.cs.state ∧ t.cs.outcome = s.cs.outcome ∧ t.dp.ejectEnds = s.dp.ejectEnds
           ∧ t.pc.history = s.pc.history ∧ t.lc.counters = s.lc.counters))

/-! ### Panel -/

/-- LOAD in job state NONE with no JOB OPEN of its own queued: the checks in table order, a refusal, or the JOB OPEN
and the sequence counter's advance. LOAD elsewhere: at a paused MEMBER it clears the flag (and in STANDBY tests the
start); with a JOB OPEN of its own queued, at any other station with a record, and before start-up has ended it has
no effect. -/
def Obligations.LoadPressOpensAJobOrIsRefused : Prop :=
  (∀ (sel : Fin 8) (s : State), s.boot = .ready → s.jc.record = none → s.lc.has .jobOpen = false →
     (∀ i, inMask s.rosterNow i = true ↔ i = s.station ∨ s.lc.presence[i].present = true ∧ s.lc.presence[i].fitted = true)
     ∧ exec (.loadPress sel) s =
       let limit := min (s.jc.nextBase + s.pc.params.serialSpan - 1) 4294967295
       let refused : LoadRefusal → Result := fun why => .next { s with
         pc := { s.pc with refusal := some why, flash := some (s.now + 3000000) } }
       if s.lc.foreign.isSome then refused .rigBusy
       else match (s.pc.directory[sel]).filter fun r => r.serialsFit limit with
         | none => refused .recipeInvalid
         | some recipe =>
           if s.dp.diskin = true ∧ s.pc.params.requireProt = true ∧ s.dp.wprot = false then refused .masterNotProtected
           else if s.dp.diskin = true ∧ overfull s.rosterNow recipe.tracks s.pc.params.r = true then refused .noRoom
           else if 8 ≤ s.lc.queue.length then refused .rigBusy
           else .next { s with
             jc := { s.jc with seq := s.jc.seq + 1 }
             lc := { s.lc with queue := s.lc.queue ++ [{
               body := .jobOpen {
                 kind := if s.dp.diskin then .copy else .format
                 roster := s.rosterNow, r := s.pc.params.r, wanted := s.pc.params.wanted, base := s.jc.nextBase,
                 limit := limit, recipe := recipe }
               jobId := BitVec.ofNat 16 (s.station.val * 4096 + s.jc.seq.toNat) }] } })
  ∧ (∀ (sel : Fin 8) (s : State),
       (∀ r, s.boot = .ready → s.jc.record = some r → r.role = .member → s.cs.paused = true →
         exec (.loadPress sel) s = .next ({ s with cs := { s.cs with paused := false } }.startTest))
       ∧ (∀ r, s.boot = .ready → s.jc.record = some r → ¬(r.role = .member ∧ s.cs.paused = true) →
         exec (.loadPress sel) s = .next s)
       ∧ (s.boot = .ready → s.jc.record = none → s.lc.has .jobOpen = true → exec (.loadPress sel) s = .next s)
       ∧ (s.boot ≠ .ready → exec (.loadPress sel) s = .next s))

/-- The start test: in STANDBY with the start conditions a new disk starts, WPROT sending it to OUT as PROTECTED,
else to SPINUP with LOCK, MOTOR and SELECT and a qualify request. The start conditions are those of R78: an OPEN job,
a MEMBER not paused, copies and serials left. -/
def Obligations.StartTestTakesUpTheDisk : Prop :=
  ∀ s : State,
    (s.startConditions = true ↔ ∃ r, s.jc.record = some r ∧ r.state = .opened ∧ r.role = .member
      ∧ s.cs.paused = false ∧ (r.wanted = 0 ∨ r.accepted + r.claims.length < r.wanted)
      ∧ (r.noneHeard = true ∨ r.high < r.limit))
    ∧ (¬(s.cs.state = .standby ∧ s.startConditions = true) → s.startTest = s)
    ∧ (s.cs.state = .standby → s.startConditions = true → s.dp.wprot = false →
        s.startTest = { s with
          cs := { s.cs with state := .spinup, disk := {}, outcome := none, pulled := false, phase := none }
          dp := { s.dp with
            motor := true, select := true, lock := true, spindle := { watch := some s.now }
            qualify := some { limit := s.now + s.pc.params.spinUpLimit * 1000 } } })
    ∧ (s.cs.state = .standby → s.startConditions = true → s.dp.wprot = true →
        s.startTest.cs.state = .out ∧ s.startTest.cs.outcome = some .rejected
        ∧ s.startTest.cs.disk = { first := some .protected_ } ∧ s.startTest.dp.lock = false
        ∧ s.startTest.dp.motor = s.dp.motor ∧ s.startTest.lc.queue = s.lc.queue
        ∧ s.startTest.dp.ejectEnds = some (s.dp.ejectEnds.getD (s.now + 100000)))

/-- A brief STOP press: JOB STOP at the opener in OPEN, entered or held in reserve; the paused flag at another
MEMBER, with a CLAIM not started withdrawn; else nothing. Model's choices: that a press with the flag already set
does the same (log 55), and that a pulled disk waiting on the CLAIM withdrawn is entered as PULLED (log 9). A held
STOP press: JOB ABANDON OPERATOR at a roster station not departed with none of its own queued, entered or held in
reserve; else nothing. That a JOB ABANDON the queue refuses joins a list of held reasons, each once and in the order
they arose, is the model's choice (log 12). -/
def Obligations.StopPressesStopPauseOrAbandon : Prop :=
  (∀ s : State,
     (∀ r, s.boot = .ready → s.jc.record = some r → r.opener = s.station → r.state = .opened →
       s.lc.has .jobStop = false →
       (s.lc.queue.length < 8 → exec .stopBriefPress s = .next
         { s with
           jc := { s.jc with stopDue := false }
           lc := { s.lc with queue := s.lc.queue ++ [{ body := .jobStop, jobId := r.jobId }] } })
       ∧ (8 ≤ s.lc.queue.length → exec .stopBriefPress s = .next { s with jc := { s.jc with stopDue := true } }))
     ∧ (∀ r, s.boot = .ready → s.jc.record = some r → r.opener = s.station →
       r.state = .draining ∨ s.lc.has .jobStop = true → exec .stopBriefPress s = .next s)
     ∧ (∀ r, s.boot = .ready → s.jc.record = some r → r.opener ≠ s.station → r.role = .member →
       (s.lc.waiting .claim = false → exec .stopBriefPress s = .next { s with cs := { s.cs with paused := true } })
       ∧ (s.lc.waiting .claim = true → s.cs.state = .claim → ∃ t : State, exec .stopBriefPress s = .next t
           ∧ t.cs.paused = true ∧ t.cs.state = .standby ∧ t.dp.motor = false ∧ t.dp.select = false ∧ t.dp.lock = false
           ∧ t.jc = s.jc ∧ t.store = s.store ∧ t.du = s.du ∧ t.ss = s.ss
           ∧ t.lc.queue = s.lc.queue.filter (fun f => !decide (f.key = .claim) || f.started))
       ∧ (s.lc.waiting .claim = true → s.cs.state = .tally → s.cs.pulled = true → s.cs.outcome = none →
         ∃ t : State, exec .stopBriefPress s = .next t
           ∧ t.cs = { s.cs with paused := true, state := .empty, outcome := none, pulled := false }
           ∧ t.pc = { s.pc with history := (if s.pc.history.length < 8 then s.pc.history else s.pc.history.drop 1) ++ [
               { outcome := .pulled, serial := s.cs.disk.serial, first := s.cs.disk.first
                 further := s.cs.disk.further, verified := s.cs.disk.verified, cause := none }] }
           ∧ t.jc = s.jc ∧ t.store = s.store ∧ t.du = s.du ∧ t.ss = s.ss ∧ t.dp = s.dp
           ∧ t.lc.queue = s.lc.queue.filter (fun f => !decide (f.key = .claim) || f.started)))
     ∧ (∀ r, s.boot = .ready → s.jc.record = some r → r.opener ≠ s.station → r.role ≠ .member →
       exec .stopBriefPress s = .next s)
     ∧ (s.boot ≠ .ready ∨ s.jc.record = none → exec .stopBriefPress s = .next s))
  ∧ (∀ s : State,
       (∀ r, s.boot = .ready → s.jc.record = some r → inMask r.roster s.station = true →
         inMask r.departed s.station = false → s.lc.has .jobAbandon = false →
         (s.lc.queue.length < 8 → exec .stopHeld s = .next
           { s with lc := { s.lc with queue := s.lc.queue ++ [{ body := .jobAbandon .operator, jobId := r.jobId }] } })
         ∧ (8 ≤ s.lc.queue.length → exec .stopHeld s = .next
           { s with jc := { s.jc with abandonDue :=
             if AbandonReason.operator ∈ s.jc.abandonDue then s.jc.abandonDue else s.jc.abandonDue ++ [.operator] } }))
       ∧ (∀ r, s.boot = .ready → s.jc.record = some r →
         (inMask r.roster s.station = false ∨ inMask r.departed s.station = true ∨ s.lc.has .jobAbandon = true) →
         exec .stopHeld s = .next s)
       ∧ (s.boot ≠ .ready ∨ s.jc.record = none → exec .stopHeld s = .next s))

/-- The ends of the refusal flash and of the abandon sequence, whose length is its count of flashes at 0.5 s each and
1 s dark. That each command brings the clock to its timer's end (now) is the model's choice (log 2). The lamps (R95,
R108, R119, R163, R168): dark until the configuration load of power-on; RED flashing for a refusal, else steady for a
rejected disk; GREEN for an accepted one; AMBER the abandon sequence, else what the port's user calls for. In ENDING
with no record, or at an OBSERVER of the next job, AMBER is off, also in STANDBY: the model's choice (log 21). -/
def Obligations.PanelEffectsEnd : Prop :=
  (∀ s : State,
     (∀ e, s.pc.flash = some e → exec .refusalFlashEnd s = .next
       { s with now := max s.now e, pc := { s.pc with flash := none } })
     ∧ (s.pc.flash = none → exec .refusalFlashEnd s = .next s)
     ∧ (∀ reason start, s.pc.sequence = some (reason, start) →
       exec .abandonSequenceEnd s = .next
         { s with
           now := max s.now (start + (match reason with
             | .operator => 1
             | .masterUnreadable => 2
             | .masterMisfit => 3
             | .masterRemoved => 4
             | .trackLost => 5
             | .sourceLost => 6) * 500000 + 1000000)
           pc := { s.pc with sequence := none } })
     ∧ (s.pc.sequence = none → exec .abandonSequenceEnd s = .next s))
  ∧ (∀ s : State,
       (s.boot = .clearing true ∨ s.boot = .loading → s.amber = .off ∧ s.green = .off ∧ s.red = .off)
       ∧ (s.boot = .clearing false ∨ s.boot = .ready →
         s.green = (if s.cs.state = .out ∧ s.cs.outcome = some .accepted then .steady else .off)
         ∧ s.red = (if s.pc.flash.isSome then .flashing
             else if s.cs.state = .out ∧ s.cs.outcome = some .rejected then .steady else .off)
         ∧ (∀ reason start, s.pc.sequence = some (reason, start) →
             s.amber = if s.now < start + reason.flashes * 500000 then .flashing else .off)
         ∧ (s.pc.sequence = none →
           (s.role = some .source → s.amber = if s.ss.state = .idle ∨ s.ss.state = .ending then .off else .steady)
           ∧ (s.role ≠ some .source → s.role ≠ some .member → s.ss.state = .ending → s.amber = .off)
           ∧ (s.role = some .member ∨ s.role ≠ some .source ∧ s.ss.state ≠ .ending →
             s.amber = match s.cs.state with
               | .empty => .off
               | .standby => if s.startConditions then .off else .flashing
               | .out => .off
               | _ => .steady))))

/-! ### Sending -/

/-- The frame picked is the oldest of the lowest class among the frames that may be started (R154). The transmit
queue takes a frame with no duplicate while it has a place for its class, else refuses it without effect; a frame
that leaves takes the loss count with it if the count is its own. A frame withdrawn (R154) leaves the queue unless it
has started, and the loss count goes with it if the frame it counts for is no longer there (R155). -/
def Obligations.QueueTakesFramesAndOffersTheLowestClass : Prop :=
  (∀ (s : State) (f : Frame), s.pick = some f →
     f ∈ s.lc.queue ∧ s.mayStart f = true
     ∧ (∀ g ∈ s.lc.queue, s.mayStart g = true → f.body.cls ≤ g.body.cls)
     ∧ (s.lc.queue.filter fun g => s.mayStart g && decide (g.body.cls = f.body.cls)).head? = some f)
  ∧ (∀ s : State,
       (∀ (b : Body) (j : JobId),
         let places := if b.cls < 4 then 8 else 6
         (s.boot = .ready → s.lc.has b.key = false → s.lc.queue.length < places →
           s.enter b j = { s with lc := { s.lc with queue := s.lc.queue ++ [{ body := b, jobId := j }] } })
         ∧ (s.boot ≠ .ready ∨ s.lc.has b.key = true ∨ places ≤ s.lc.queue.length → s.enter b j = s))
       ∧ ∀ k : FrameKey, (∀ l, s.lc.lossFor = some l → s.lc.has l = true) →
         s.dequeue k = { s with lc := { s.lc with
           queue := s.lc.queue.filter fun f => !decide (f.key = k)
           lossCount := if s.lc.lossFor = some k then 0 else s.lc.lossCount
           lossFor := if s.lc.lossFor = some k then none else s.lc.lossFor } })
  ∧ (∀ (s : State) (k : FrameKey),
       let left := s.lc.queue.filter fun g => !decide (g.key = k) || g.started
       let gone := ∃ l, s.lc.lossFor = some l ∧ ∀ g ∈ left, g.key ≠ l
       (gone → s.withdrawKey k = { s with lc := { s.lc with queue := left, lossCount := 0, lossFor := none } })
       ∧ (¬gone → s.withdrawKey k = { s with lc := { s.lc with queue := left } }))

/-- ARBITRATION_START and JOIN_START with no own frame on the medium start the frame picked: a RELEASE from a slot
takes the link pin, a CALL ANSWER is filled now, a RELEASE of a track not held here leaves the queue. That the idle
gap ends the passing over of a frame (deaf) is the model's choice (log 15). With no frame to offer nothing starts. A
RELEASE picked whose track is not held here is withdrawn whoever it comes from, its block acts (an answer ends; a
restore from the store joins the restore queue, which SERVE takes up; the Source Sequencer serves the restore again
or reads the track again, after its abandon it does neither), and the next frame is picked in its place, until one
starts or none is left. That such a pick leaves the loss count of another frame is the model's choice (log 63). -/
def Obligations.ArbitrationStartsTheFramePicked : Prop :=
  (∀ (s : State) (f : Frame) (c : Instr), (c = .arbitrationStart ∨ c = .joinStart) →
     s.boot = .ready → s.lc.sending = none → s.pick = some f →
     let counts : Prop := f.key = .holdOff ∨ s.lc.lossFor = some f.key
     (∀ keeps : Bool, (keeps = true ↔ counts) →
       let started : State := { s with lc := { s.lc with
         deaf := false
         queue := s.lc.queue.map fun g => if g.key = f.key then { g with started := true } else g
         lossCount := if keeps then s.lc.lossCount else 0
         lossFor := if keeps then s.lc.lossFor else none } }
       ((∀ t reason o z n w, f.body ≠ .release t .good reason o z n w) → (∀ a j, f.body ≠ .call false a j) →
         exec c s = .next started)
       ∧ (∀ t reason o z n w i, f.body = .release t .good reason o z n w → s.store.heldSlot t = some i →
         exec c s = .next { started with store := s.store.setSlot i { s.store.slot i with linkPin := true } })
       ∧ (∀ a j, f.body = .call false a j →
         exec c s = .next { started with lc := { started.lc with
           queue := s.lc.queue.map fun g => if g.key = f.key then
             { g with
               started := true
               body := .call false s.pc.params.fitted ((s.jc.record.map (·.jobId)).getD 0) } else g } }))
     ∧ (∀ t reason z n w, f.body = .release t .good reason .answer z n w → s.store.heldSlot t = none →
         s.lc.queue = [f] → ∃ t : State, exec c s = .next t ∧ t.lc.queue = [] ∧ t.store = s.store ∧ t.jc = s.jc))
  ∧ ((∀ (s : State) (c : Instr), (c = .arbitrationStart ∨ c = .joinStart) →
       let ready : State := { s with lc := { s.lc with deaf := false } }
       (s.boot ≠ .ready → exec c s = .next s)
       ∧ (s.boot = .ready → s.lc.sending ≠ none → exec c s = .next ready)
       ∧ (s.boot = .ready → s.lc.sending = none → s.pick = none → exec c s = .next ready)
       ∧ (s.boot = .ready → s.lc.sending = none → exec c s = .next (State.offer 16 ready)))
     ∧ (∀ (fuel : Nat) (s : State),
       (s.pick = none → State.offer (fuel + 1) s = s)
       ∧ (∀ f, s.pick = some f → (∀ t reason o z n w, f.body = .release t .good reason o z n w → s.held t = true) →
         State.offer (fuel + 1) s = State.offer 16 s))
     ∧ ∀ (fuel : Nat) (s : State) (f : Frame) (t : Nat) (reason : ReleaseReason) (o : ReleaseOrigin) (z n : Nat)
         (w : CheckWord), s.pick = some f → f.body = .release t .good reason o z n w → s.store.heldSlot t = none →
       let out := s.dequeue (.release t reason)
       let off := out.releaseDrivePin
       (o = .answer → State.offer (fuel + 1) s = State.offer fuel out)
       ∧ (o = .duRestore → State.offer (fuel + 1) s = State.offer fuel (out.queueRestore t).serveAppended)
       ∧ (o = .source → s.ss.abandon ≠ none → State.offer (fuel + 1) s = State.offer fuel off.repairFeed)
       ∧ (o = .source → s.ss.abandon = none →
         (reason = .restore → State.offer (fuel + 1) s = State.offer fuel (off.serve t).repairFeed)
         ∧ (reason ≠ .restore → State.offer (fuel + 1) s = State.offer fuel
           (State.startRead t { off with ss := { off.ss with state := .read } }).repairFeed)))

/-- While the hold-off view names another station, no frame of class 2 to 7 is started, one of class 0 or 1 that is
queued still is, and every frame keeps its place (R157). -/
def Obligations.HeldOffStationStartsNoFrameOfClass2To7 : Prop :=
  ∀ (s t : State) (v : HoldView) (c : Instr), (c = .arbitrationStart ∨ c = .joinStart) →
    s.lc.view = some v → v.holder ≠ s.station → exec c s = .next t →
    t.lc.queue.map Frame.key = s.lc.queue.map Frame.key
    ∧ (∀ g ∈ t.lc.queue, g.started = true → g.body.cls ≤ 1 ∨ ∃ g0 ∈ s.lc.queue, g0.started = true ∧ g0.key = g.key)
    ∧ (s.boot = .ready → s.lc.sending = none → (∃ g ∈ s.lc.queue, g.body.cls ≤ 1) →
      ∃ g ∈ t.lc.queue, g.started = true ∧ g.body.cls ≤ 1)

/-- ARBITRATION_LOSS: the frame on the medium keeps its place, its loss is counted up to the limit (none for a
HOLD-OFF), a link pin is released, and a CLAIM or a JOB CLOSE is filled again; with no own frame nothing happens. A
CLAIM queued and not on the medium is filled again from the high mark, or withdrawn when the claim conditions (R62:
an OPEN job, not paused, copies and serials left) fail, the cycle in CLAIM going back to STANDBY (R64). A pulled disk
that waits on it is then entered as PULLED with no serial: the model's choice (log 9). -/
def Obligations.ArbitrationLossKeepsTheFrame : Prop :=
  (∀ s : State,
     (s.lc.sending = none → exec .arbitrationLoss s = .next s)
     ∧ ∀ f, s.lc.sending = some f →
       let stopped : State := { s with lc := { s.lc with
         queue := s.lc.queue.map fun g => if g.key = f.key then { g with started := false } else g } }
       let counted : State := { stopped with lc := { stopped.lc with
         lossCount := min (s.lc.lossCount + 1) s.pc.params.holdOffLimit, lossFor := some f.key } }
       (f.key = .holdOff → exec .arbitrationLoss s = .next ((stopped.releaseLinkPin).settle s))
       ∧ (f.key ≠ .holdOff → f.key ≠ .claim → f.key ≠ .jobClose →
         exec .arbitrationLoss s = .next ((counted.holdOffTest.releaseLinkPin).settle s))
       ∧ (f.key = .claim → exec .arbitrationLoss s = .next (((counted.holdOffTest.releaseLinkPin).claimRefill).settle s))
       ∧ (f.key = .jobClose →
         exec .arbitrationLoss s = .next (((counted.holdOffTest.releaseLinkPin).refillClose.closeLapse).settle s)))
  ∧ (∀ (s : State) (r : JobRecord), s.jc.record = some r →
       (s.claimConditions = true ↔ r.state = .opened ∧ s.cs.paused = false
         ∧ (r.wanted = 0 ∨ r.accepted + r.claims.length < r.wanted) ∧ (r.noneHeard = true ∨ r.high < r.limit))
       ∧ (s.lc.waiting .claim = false → s.claimRefill = s)
       ∧ (s.lc.waiting .claim = true → s.claimConditions = true →
           s.claimRefill = { s with lc := { s.lc with queue := s.lc.queue.map fun g =>
             if g.key = .claim then
               { g with body := .claim (if r.noneHeard then 0 else r.high + 1) r.high } else g } })
       ∧ (s.lc.waiting .claim = true → s.claimConditions = false → s.cs.state = .claim →
           (s.claimRefill.lc.queue = s.lc.queue.filter fun g => !decide (g.key = .claim) || g.started)
           ∧ s.claimRefill.jc = s.jc ∧ s.claimRefill.store = s.store
           ∧ (s.claimRefill.cs.state = .standby ∧ s.claimRefill.dp.motor = false ∧ s.claimRefill.dp.lock = false
               ∨ s.startConditions = true))
       ∧ (s.lc.waiting .claim = true → s.claimConditions = false → s.cs.state ≠ .claim →
           let gone := s.withdrawKey .claim
           (s.cs.state = .tally → s.cs.pulled = true → s.cs.outcome = none → s.claimRefill = { gone with
             cs := { s.cs with state := .empty, outcome := none, pulled := false }
             pc := { s.pc with history := (if s.pc.history.length < 8 then s.pc.history else s.pc.history.drop 1) ++ [
               { outcome := .pulled, serial := s.cs.disk.serial, first := s.cs.disk.first, further := s.cs.disk.further
                 verified := s.cs.disk.verified, cause := none }] } })
           ∧ (s.cs.state ≠ .tally ∨ s.cs.pulled = false ∨ s.cs.outcome ≠ none → s.claimRefill = gone)))

/-- SEND_FAULT: counted, the link pin released, the frame off the medium. It keeps its place with one more fault, a
JOB CLOSE whose conditions have lapsed being withdrawn (R11); at its fourth it leaves the queue, and its block acts:
a LOAD ends with RIG BUSY, a WANT's entry goes to UNSENT, the Source Sequencer's JOB ABANDON and RELEASE and a CALL
FIRST come again, a pulled disk that waited on its CLAIM is entered in the history. Model's choices: a JOB STOP, a
CALL ANSWER and a REPLY are not entered again (log 8), a late RIG BUSY is the last refusal (log 13), the pulled
disk's end (log 9), a CALL FIRST that the queue then refuses is given up (log 44). -/
def Obligations.SendFaultKeepsOrDropsTheFrame : Prop :=
  ∀ s : State,
    (s.lc.sending = none → exec .sendFault s = .next s)
    ∧ ∀ f, s.lc.sending = some f →
      let stopped : State := { s with lc := { s.lc with
        counters := { s.lc.counters with sendFaults := min (s.lc.counters.sendFaults + 1) 4294967295 }
        queue := s.lc.queue.map fun g => if g.key = f.key then { g with started := false } else g } }
      let kept := stopped.releaseLinkPin
      let out := kept.dequeue f.key
      let again : State := { kept with lc := { kept.lc with
        queue := kept.lc.queue.map fun g => if g.key = f.key then { g with faults := g.faults + 1 } else g } }
      (f.faults < 3 →
        (f.key ≠ .jobClose → exec .sendFault s = .next (again.settle s))
        ∧ (f.key = .jobClose → exec .sendFault s = .next (again.closeLapse.settle s)))
      ∧ (3 ≤ f.faults →
        (∀ terms, f.body = .jobOpen terms → exec .sendFault s = .next (State.settle
          { out with pc := { out.pc with refusal := some .rigBusy, flash := some (out.now + 3000000) } } s))
        ∧ (∀ reason, f.body = .jobAbandon reason →
          (s.ss.abandon = some reason → exec .sendFault s = .next ((out.enterAbandon reason).settle s))
          ∧ (s.ss.abandon ≠ some reason → exec .sendFault s = .next (out.settle s)))
        ∧ (∀ v c, f.body = .claim v c →
          (¬(s.cs.state = .tally ∧ s.cs.pulled = true ∧ s.cs.outcome = none) →
            exec .sendFault s = .next (out.settle s))
          ∧ (s.cs.state = .tally → s.cs.pulled = true → s.cs.outcome = none →
            exec .sendFault s = .next ((out.leavePulled .pulled none).settle s)))
        ∧ (∀ t a restore, f.body = .want t a restore → exec .sendFault s = .next (State.settle
          { out with du := out.du.update t fun w =>
            if w.phase = .queued then
              { w with phase := .unsent, deadline := some (out.now + out.pc.params.wantTimeout * 1000) }
            else w } s))
        ∧ (∀ t status reason z n w, f.body = .release t status reason .source z n w →
          exec .sendFault s = .next ((out.enterRelease ⟨t, status, reason⟩).settle s))
        ∧ (∀ a j, f.body = .call true a j →
          exec .sendFault s = .next ((out.enter (.call true out.pc.params.fitted 0) 0).settle s))
        ∧ (f.body = .holdOff ∨ f.body = .jobStop ∨ f.key = .jobClose ∨ f.key = .tally ∨ f.key = .call false
            ∨ (∃ p o, f.key = .reply p o)
            ∨ (∃ t status reason o z n w, f.body = .release t status reason o z n w ∧ o ≠ .source) →
          exec .sendFault s = .next (out.settle s)))

/-- RELEASE_CUT_OFF: the check of the slot sent is applied after its last data byte, with the bytes that have changed
of themselves (log 35). With a check that agrees and a slot not damaged the frame goes on. Else the slot is marked
damaged, the frame leaves the queue, the link pin is released; an answer ends there, a restore from the store goes to
the restore queue, and the Source Sequencer reads its track again, or gives up at the second damage of one track;
after its abandon it does neither (log 18). That the check is applied at this command is the model's choice (log 35).
A slot is marked damaged once, and counted. Without pins it is freed at once: its entry ABSENT, and a HOME track back
on the repair list with the reservation up by 1. With a pin it stays until the pin is released. The pins: a path
releases the pin of the slot it has pinned, an unpinned CACHE slot goes to the tail of the cache order list (R25,
R33, R34), a closing one that keeps its other pin too: that it is still on the list is the model's choice (log 38);
and a slot that is damaged or free pending is freed at its last pin: FREE, its entry ABSENT, off the list, a damaged
HOME slot's track back on the repair list (R37, R38). A request to free one that is pinned marks it free pending. -/
def Obligations.DamageCutsTheReleaseOffAndFreesTheSlot : Prop :=
  (∀ (u : Upset) (s : State),
     (s.lc.sending = none → exec (.releaseCutOff u) s = .next s)
     ∧ (∀ f, s.lc.sending = some f → (∀ t reason o z n w, f.body ≠ .release t .good reason o z n w) →
       exec (.releaseCutOff u) s = .next (s.settle s))
     ∧ ∀ f t reason o z n w i r, s.lc.sending = some f → f.body = .release t .good reason o z n w →
       s.store.linkPinned = some i → s.jc.record = some r →
       let read : State := { s with store := s.store.upset i u }
       let fails := (s.store.slot i).damaged = true
         ∨ crc32 (read.store.trackData r.recipe i) ≠ (s.store.slot i).check
       let found := ((read.markDamaged i).dequeue f.key).releaseLinkPin
       let off := found.releaseDrivePin
       (¬fails → exec (.releaseCutOff u) s = .next (read.settle s))
       ∧ (fails →
         (o = .answer → exec (.releaseCutOff u) s = .next (found.settle s))
         ∧ (o = .duRestore → exec (.releaseCutOff u) s = .next (((found.queueRestore t).serveAppended).settle s))
         ∧ (o = .source → s.ss.abandon ≠ none → exec (.releaseCutOff u) s = .next (off.settle s))
         ∧ (o = .source → s.ss.abandon = none →
           (s.ss.reread = some t → reason = .restore → exec (.releaseCutOff u) s =
             .next ((off.enterRelease ⟨t, .lost, .restore⟩).settle s))
           ∧ (s.ss.reread = some t → reason ≠ .restore → exec (.releaseCutOff u) s =
             .next ((off.sourceAbandon .masterUnreadable).settle s))
           ∧ (s.ss.reread ≠ some t → reason = .restore → exec (.releaseCutOff u) s =
             .next ((State.serve t { off with ss := { off.ss with reread := some t } }).settle s))
           ∧ (s.ss.reread ≠ some t → reason ≠ .restore → exec (.releaseCutOff u) s =
             .next ((State.startRead t { off with ss := { off.ss with state := .read, reread := some t } }).settle s)))))
  ∧ (∀ (s : State) (i t : Nat), i < 64 → t < 168 → (s.store.slot i).track = some t →
       (s.store.slot i).damaged = false →
       (s.markDamaged i).lc.counters =
         { s.lc.counters with damaged := min (s.lc.counters.damaged + 1) 4294967295 }
       ∧ ((s.store.slot i).pins ≠ 0 → (s.markDamaged i).store.slot i = { s.store.slot i with damaged := true }
         ∧ (s.markDamaged i).jc = s.jc)
       ∧ ((s.store.slot i).pins = 0 →
         (s.markDamaged i).store.slot i = {}
         ∧ (s.markDamaged i).store.entry t = { s.store.entry t with presence := .absent, slot := none }
         ∧ (s.markDamaged i).store.cache = s.store.cache.erase i
         ∧ ((s.store.slot i).state = .home →
           (s.markDamaged i).store.reservation = s.store.reservation + 1
           ∧ ∀ r, s.jc.record = some r →
             (s.markDamaged i).jc.record = some { r with repair := insertTrack t r.repair })
         ∧ ((s.store.slot i).state ≠ .home →
           (s.markDamaged i).store.reservation = s.store.reservation ∧ (s.markDamaged i).jc = s.jc)))
  ∧ (∀ (s : State) (i : Nat), i < 64 →
       let e := s.store.slot i
       let closing := e.damaged = true ∨ e.freePending = true
       let freed (u : State) (t : Nat) : Prop :=
         u.store.slot i = {} ∧ (∀ j, j ≠ i → u.store.slot j = s.store.slot j)
         ∧ u.store.entry t = { s.store.entry t with presence := .absent, slot := none }
         ∧ (∀ x, x ≠ t → u.store.entry x = s.store.entry x)
         ∧ u.store.cache = s.store.cache.erase i ∧ u.store.mem = s.store.mem ∧ u.store.allowance = s.store.allowance
         ∧ (e.damaged = true → e.state = .home → u.store.reservation = s.store.reservation + 1
           ∧ u.jc = { s.jc with record := s.jc.record.map fun r => { r with repair := insertTrack t r.repair } })
         ∧ (e.damaged = false ∨ e.state ≠ .home → u.store.reservation = s.store.reservation ∧ u.jc = s.jc)
         ∧ u.lc = s.lc ∧ u.du = s.du ∧ u.cs = s.cs ∧ u.ss = s.ss ∧ u.dp = s.dp
       let left (x : Slot) : State := { s with store := { s.store.setSlot i x with
         cache := if e.state = .cache then s.store.cache.erase i ++ [i] else s.store.cache } }
       (¬closing ∨ e.drivePin = true ∨ e.linkPin = true → s.freeIfClosing i = s)
       ∧ (∀ t, t < 168 → e.track = some t → e.drivePin = false → e.linkPin = false →
         (closing → freed (s.freeIfClosing i) t) ∧ freed (s.requestFree i) t)
       ∧ (e.drivePin = true ∨ e.linkPin = true →
         s.requestFree i = { s with store := s.store.setSlot i { e with freePending := true } })
       ∧ (s.store.drivePinned = some i ↔ e.drivePin = true ∧ ∀ j < i, (s.store.slot j).drivePin = false)
       ∧ (s.store.linkPinned = some i ↔ e.linkPin = true ∧ ∀ j < i, (s.store.slot j).linkPin = false)
       ∧ (s.store.drivePinned = none → s.releaseDrivePin = s) ∧ (s.store.linkPinned = none → s.releaseLinkPin = s)
       ∧ (s.store.drivePinned = some i →
         (¬closing ∨ e.linkPin = true → s.releaseDrivePin = left { e with drivePin := false })
         ∧ (closing → e.linkPin = false → s.releaseDrivePin = (left { e with drivePin := false }).freeIfClosing i))
       ∧ (s.store.linkPinned = some i →
         (¬closing ∨ e.drivePin = true → s.releaseLinkPin = left { e with linkPin := false })
         ∧ (closing → e.drivePin = false → s.releaseLinkPin = (left { e with linkPin := false }).freeIfClosing i)))

/-- FRAME_BREAK: a frame that ends in a break or fails a check of R158 (a kind not listed, a kind of another class, a
body above 12,400 bytes, a break, a frame check that differs) is counted, and its fill freed; the bytes that had
arrived are in the slot (R30). A frame that passes is left to its completion; one that began before start-up ended is
passed over. Model's choices: which of several fills ends, and that a discarded frame of another kind ends one (log
11); the frame passed over (log 15). A frame that completes before start-up has ended, or that began before (the
model's choice, log 15), has no effect; one whose body fails the tests of R172 is counted as bad. That it ends a fill
in progress is the model's choice (log 11). The tests of R172 on a body: a length that is not its kind's, or a code
that is not listed, and it is no body of that kind. That a flag byte above 1 is such a code is the model's reading
(log 11). -/
def Obligations.FrameThatFailsItsChecksIsCounted : Prop :=
  (∀ (cls : Fin 8) (bytes : List Byte) (broke : Bool) (s : State),
     (receivePasses cls bytes broke = true ↔
       byteAt bytes 0 ∈ [0x01, 0x11, 0x12, 0x13, 0x14, 0x21, 0x31, 0x41, 0x51, 0x61, 0x71, 0x72]
       ∧ (byteAt bytes 0).toNat / 16 = cls.val ∧ beAt bytes 3 2 ≤ 12400 ∧ broke = false
       ∧ bytes.length = beAt bytes 3 2 + 9
       ∧ crc32 (bytes.take (beAt bytes 3 2 + 5)) = BitVec.ofNat 32 (beAt bytes (beAt bytes 3 2 + 5) 4))
     ∧ (s.boot ≠ .ready → exec (.frameBreak cls bytes broke) s = .next s)
     ∧ (s.boot = .ready → s.lc.deaf = true →
       exec (.frameBreak cls bytes broke) s = .next { s with lc := { s.lc with deaf := false } })
     ∧ (s.boot = .ready → s.lc.deaf = false →
       (receivePasses cls bytes broke = true → exec (.frameBreak cls bytes broke) s = .next s)
       ∧ (receivePasses cls bytes broke = false →
         let body := if byteAt bytes 0 = 0x51 then (bytes.drop 5).take (beAt bytes 3 2) else []
         let counted : State := { s with lc := { s.lc with counters :=
           { s.lc.counters with badFrames := min (s.lc.counters.badFrames + 1) 4294967295 } } }
         (s.store.fills = [] → exec (.frameBreak cls bytes broke) s = .next (counted.settle s))
         ∧ (∀ i r, s.store.brokenFill body = some i → s.jc.record = some r →
           exec (.frameBreak cls bytes broke) s = .next (State.settle { counted with store :=
             { (Store.fillSectors r.recipe i none
                 (arrivedSectors r.recipe.size r.recipe.sectors (body.drop 9)) s.store).freeSlot i with
               fills := s.store.fills.erase i } } s))))
     ∧ (∀ (t : Byte) (rest : List Byte) (i : Nat), s.store.fillOf t.toNat = some i →
       s.store.brokenFill (t :: rest) = some i)
     ∧ (∀ (t : Byte) (rest : List Byte), s.store.fillOf t.toNat = none →
       s.store.brokenFill (t :: rest) = s.store.fills.head?)
     ∧ s.store.brokenFill [] = s.store.fills.head?)
  ∧ (∀ (f : Rx) (s : State),
       (s.boot ≠ .ready → ∀ c ∈ [Instr.holdOff f, .jobOpen f, .jobStop f, .jobClose f, .jobAbandon f, .want f,
         .callAnswer f, .query f, .reply f], exec c s = .next s)
       ∧ (s.boot = .ready → s.lc.deaf = true → ∀ c ∈ [Instr.holdOff f, .jobOpen f, .jobStop f, .jobClose f,
         .jobAbandon f, .want f, .callAnswer f, .query f, .reply f],
         exec c s = .next { s with lc := { s.lc with deaf := false } })
       ∧ (s.boot ≠ .ready → ∀ c ∈ [Instr.claim f, .tally f, .callFirst f, .release f],
         exec c s = .next (s.settle s))
       ∧ (s.boot = .ready → s.lc.deaf = true → ∀ c ∈ [Instr.claim f, .tally f, .callFirst f, .release f],
         exec c s = .next (State.settle { s with lc := { s.lc with deaf := false } } s))
       ∧ (s.receives →
         let counted : State := { s with lc := { s.lc with counters :=
           { s.lc.counters with badFrames := min (s.lc.counters.badFrames + 1) 4294967295 } } }
         let discarded : State := { counted with store := match s.store.fills with
           | i :: rest => { s.store.freeSlot i with fills := rest }
           | [] => s.store }
         (∀ c, (c = .holdOff f ∧ f.body.length ≠ 0) ∨ (c = .jobOpen f ∧ parseOpen f.body = none)
           ∨ (c = .jobStop f ∧ parseStop f.body = none) ∨ (c = .jobClose f ∧ f.body.length ≠ 17)
           ∨ (c = .jobAbandon f ∧ parseAbandon f.body = none) ∨ (c = .want f ∧ parseWant f.body = none)
           ∨ (c = .callAnswer f ∧ parseCall f.body = none) ∨ (c = .query f ∧ parseQuery f.body = none)
           ∨ (c = .reply f ∧ parseReply f.body = none) → exec c s = .next discarded)
         ∧ (∀ c, (c = .claim f ∧ f.body.length ≠ 8) ∨ (c = .tally f ∧ parseTally f.body = none)
           ∨ (c = .callFirst f ∧ parseCall f.body = none) → exec c s = .next (discarded.settle s))
         ∧ (parseRelease f.body = none → s.ownCheckFails f.sender = false →
           (s.store.fills = [] → exec (.release f) s = .next (counted.settle s))
           ∧ (∀ i r, s.store.brokenFill f.body = some i → s.jc.record = some r →
             exec (.release f) s = .next (State.settle { counted with store :=
               { (Store.fillSectors r.recipe i none
                   (arrivedSectors r.recipe.size r.recipe.sectors (f.body.drop 9)) s.store).freeSlot i with
                 fills := s.store.fills.erase i } } s)))))
  ∧ (∀ bs : List Byte,
       ((parseOpen bs).isSome = true ↔ bs.length = 87 ∧ (byteAt bs 0 = 1 ∨ byteAt bs 0 = 2))
       ∧ ((parseStop bs).isSome = true ↔ bs.length = 2 ∧ byteAt bs 1 = 1)
       ∧ ((parseClose bs).isSome = true ↔ bs.length = 17)
       ∧ ((parseAbandon bs).isSome = true ↔ bs.length = 2 ∧ 1 ≤ (byteAt bs 1).toNat ∧ (byteAt bs 1).toNat ≤ 6)
       ∧ ((parseClaim bs).isSome = true ↔ bs.length = 8)
       ∧ ((parseTally bs).isSome = true ↔ bs.length = 9 ∧ 1 ≤ (byteAt bs 0).toNat ∧ (byteAt bs 0).toNat ≤ 3
         ∧ (byteAt bs 1).toNat ≤ 1 ∧ (byteAt bs 6).toNat ≤ 14)
       ∧ ((parseWant bs).isSome = true ↔ bs.length = 3 ∧ (byteAt bs 2).toNat ≤ 1)
       ∧ ((parseRelease bs).isSome = true ↔ 9 ≤ bs.length ∧ 1 ≤ (byteAt bs 2).toNat ∧ (byteAt bs 2).toNat ≤ 3
         ∧ (byteAt bs 1 = 1 ∧ bs.length = 9 + (byteAt bs 4).toNat * (1 + 128 * 2 ^ (byteAt bs 3).toNat)
           ∨ byteAt bs 1 = 2 ∧ bs.length = 9))
       ∧ ((parseCall bs).isSome = true ↔ bs.length = 5 ∧ (byteAt bs 0 = 1 ∨ byteAt bs 0 = 2) ∧ (byteAt bs 1).toNat ≤ 1)
       ∧ ((parseQuery bs).isSome = true ↔ bs.length = 7 ∧ (byteAt bs 6).toNat ≤ 1)
       ∧ ((parseReply bs).isSome = true ↔ 4 ≤ bs.length ∧ bs.length ≤ 260 ∧ 1 ≤ (byteAt bs 3).toNat
         ∧ (byteAt bs 3).toNat ≤ 3))

/-- The bytes of a queued frame, as they go on the medium, pass the receive checks of R158 at every station. -/
def Obligations.SentFramesPassTheReceiveChecks : Prop :=
  ∀ (s : State) (f : Frame) (h : f.body.cls < 8), (s.bodyBytes f.body).length ≤ 12400 →
    receivePasses ⟨f.body.cls, h⟩ (s.frameBytes f) false = true

/-- QUEUE_PLACE_FREEING hands the freed place, at any queue length and with any reserves, to the blocks in the order
of R154, each finding the queue as those before it leave it: HOLD-OFF (R155), JOB ABANDON, JOB CLOSE, JOB STOP,
CLAIM, TALLY, RELEASE. What is taken joins the queue at its end, in class order, and nothing joins a full one. That
the command does what one freed place calls for is the model's choice (log 6). What each reserve does at a place
freeing, in any state with a record (R154; R17, R118, R120 JOB ABANDON; R11 JOB CLOSE; R120 JOB STOP; R63 CLAIM; R69
TALLY; R114, R116 RELEASE): entered where the queue takes it, else held on. The oldest of several JOB ABANDONs first,
and a JOB STOP never held twice, are the model's choice (log 12); that a CLAIM whose conditions fail sends the cycle
back to STANDBY is R63's; a RELEASE after the Source Sequencer's abandon is given up (log 18). The close conditions
(R11): this station is the closing station (R10: the opener, or once that has departed the lowest remaining roster
station), the job is DRAINING, the claim list empty, and at a SOURCE no restore in progress. A JOB CLOSE not started
is withdrawn where they have ceased (R11). -/
def Obligations.FreedPlaceGoesToTheReservesInOrder : Prop :=
  (∀ s : State,
     exec .queuePlaceFreeing s = .next (((((((s.holdOffTest).abandonFromReserve).closeTest).stopFromReserve).claimAgain
       ).enterTally).releaseFromReserve)
     ∧ ∃ (t : State) (l : List Frame), exec .queuePlaceFreeing s = .next t ∧ t.lc.queue = s.lc.queue ++ l
       ∧ l.Pairwise (fun a b => a.body.cls ≤ b.body.cls) ∧ (8 ≤ s.lc.queue.length → l = [])
       ∧ t.fixed = s.fixed ∧ t.account = s.account ∧ t.store.mem = s.store.mem ∧ t.du = s.du)
  ∧ (∀ (s : State) (r : JobRecord), s.boot = .ready → s.jc.record = some r →
       (s.jc.abandonDue = [] → s.abandonFromReserve = s)
       ∧ (∀ reason rest, s.jc.abandonDue = reason :: rest →
         (s.lc.has .jobAbandon = false → s.lc.queue.length < 8 → s.abandonFromReserve = { s with
           jc := { s.jc with abandonDue := rest }
           lc := { s.lc with queue := s.lc.queue ++ [{ body := .jobAbandon reason, jobId := r.jobId }] } })
         ∧ (s.lc.has .jobAbandon = true ∨ 8 ≤ s.lc.queue.length → s.abandonFromReserve = s))
       ∧ (s.closeConditions = true → s.lc.has .jobClose = false → s.lc.queue.length < 8 → s.closeTest = { s with
         lc := { s.lc with queue := s.lc.queue ++
           [{ body := .jobClose r.accepted r.void r.withdrawn r.high, jobId := r.jobId }] } })
       ∧ (s.closeConditions = false ∨ s.lc.has .jobClose = true ∨ 8 ≤ s.lc.queue.length → s.closeTest = s)
       ∧ (s.jc.stopDue = true → s.lc.has .jobStop = false → s.lc.queue.length < 8 → s.stopFromReserve = { s with
         jc := { s.jc with stopDue := false }
         lc := { s.lc with queue := s.lc.queue ++ [{ body := .jobStop, jobId := r.jobId }] } })
       ∧ (s.jc.stopDue = false ∨ s.lc.has .jobStop = true ∨ 8 ≤ s.lc.queue.length → s.stopFromReserve = s)
       ∧ (s.cs.state ≠ .claim ∨ s.lc.has .claim = true → s.claimAgain = s)
       ∧ (s.cs.state = .claim → s.lc.has .claim = false →
         (s.claimConditions = true → s.lc.queue.length < 8 → s.claimAgain = { s with lc := { s.lc with
           queue := s.lc.queue ++
             [{ body := .claim (if r.noneHeard then 0 else r.high + 1) r.high, jobId := r.jobId }] } })
         ∧ (s.claimConditions = true → 8 ≤ s.lc.queue.length → s.claimAgain = s)
         ∧ (s.claimConditions = false → s.claimAgain = s.toStandby))
       ∧ (∀ o, s.cs.state = .tally → s.cs.outcome = some o → s.lc.has .tally = false → s.lc.queue.length < 8 →
         s.enterTally = { s with lc := { s.lc with queue := s.lc.queue ++
           [{ body := .tally o (if s.cs.disk.conflict then none else s.cs.disk.serial) s.cs.disk.first
               s.cs.disk.further s.cs.disk.verified, jobId := r.jobId }] } })
       ∧ (s.cs.state ≠ .tally ∨ s.cs.outcome = none ∨ s.lc.has .tally = true ∨ 8 ≤ s.lc.queue.length →
         s.enterTally = s)
       ∧ (s.ss.reserve = none → s.releaseFromReserve = s)
       ∧ (∀ v, s.ss.reserve = some v → s.ss.abandon ≠ none →
         s.releaseFromReserve = State.releaseDrivePin { s with ss := { s.ss with reserve := none } })
       ∧ (∀ v, s.ss.reserve = some v → s.ss.abandon = none →
         (s.lc.has (.release v.track v.reason) = false → s.lc.queue.length < 6 → s.releaseFromReserve = { s with
           ss := { s.ss with reserve := none }
           lc := { s.lc with queue := s.lc.queue ++ [
             { jobId := r.jobId
               body := .release v.track v.status v.reason .source r.recipe.sizeCode r.recipe.sectors
                 (match v.status, s.store.heldSlot v.track with
                   | .good, some i => (s.store.slot i).check
                   | _, _ => 0) }] } })
         ∧ (s.lc.has (.release v.track v.reason) = true ∨ 6 ≤ s.lc.queue.length → s.releaseFromReserve = s)))
  ∧ (∀ s : State,
       (s.closeConditions = true ↔ ∃ r, s.jc.record = some r ∧ r.closing = some s.station ∧ r.state = .draining
         ∧ r.claims = [] ∧ (r.role = .source → s.ss.restoring = none))
       ∧ (∀ r : JobRecord, (inMask r.departed r.opener = false → r.closing = some r.opener)
         ∧ (inMask r.departed r.opener = true → r.closing = r.remaining.head?)
         ∧ r.remaining.Pairwise (· < ·)
         ∧ ∀ i, i ∈ r.remaining ↔ inMask r.roster i = true ∧ inMask r.departed i = false)
       ∧ (s.closeConditions = true → s.closeLapse = s)
       ∧ (s.closeConditions = false →
         s.closeLapse.lc.queue = s.lc.queue.filter fun g => !decide (g.key = .jobClose) || g.started))

/-- The HOLD-OFF test: with the loss count at the limit, the view none and no HOLD-OFF queued one is entered.
HOLD_OFF: it sets the view where the view is none, or afresh where it names its own sender; a view of another holder
stays; an own one is counted in any case. HOLD_OFF_TIMER_EXPIRY: the view becomes none, and the HOLD-OFF test is
made. That the command brings the clock to the timer's end (now) is the model's choice (log 2). -/
def Obligations.HoldOffIsAskedForSetAndEnded : Prop :=
  (∀ s : State,
     (s.lc.lossCount = s.pc.params.holdOffLimit → s.lc.view = none → s.lc.has .holdOff = false → s.boot = .ready →
       s.lc.queue.length < 8 →
       s.holdOffTest = { s with lc := { s.lc with queue := s.lc.queue ++ [{ body := .holdOff, jobId := 0 }] } })
     ∧ (s.lc.lossCount ≠ s.pc.params.holdOffLimit ∨ s.lc.view.isSome = true ∨ s.lc.has .holdOff = true →
       s.holdOffTest = s))
  ∧ (∀ (f : Rx) (s : State), s.boot = .ready → s.lc.deaf = false → f.body = [] →
       let out := if f.sender = s.station then
           (if s.lc.has .holdOff then s.dequeue .holdOff else s).count fun c =>
             { c with holdOffs := min (c.holdOffs + 1) 4294967295 }
         else s
       (s.lc.view = none ∨ (∃ v, s.lc.view = some v ∧ v.holder = f.sender) →
         exec (.holdOff f) s = .next (State.afterCompletion { out with lc := { out.lc with
           view := some { holder := f.sender, expiry := s.now + s.pc.params.holdOffTime * 1000 } } } s))
       ∧ (∀ v, s.lc.view = some v → v.holder ≠ f.sender → exec (.holdOff f) s = .next (out.afterCompletion s)))
  ∧ (∀ s : State,
       (s.lc.view = none → exec .holdOffTimerExpiry s = .next s)
       ∧ ∀ v, s.lc.view = some v →
         let ended : State := { s with now := max s.now v.expiry, lc := { s.lc with view := none } }
         (s.lc.lossCount ≠ s.pc.params.holdOffLimit ∨ s.lc.has .holdOff = true ∨ 8 ≤ s.lc.queue.length →
           exec .holdOffTimerExpiry s = .next ended)
         ∧ (s.boot = .ready → s.lc.lossCount = s.pc.params.holdOffLimit → s.lc.has .holdOff = false →
           s.lc.queue.length < 8 → exec .holdOffTimerExpiry s = .next { ended with lc := { ended.lc with
             queue := s.lc.queue ++ [{ body := .holdOff, jobId := 0 }] } }))

/-! ### The job record -/

/-- A JOB OPEN that passes R6 creates the record of R1 in job state NONE: the role by R3 and R7, the home tracks
given to the store, a SOURCE's motor started or its job abandoned, a MEMBER's waiting disk taken up. Another
station's finds this station's own JOB OPEN waiting: that one leaves the queue, and its LOAD ends with RIG BUSY and 3
s of the RED flash (R110, R168). That RIG BUSY then becomes the last refusal is the model's choice (log 13). -/
def Obligations.JobOpenCreatesTheRecord : Prop :=
  ∀ (f : Rx) (b : OpenBody) (recipe : Recipe) (s : State), s.receives → s.jc.record = none →
    parseOpen f.body = some b → b.recipe = some recipe → inMask b.roster f.sender = true →
    1 ≤ b.r → b.r ≤ 3 → b.base ≤ b.limit → recipe.valid = true → recipe.serialsFit b.limit = true →
    let homes := match b.kind with
      | .copy => homesAmong (stationsOf b.roster) recipe.tracks b.r s.station
      | .format => []
    let source := decide (f.sender = s.station ∧ b.kind = .copy)
    let joins := inMask b.roster s.station && s.pc.params.fitted && decide (homes.length ≤ 56)
    let role : Role := if source then .source else if joins then .member else .observer
    let kept := if role = .observer then [] else homes
    ∃ t : State, exec (.jobOpen f) s = .next t
      ∧ t.jc.record = some {
          jobId := f.jobId, kind := b.kind, opener := f.sender, recipe := recipe, r := b.r, roster := b.roster
          role := role, joinRefused := !source && inMask b.roster s.station && !joins
          markAt := s.now, wanted := b.wanted, base := b.base, limit := b.limit
          high := if b.base = 0 then 4294967295 else b.base - 1, noneHeard := decide (b.base = 0) }
      ∧ t.now = s.now ∧ t.station = s.station ∧ t.pc.params = s.pc.params ∧ t.jc.nextBase = s.jc.nextBase
      ∧ t.jc.seq = s.jc.seq ∧ t.lc.presence = s.lc.presence ∧ t.lc.counters.badFrames = s.lc.counters.badFrames
      ∧ t.store.mem = s.store.mem
      ∧ t.lc.foreign = none ∧ t.du.need = [] ∧ t.du.repair = [] ∧ t.du.lost = [] ∧ t.du.restores = []
      ∧ t.store.allowance = kept ∧ t.store.reservation = kept.length
      ∧ (∀ u < 168, (t.store.entry u).home = decide (u ∈ kept))
      ∧ (f.sender ≠ s.station → s.lc.waiting .jobOpen = true →
          t.pc.refusal = some .rigBusy ∧ t.pc.flash = some (s.now + 3000000) ∧ t.lc.waiting .jobOpen = false
          ∧ ((∀ g ∈ s.lc.queue, g.key = .jobOpen → g.started = false) → t.lc.has .jobOpen = false))
      ∧ (role = .source → s.dp.diskin = true →
          t.ss.state = .spinup ∧ t.ss.present = true ∧ t.ss.prot = s.dp.wprot ∧ t.ss.firstTrack = 0
          ∧ t.ss.abandon = none
          ∧ (s.cs.state ≠ .claim → t.dp.motor = true ∧ t.dp.select = true ∧ t.dp.lock = true
              ∧ t.dp.qualify = some { limit := s.now + s.pc.params.spinUpLimit * 1000 }))
      ∧ (role = .source → s.dp.diskin = false → t.ss.present = false ∧ t.ss.abandon = some .masterRemoved)
      ∧ (role = .member → s.cs.state = .standby → s.cs.paused = false → s.dp.wprot = false →
          t.cs.state = .spinup ∧ t.dp.motor = true ∧ t.dp.select = true ∧ t.dp.lock = true)

/-- A JOB OPEN at a station that holds a record is ignored, whatever its id: the record stays, nothing is counted as
bad, and no LOAD there enters a JOB OPEN (R8). -/
def Obligations.JobOpenIsIgnoredWhileARecordIsHeld : Prop :=
  ∀ (f : Rx) (s : State) (r : JobRecord), s.receives → s.jc.record = some r → (parseOpen f.body).isSome = true →
    exec (.jobOpen f) s = .next ((s.heard .jobOpen f.sender).afterCompletion s)
    ∧ ((s.heard .jobOpen f.sender).afterCompletion s).jc.record = some r
    ∧ ((s.heard .jobOpen f.sender).afterCompletion s).lc.counters.badFrames = s.lc.counters.badFrames
    ∧ ∀ sel, ∃ t : State, exec (.loadPress sel) s = .next t ∧ t.jc.seq = s.jc.seq
      ∧ t.lc.queue = s.lc.queue

/-- A JOB OPEN that fails R6 in job state NONE is discarded: counted as bad, and noted. The foreign-job note: in job
state NONE a JOB STOP, CLAIM, TALLY, WANT or RELEASE sets it to its id, a JOB CLOSE or JOB ABANDON of its id clears
it, one of another id leaves it (R15). -/
def Obligations.DiscardedAndForeignFramesMoveTheNote : Prop :=
  (∀ (f : Rx) (b : OpenBody) (s : State), s.receives → s.jc.record = none → parseOpen f.body = some b →
     (inMask b.roster f.sender = false ∨ b.r < 1 ∨ 3 < b.r ∨ b.limit < b.base ∨ b.recipe = none
       ∨ ∃ recipe, b.recipe = some recipe ∧ (recipe.valid = false ∨ recipe.serialsFit b.limit = false)) →
     let heard := s.heard .jobOpen f.sender
     exec (.jobOpen f) s = .next (State.afterCompletion { heard with lc := { heard.lc with
       counters := { s.lc.counters with badFrames := min (s.lc.counters.badFrames + 1) 4294967295 }
       foreign := some f.jobId } } s))
  ∧ (∀ (f : Rx) (s : State), s.receives → s.jc.record = none →
       (∀ c, (c = .jobStop f ∧ (parseStop f.body).isSome = true) ∨ (c = .claim f ∧ (parseClaim f.body).isSome = true)
         ∨ (c = .tally f ∧ (parseTally f.body).isSome = true) ∨ (c = .want f ∧ (parseWant f.body).isSome = true)
         ∨ (c = .release f ∧ (parseRelease f.body).isSome = true) →
         ∃ t : State, exec c s = .next t ∧ t.lc.foreign = some f.jobId ∧ t.jc = s.jc
           ∧ t.du = s.du ∧ t.ss = s.ss ∧ t.cs = s.cs ∧ t.dp = s.dp ∧ t.pc = s.pc ∧ t.store.mem = s.store.mem
           ∧ t.lc.presence = s.lc.presence ∧ t.lc.counters = s.lc.counters ∧ t.now = s.now)
       ∧ (∀ c, (c = .jobClose f ∧ (parseClose f.body).isSome = true)
         ∨ (c = .jobAbandon f ∧ (parseAbandon f.body).isSome = true) →
         ∃ t : State, exec c s = .next t ∧ t.jc = s.jc ∧ t.store = s.store
           ∧ t.du = s.du ∧ t.ss = s.ss ∧ t.cs = s.cs ∧ t.dp = s.dp ∧ t.pc = s.pc
           ∧ t.lc.presence = s.lc.presence ∧ t.lc.counters = s.lc.counters ∧ t.now = s.now
           ∧ t.lc.foreign = if s.lc.foreign = some f.jobId then none else s.lc.foreign))

/-- JOB STOP of the job, whoever sends it: OPEN goes to DRAINING, in DRAINING nothing changes (R9). With the move the
closing station makes the close test of R11: where the claim list is empty and no restore runs, JOB CLOSE is entered,
if the queue has a place, the one of an own JOB STOP included. -/
def Obligations.JobStopDrainsTheJob : Prop :=
  ∀ (f : Rx) (s : State) (r : JobRecord), s.receives → s.jc.record = some r → f.jobId = r.jobId →
    f.body.length = 2 → byteAt f.body 1 = 1 →
    (r.state = .opened → ∃ t : State, exec (.jobStop f) s = .next t
      ∧ t.jc.record = some { r with state := .draining }
      ∧ t.store = s.store ∧ t.du = s.du ∧ t.ss = s.ss ∧ t.vu = s.vu ∧ t.jc.nextBase = s.jc.nextBase
      ∧ t.lc.presence = s.lc.presence ∧ t.lc.foreign = s.lc.foreign ∧ t.pc.params = s.pc.params ∧ t.now = s.now
      ∧ (r.claims = [] → r.closing = some s.station → r.role ≠ .source ∨ s.ss.restoring = none →
          s.lc.queue.length < 8 ∨ f.sender = s.station ∧ s.lc.has .jobStop = true ∧ s.lc.queue.length = 8 →
          t.lc.has .jobClose = true))
    ∧ (r.state = .draining → exec (.jobStop f) s = .next ((s.heard .jobStop f.sender).afterCompletion s))

/-- JOB CLOSE and JOB ABANDON of the job end it: the record, its frames, the store and the want list go, the gate
drops, and the opener's next serial base follows the high mark (R12 to R14, R75). That the slots' bytes stay (log 4),
what the base is where no serial has been heard (log 37), and that the abandon sequence takes the place of one that
still runs (log 50), are the model's choices. What JOB CLOSE and JOB ABANDON of the job do to a MEMBER's disk and to
the source (R12, R13, R92, R119): unclaimed disks go back to STANDBY at a JOB CLOSE, others in the drive to OUT with
ABANDONED, a pulled one is entered as PULLED, and a source's diskette is ejected, its read and a RELEASE held in
reserve ending with the job. Where no pulse holds a Source Sequencer in ENDING, the port has no user and its lines
are at rest (R137). -/
def Obligations.JobCloseAndAbandonEndTheJob : Prop :=
  (∀ (f : Rx) (s : State) (r : JobRecord) (c : Instr) (reason : Option AbandonReason),
     s.receives → s.jc.record = some r → f.jobId = r.jobId →
     (c = .jobClose f ∧ f.body.length = 17 ∧ reason = none)
       ∨ (c = .jobAbandon f ∧ (parseAbandon f.body) = reason ∧ reason.isSome = true) →
     ∃ t : State, exec c s = .next t
       ∧ t.jc.record = none ∧ t.jc.stopDue = false ∧ t.jc.abandonDue = []
       ∧ (∀ g ∈ t.lc.queue, g.jobId = r.jobId → g.body.cls < 1 ∨ 5 < g.body.cls)
       ∧ t.store = { mem := s.store.mem } ∧ t.du = {} ∧ t.tb = none ∧ t.dp.wgate = false ∧ t.cs.paused = false
       ∧ (r.opener = s.station → r.noneHeard = false →
           (reason = none → t.jc.nextBase = min (max r.high (beAt f.body 13 4) + 1) 4294967295)
           ∧ (reason.isSome = true → t.jc.nextBase = min (r.high + 1) 4294967295))
       ∧ (r.opener = s.station → r.noneHeard = true →
           (reason = none → t.jc.nextBase =
             if beAt f.body 13 4 = 4294967295 then 0 else beAt f.body 13 4 + 1)
           ∧ (reason.isSome = true → t.jc.nextBase = 0))
       ∧ (r.opener ≠ s.station → t.jc.nextBase = s.jc.nextBase)
       ∧ t.now = s.now ∧ t.station = s.station ∧ t.lc.presence = s.lc.presence ∧ t.lc.foreign = s.lc.foreign
       ∧ t.jc.seq = s.jc.seq ∧ t.pc.params = s.pc.params ∧ t.pc.directory = s.pc.directory
       ∧ t.pc.refusal = s.pc.refusal
       ∧ t.pc.sequence = (match reason with
           | some why => some (why, s.now)
           | none => s.pc.sequence))
  ∧ (∀ (f : Rx) (s : State) (r : JobRecord) (c : Instr) (cause : EndCause), s.receives → s.jc.record = some r →
       f.jobId = r.jobId →
       (c = .jobClose f ∧ (parseClose f.body).isSome = true ∧ cause = .close
         ∨ ∃ reason, c = .jobAbandon f ∧ parseAbandon f.body = some reason ∧ cause = .abandon reason) →
       ∃ t : State, exec c s = .next t
       ∧ (r.role = .member →
         (s.cs.state = .spinup ∨ s.cs.state = .home ∨ s.cs.state = .claim → cause = .close →
           t.cs.state = .standby ∧ t.dp.motor = false ∧ t.dp.select = false ∧ t.dp.lock = false)
         ∧ (s.cs.state.busy = true → ¬(s.cs.state = .tally ∧ s.cs.pulled = true) →
           (cause = .close → s.cs.state ≠ .spinup ∧ s.cs.state ≠ .home ∧ s.cs.state ≠ .claim) →
           t.cs.state = .out ∧ t.cs.outcome = some .rejected ∧ t.dp.motor = false ∧ t.dp.lock = false
           ∧ t.cs.disk.first = some (s.cs.disk.first.getD .abandoned)
           ∧ (t.pc.history.getLast?.map fun h => (h.outcome, h.cause)) = some (.rejected, some cause))
         ∧ (s.cs.state = .tally → s.cs.pulled = true →
           t.cs.state = .empty
           ∧ (t.pc.history.getLast?.map fun h => (h.outcome, h.cause)) = some (.pulled, some cause))
         ∧ (s.cs.state.busy = false → t.cs.state = s.cs.state ∧ t.pc.history = s.pc.history))
       ∧ (r.role = .source → s.cs.state.busy = false →
         (s.dp.diskin = true → t.ss = { s.ss with state := .ending, read := none, reserve := none, abandon := none }
           ∧ t.dp.motor = false ∧ t.dp.lock = false
           ∧ t.dp.ejectEnds = some (s.dp.ejectEnds.getD (s.now + 100000)))
         ∧ (s.dp.diskin = false → t.ss = {} ∧ t.dp.motor = false ∧ t.dp.lock = false))
       ∧ (r.role ≠ .source ∧ s.ss.state ≠ .ending ∨ r.role = .source ∧ s.dp.diskin = false →
         t.dp.head = false ∧ t.dp.dir = false ∧ t.dp.step = false ∧ t.dp.lock = false ∧ t.dp.wgate = false))

/-! ### Serials, claims and tallies -/

/-- CLAIM (R66, R67): discarded and counted as bad by its check, else applied in its steps: the repeat, the count,
the high mark, the superseded entry, the entry in serial order, and the lower station number at a collision. The high
mark is the largest of itself, the serial and the carried mark; a mark none heard counts as lower than each and is
dropped, and the carried 4,294,967,295 of a serial 0 is passed over (R61). -/
def Obligations.ClaimIsAppliedInItsSteps : Prop :=
  ∀ (f : Rx) (s : State) (r : JobRecord), s.receives → s.jc.record = some r → f.jobId = r.jobId →
    f.body.length = 8 →
    let v := beAt f.body 0 4
    let carried := beAt f.body 4 4
    let top := if v = 0 ∧ carried = 4294967295 then 0 else max v carried
    let high := if r.noneHeard then top else max r.high top
    let passes := inMask r.roster f.sender = true ∧ inMask r.departed f.sender = false ∧ r.base ≤ v ∧ v ≤ r.limit
    let others := r.claims.eraseP fun c => decide (c.station = f.sender)
    let hadOne := r.claims.any fun c => decide (c.station = f.sender)
    let void := r.void + if hadOne then 1 else 0
    let frame (t : State) : Prop :=
      t.fixed = s.fixed ∧ t.mark = s.mark ∧ t.departed = s.departed ∧ t.now = s.now
      ∧ t.lc.presence = s.lc.presence ∧ t.lc.foreign = s.lc.foreign ∧ t.jc.nextBase = s.jc.nextBase
      ∧ t.ss = s.ss ∧ t.store.mem = s.store.mem ∧ t.pc.params = s.pc.params
    (¬passes → ∃ t : State, exec (.claim f) s = .next t ∧ frame t ∧ t.account = some r.account
      ∧ t.lc.counters.badFrames = min (s.lc.counters.badFrames + 1) 4294967295)
    ∧ (passes → ∃ t : State, exec (.claim f) s = .next t ∧ frame t ∧
      (⟨v, f.sender⟩ ∈ r.claims → t.account = some { r.account with high := high, noneHeard := false })
      ∧ (¬ ⟨v, f.sender⟩ ∈ r.claims → (∀ c ∈ others, c.serial ≠ v) →
        t.account = some { r.account with
          heard := r.heard + 1, high := high, noneHeard := false, void := void, claims := insertClaim ⟨v, f.sender⟩ others })
      ∧ (∀ c, ¬ ⟨v, f.sender⟩ ∈ r.claims → others.find? (fun c => decide (c.serial = v)) = some c →
        (f.sender < c.station → t.account = some { r.account with
          heard := r.heard + 1, high := high, noneHeard := false, void := void, withdrawn := r.withdrawn + 1
          claims := insertClaim ⟨v, f.sender⟩ (others.eraseP fun c => decide (c.serial = v)) })
        ∧ (¬ f.sender < c.station → t.account = some { r.account with
          heard := r.heard + 1, high := high, noneHeard := false, void := void, withdrawn := r.withdrawn + 1, claims := others })))

/-- TALLY with a serial (R70, R71): discarded by its check, else its entry leaves, or its claim is implied, with the
serial taken from another station; the outcome is counted and the high mark raised, which a mark none heard always is
(R61). At a closing station whose opener has departed, a TALLY with TRACK UNOBTAINABLE brings JOB ABANDON TRACK LOST,
entered or held (R17; held, log 12). Where the same TALLY makes the close conditions hold, that JOB CLOSE is entered
first is the model's choice (log 57). Every TALLY that passes its check is followed by the close test and the start
test, on the record `u` that it leaves (its account and its state: the other statements about TALLY). DRAINING with
an empty claim list, where an entry has left or the job was OPEN, the closing station with no restore running enters
JOB CLOSE (R11), if the queue has a place: an own TALLY's place included, one less where the TALLY of this station's
disk, which lost its serial, takes it. In STANDBY a MEMBER's disk is taken up while the job is OPEN with copies and
serials left, and else stays (R78). -/
def Obligations.TallySettlesItsSerial : Prop :=
  (∀ (f : Rx) (s : State) (r : JobRecord) (b : TallyBody) (v : Nat), s.receives → s.jc.record = some r →
     f.jobId = r.jobId → parseTally f.body = some b → b.serial = some v →
     let passes := inMask r.roster f.sender = true ∧ r.base ≤ v ∧ v ≤ r.limit
     let accepted := r.accepted + if b.outcome = .accepted then 1 else 0
     let void := r.void + if b.outcome = .accepted then 0 else 1
     let high := if r.noneHeard then v else max r.high v
     let others := r.claims.eraseP fun c => decide (c.station = f.sender)
     let superseded := if r.claims.any (fun c => decide (c.station = f.sender)) then 1 else 0
     let frame (t : State) : Prop :=
       t.fixed = s.fixed ∧ t.mark = s.mark ∧ t.departed = s.departed ∧ t.now = s.now
       ∧ t.lc.presence = s.lc.presence ∧ t.lc.foreign = s.lc.foreign ∧ t.jc.nextBase = s.jc.nextBase
       ∧ t.ss = s.ss ∧ t.store.mem = s.store.mem ∧ t.pc.params = s.pc.params
     (¬passes → ∃ t : State, exec (.tally f) s = .next t ∧ frame t ∧ t.account = some r.account
       ∧ t.lc.counters.badFrames = min (s.lc.counters.badFrames + 1) 4294967295)
     ∧ (passes → ∃ t : State, exec (.tally f) s = .next t ∧ frame t ∧
       (⟨v, f.sender⟩ ∈ r.claims → t.account = some { r.account with
         accepted := accepted, void := void, high := high, noneHeard := false
         claims := r.claims.eraseP fun c => decide (c = ⟨v, f.sender⟩) })
       ∧ (¬ ⟨v, f.sender⟩ ∈ r.claims → (∀ c ∈ others, c.serial ≠ v) → t.account = some { r.account with
         heard := r.heard + 1, accepted := accepted, void := void + superseded, high := high, noneHeard := false
         claims := others })
       ∧ (¬ ⟨v, f.sender⟩ ∈ r.claims → (∃ c ∈ others, c.serial = v) → t.account = some { r.account with
         heard := r.heard + 1, accepted := accepted, void := void + superseded, withdrawn := r.withdrawn + 1
         high := high, noneHeard := false, claims := others.eraseP fun c => decide (c.serial = v) })
       ∧ (r.kind = .copy → inMask r.departed r.opener = true → r.remaining.head? = some s.station →
         b.first = some .trackUnobtainable → t.lc.has .jobAbandon = true ∨ .trackLost ∈ t.jc.abandonDue)))
  ∧ (∀ (f : Rx) (s : State) (r : JobRecord) (b : TallyBody), s.receives → s.jc.record = some r →
       f.jobId = r.jobId → parseTally f.body = some b → r.tallyPasses f.sender b = true →
       let others := r.claims.eraseP fun c => decide (c.station = f.sender)
       let place := s.lc.queue.length < 7
         ∨ (∀ v c, b.serial = some v → c ∈ others → c.serial = v → c.station ≠ s.station)
           ∧ (s.lc.queue.length < 8 ∨ f.sender = s.station ∧ s.lc.has .tally = true ∧ s.lc.queue.length = 8)
       let starts (u : JobRecord) : Prop := u.state = .opened ∧ r.role = .member ∧ s.cs.paused = false
         ∧ (u.wanted = 0 ∨ u.accepted + u.claims.length < u.wanted) ∧ (u.noneHeard = true ∨ u.high < u.limit)
       ∃ (t : State) (u : JobRecord), exec (.tally f) s = .next t ∧ t.jc.record = some u
         ∧ (u.state = .draining → u.claims = [] → r.claims ≠ [] ∨ r.state = .opened → r.closing = some s.station →
             r.role ≠ .source ∨ s.ss.restoring = none → place → t.lc.has .jobClose = true)
         ∧ (s.cs.state = .standby →
             (starts u → s.dp.wprot = false →
               t.cs.state = .spinup ∧ t.dp.motor = true ∧ t.dp.select = true ∧ t.dp.lock = true)
             ∧ (starts u → s.dp.wprot = true → t.cs.state = .out ∧ t.cs.disk.first = some .protected_)
             ∧ (¬starts u → t.cs = s.cs ∧ t.dp = s.dp)))

/-- TALLY REJECTED without a serial (R72): any entry of its station leaves and withdrawn rises; with none no count
changes; the high mark stays; the close test is made if an entry left. A TALLY without a serial from outside the
roster, or with outcome ACCEPTED or PULLED, fails its check: it is discarded and counted as bad (R70). -/
def Obligations.TallyWithoutSerialWithdrawsTheEntry : Prop :=
  (∀ (f : Rx) (s : State) (r : JobRecord) (b : TallyBody), s.receives → s.jc.record = some r →
     f.jobId = r.jobId → parseTally f.body = some b → b.serial = none → b.outcome = .rejected →
     inMask r.roster f.sender = true →
     ∃ t : State, exec (.tally f) s = .next t
       ∧ ((∃ c ∈ r.claims, c.station = f.sender) → t.account = some { r.account with
           claims := r.claims.eraseP fun c => decide (c.station = f.sender), withdrawn := r.withdrawn + 1 })
       ∧ ((∀ c ∈ r.claims, c.station ≠ f.sender) → t.account = some r.account)
       ∧ ((∃ c, r.claims = [c] ∧ c.station = f.sender) → r.state = .draining → r.closing = some s.station →
           r.role ≠ .source → f.sender ≠ s.station → s.lc.queue.length < 8 → t.lc.has .jobClose = true))
  ∧ (∀ (f : Rx) (s : State) (r : JobRecord) (b : TallyBody), s.receives → s.jc.record = some r →
     f.jobId = r.jobId → parseTally f.body = some b → b.serial = none →
     inMask r.roster f.sender = false ∨ b.outcome ≠ .rejected →
     ∃ t : State, exec (.tally f) s = .next t ∧ t.account = some r.account ∧ t.jobState = s.jobState
       ∧ t.lc.counters.badFrames = min (s.lc.counters.badFrames + 1) 4294967295)

/-- The drain test of R4 after a CLAIM or a TALLY: the state is DRAINING when copies wanted is nonzero and reached,
or the high mark, not marked none heard (R61), is at the limit, on the account the frame leaves. -/
def Obligations.DrainTestFollowsTheAccount : Prop :=
  ∀ (f : Rx) (s t : State) (r u : JobRecord) (c : Instr), s.receives → s.jc.record = some r → f.jobId = r.jobId →
    (c = .claim f ∧ (∃ p, parseClaim f.body = some p ∧ r.claimPasses f.sender p.1 = true)
      ∨ c = .tally f ∧ ∃ b, parseTally f.body = some b ∧ r.tallyPasses f.sender b = true) →
    exec c s = .next t → t.jc.record = some u →
    (r.state = .draining → u.state = .draining)
    ∧ (r.state = .opened → (u.state = .draining ↔ (u.wanted ≠ 0 ∧ u.wanted ≤ u.accepted)
      ∨ u.noneHeard = false ∧ u.high = u.limit))

/-- CLAIM with a serial inside its job (R66 to R68, R89, R91), seen by this station's copy cycle. An own one entered,
also in place of a higher station's claim, gives the disk its serial and moves it on to track 0 (with no window track
lost, in FETCH or WRITE); a pulled disk that waited for it is tallied PULLED (R91). One that takes or keeps this
station's serial ends the disk with SERIAL CONFLICT; a pulled one that waited is then tallied REJECTED. A TALLY of
another station that finds its serial held by this station's own entry ends this station's disk with SERIAL CONFLICT,
before it is claimed (CLAIM) to the verify, and a pulled disk that waits in TALLY is tallied REJECTED; the TALLY
REJECTED without a serial is entered where none is queued and the queue has a place (R68, R71, R89, R91). The own
TALLY, as it completes in TALLY, takes the disk to OUT with EJECT and its history entry, or leaves the cycle EMPTY
when it was pulled, with the outcome it carries (R90, R91). -/
def Obligations.OwnClaimAndTallyMoveTheDisk : Prop :=
  (∀ (f : Rx) (s : State) (r : JobRecord), s.receives → s.jc.record = some r → f.jobId = r.jobId →
     f.body.length = 8 →
     let v := beAt f.body 0 4
     let others := r.claims.eraseP fun c => decide (c.station = f.sender)
     inMask r.roster f.sender = true → inMask r.departed f.sender = false → r.base ≤ v → v ≤ r.limit →
     ¬ ⟨v, f.sender⟩ ∈ r.claims →
     let entered := f.sender = s.station ∧ ∀ c, others.find? (fun c => decide (c.serial = v)) = some c →
       f.sender < c.station
     let lost := ∃ c, others.find? (fun c => decide (c.serial = v)) = some c
       ∧ (f.sender = s.station ∧ ¬ f.sender < c.station ∨ c.station = s.station ∧ f.sender < c.station)
     ∃ t : State, exec (.claim f) s = .next t
       ∧ (entered → s.cs.state = .claim → t.cs.disk.serial = some v ∧ t.cs.disk.track = some 0
         ∧ (s.du.lost = [] → (t.cs.state = .fetch ∨ t.cs.state = .write) ∧ t.cs.disk.live = true
           ∧ t.cs.disk.attempts = 0 ∧ t.cs.disk.first = s.cs.disk.first))
       ∧ (entered → s.cs.state = .tally → s.cs.pulled = true → s.cs.outcome = none →
         t.cs.disk.serial = some v ∧ t.cs.outcome = some .pulled ∧ t.cs.state = .tally)
       ∧ (lost → s.cs.state ∈ [CycleState.claim, .fetch, .write, .verify] →
         t.cs.state = .tally ∧ t.cs.outcome = some .rejected ∧ t.cs.disk.serial = none ∧ t.cs.disk.conflict = true
         ∧ t.cs.disk.first = some (s.cs.disk.first.getD .serialConflict)
         ∧ t.dp.motor = false ∧ t.dp.wgate = false ∧ t.tb = none)
       ∧ (lost → s.cs.state = .tally → s.cs.pulled = true → s.cs.outcome = none →
         t.cs.state = .tally ∧ t.cs.outcome = some .rejected ∧ t.cs.disk.conflict = true))
  ∧ (∀ (f : Rx) (s : State) (r : JobRecord) (b : TallyBody) (v : Nat) (c : Claim), s.receives → s.jc.record = some r →
       f.jobId = r.jobId → parseTally f.body = some b → b.serial = some v → f.sender ≠ s.station →
       inMask r.roster f.sender = true → r.base ≤ v → v ≤ r.limit → ¬ ⟨v, f.sender⟩ ∈ r.claims →
       (r.claims.eraseP fun c => decide (c.station = f.sender)).find? (fun c => decide (c.serial = v)) = some c →
       c.station = s.station →
       ∃ t : State, exec (.tally f) s = .next t
         ∧ (s.cs.state ∈ [CycleState.claim, .fetch, .write, .verify] →
           t.cs.state = .tally ∧ t.cs.outcome = some .rejected ∧ t.cs.disk.serial = none ∧ t.cs.disk.conflict = true
           ∧ t.cs.disk.first = some (s.cs.disk.first.getD .serialConflict)
           ∧ t.dp.motor = false ∧ t.dp.wgate = false ∧ t.tb = none)
         ∧ (s.cs.state = .tally → s.cs.pulled = true → s.cs.outcome = none →
           t.cs.state = .tally ∧ t.cs.outcome = some .rejected ∧ t.cs.disk.conflict = true)
         ∧ (s.cs.state ∈ [CycleState.claim, .fetch, .write, .verify]
             ∨ s.cs.state = .tally ∧ s.cs.pulled = true ∧ s.cs.outcome = none →
           s.lc.has .tally = false → s.lc.queue.length < 8 →
           ∃ g ∈ t.lc.queue, g.jobId = r.jobId
             ∧ g.body = .tally .rejected none t.cs.disk.first t.cs.disk.further t.cs.disk.verified))
  ∧ (∀ (f : Rx) (s : State) (r : JobRecord) (b : TallyBody), s.receives → s.jc.record = some r → f.jobId = r.jobId →
       f.sender = s.station → parseTally f.body = some b → r.tallyPasses f.sender b = true → s.cs.state = .tally →
       ∃ t : State, exec (.tally f) s = .next t
         ∧ t.pc.history.getLast? = some {
             outcome := b.outcome, serial := s.cs.disk.serial, first := s.cs.disk.first, further := s.cs.disk.further
             verified := s.cs.disk.verified, cause := none }
         ∧ (s.cs.pulled = false → t.cs.state = .out ∧ t.cs.outcome = some b.outcome
           ∧ t.dp.lock = false ∧ t.dp.ejectEnds = some (s.dp.ejectEnds.getD (s.now + 100000)))
         ∧ (s.cs.pulled = true → t.cs.state = .empty ∧ t.cs.outcome = none ∧ t.dp = s.dp))

/-! ### Distribution and the store -/

/-- WANT: an own one is counted and its QUEUED entry waits with a deadline (R45, R60). Another station's is shared by
an entry of its track first (R47; first: the model's choice, log 59), then answered (R52, R53), or with the restore
flag taken as a restore request, which in SERVE the Source Sequencer takes up (R56, R115). Sharing (R47): a QUEUED
entry of the track and flag, whose own WANT is not on the medium, waits with its deadline and its WANT is withdrawn;
no other entry changes. The answer decision (R52, R53): from a HOME slot at a MEMBER, from any slot at the SOURCE, of
a track below T that is held here, with no RELEASE of it queued; else none is entered. A restore request at the
SOURCE (R56): from the store where the track is held, else it joins the restore queue, unless a RELEASE of the track
is queued, it waits or is in progress there, or 8 wait; and in SERVE with nothing in progress the Source Sequencer
takes the head up at once (R115), a JOB CLOSE not started being withdrawn (R11). -/
def Obligations.WantIsCountedAnsweredOrRestored : Prop :=
  (∀ (f : Rx) (s : State) (r : JobRecord) (b : WantBody), s.receives → s.jc.record = some r → f.jobId = r.jobId →
     parseWant f.body = some b →
     let heard := s.heard (.want b.track) f.sender
     (f.sender = s.station → exec (.want f) s = .next (State.afterCompletion { heard with
       lc := { heard.lc with counters := { s.lc.counters with
         wants := min (s.lc.counters.wants + 1) 4294967295
         restores := if b.restore then min (s.lc.counters.restores + 1) 4294967295 else s.lc.counters.restores } }
       du := s.du.update b.track fun w => if w.phase = .queued then
         { w with
           phase := .waiting
           deadline := some (s.now + (if w.restore then s.pc.params.restoreTimeout else s.pc.params.wantTimeout) * 1000) }
         else w } s))
     ∧ (f.sender ≠ s.station → b.restore = false →
       exec (.want f) s = .next (((heard.shareWant b).answerWant b.track).afterCompletion s))
     ∧ (f.sender ≠ s.station → b.restore = true → exec (.want f) s =
       .next ((((heard.shareWant b).restoreRequest b.track).serveAppended).afterCompletion s)))
  ∧ (∀ (s : State) (r : JobRecord) (b : WantBody), s.jc.record = some r →
       let shares := ∃ w, s.du.find b.track = some w ∧ w.phase = .queued ∧ w.restore = b.restore
         ∧ ∀ g ∈ s.lc.queue, g.key = .want b.track → s.lc.waiting (.want b.track) = true
       (shares → s.shareWant b = State.withdrawKey (.want b.track) { s with du := s.du.update b.track fun w =>
         if w.phase = .queued then
           { w with
             phase := .waiting
             deadline := some (s.now + (if w.restore then s.pc.params.restoreTimeout else s.pc.params.wantTimeout) * 1000) }
         else w })
       ∧ (¬shares → s.shareWant b = s)
       ∧ (s.lc.hasRelease b.track = true ↔ ∃ g ∈ s.lc.queue, ∃ reason, g.key = .release b.track reason)
       ∧ (∀ i, s.store.heldSlot b.track = some i → r.kind = .copy → b.track < r.tracks → s.lc.hasRelease b.track = false →
         (r.role = .source ∨ r.role = .member ∧ (s.store.slot i).state = .home) →
         s.answerWant b.track = s.enter (.release b.track .good .answer .answer r.recipe.sizeCode r.recipe.sectors
           (s.store.slot i).check) r.jobId)
       ∧ (s.store.heldSlot b.track = none ∨ r.kind = .format ∨ r.tracks ≤ b.track ∨ s.lc.hasRelease b.track = true
         ∨ r.role = .observer
         ∨ (r.role = .member ∧ ∀ i, s.store.heldSlot b.track = some i → (s.store.slot i).state ≠ .home) →
         s.answerWant b.track = s))
  ∧ (∀ (s : State) (r : JobRecord) (t : Nat), s.jc.record = some r →
       (r.kind = .format ∨ r.role ≠ .source ∨ r.tracks ≤ t ∨ s.lc.hasRelease t = true → s.restoreRequest t = s)
       ∧ (r.kind = .copy → r.role = .source → t < r.tracks → s.lc.hasRelease t = false →
         (∀ i, s.store.heldSlot t = some i → s.restoreRequest t = s.enter (.release t .good .restore .duRestore
           r.recipe.sizeCode r.recipe.sectors (s.store.slot i).check) r.jobId)
         ∧ (s.store.heldSlot t = none → s.ss.restoring ≠ some t → ¬ t ∈ s.du.restores → s.du.restores.length < 8 →
           s.restoreRequest t = { s with du := { s.du with restores := s.du.restores ++ [t] } })
         ∧ (s.store.heldSlot t = none → s.ss.restoring = some t ∨ t ∈ s.du.restores ∨ 8 ≤ s.du.restores.length →
           s.restoreRequest t = s))
       ∧ (∀ u rest, s.ss.state = .serve → s.ss.restoring = none → s.ss.abandon = none → s.du.restores = u :: rest →
         s.serveAppended = State.serve u (State.closeLapse { s with
           du := { s.du with restores := rest }
           ss := { s.ss with restoring := some u } }))
       ∧ (s.ss.state ≠ .serve ∨ s.ss.restoring ≠ none ∨ s.ss.abandon ≠ none ∨ s.du.restores = [] → s.serveAppended = s))

/-- RELEASE_BEGIN (R29): a payload is taken when it is of the job, a GOOD one of a COPY job in the recipe's size and
count and its length, of a track below T that is ABSENT here, and wanted: it has a place in the allowance, a want
list entry, or lies from the current track to the lookahead. Taken, it goes into a slot by R27 whatever other fill is
under way, or is counted as no room; one not taken has no effect. The allocation (R27, R28): the lowest FREE slot,
which a track without a place may take only while the spare count (FREE slots and FILLING allowance tracks above the
reservation) is 1 or more; only where none may be taken, the first slot of the cache order list whose pins are 0;
where all are pinned, none. The slot becomes FILLING and an evicted track ABSENT, and map and slots go on naming each
other (R23). -/
def Obligations.ReleaseBeginTakesASlotForThePayload : Prop :=
  (∀ (h : ReleaseHead) (s : State),
     (s.takes h = true ↔ ∃ r, s.jc.record = some r ∧ h.jobId = r.jobId ∧ r.kind = .copy ∧ h.status ≠ 2
       ∧ h.track.toNat < r.tracks ∧ h.size.toNat = r.recipe.sizeCode ∧ h.count.toNat = r.recipe.sectors
       ∧ h.length = 9 + h.count.toNat * (1 + 128 * 2 ^ h.size.toNat)
       ∧ (s.store.entry h.track.toNat).presence = .absent
       ∧ (h.track.toNat ∈ s.store.allowance ∨ s.du.has h.track.toNat = true
         ∨ ∃ c, s.cs.current = some c ∧ c ≤ h.track.toNat ∧ h.track.toNat ≤ c + s.pc.params.lookahead))
     ∧ (s.boot ≠ .ready ∨ s.lc.deaf = true ∨ s.takes h = false → exec (.releaseBegin h) s = .next s)
     ∧ (s.receives → s.takes h = true →
       (∀ i, s.store.allocation h.track.toNat = some i → exec (.releaseBegin h) s = .next (State.settle
         { s with store := { s.store.takeSlot i h.track.toNat h.check with fills := i :: s.store.fills } } s))
       ∧ (s.store.allocation h.track.toNat = none → exec (.releaseBegin h) s = .next (State.settle
         { s with lc := { s.lc with counters :=
           { s.lc.counters with noRoom := min (s.lc.counters.noRoom + 1) 4294967295 } } } s))))
  ∧ (∀ (st : Store) (t : Nat), t < 168 →
       let mayFree := t ∈ st.allowance ∨ st.reservation + 1 ≤ st.freeCount + st.fillingAllowance
       let takesFree := mayFree ∧ ∃ i < 64, (st.slot i).state = .free
       let agrees (x : Store) : Prop := ∀ u < 168, ∀ j < 64, (x.entry u).slot = some j ↔ (x.slot j).track = some u
       (∀ i < 64, mayFree → (st.slot i).state = .free → (∀ j < i, (st.slot j).state ≠ .free) →
         st.allocation t = some i)
       ∧ (∀ before i after, ¬takesFree → st.cache = before ++ i :: after → (∀ j ∈ before, (st.slot j).pins ≠ 0) →
         (st.slot i).pins = 0 → st.allocation t = some i)
       ∧ (¬takesFree → (∀ i ∈ st.cache, (st.slot i).pins ≠ 0) → st.allocation t = none)
       ∧ (∀ i w, i < 64 →
         (st.takeSlot i t w).slot i = {
           state := .filling, track := some t, check := w, drivePin := false, linkPin := false, damaged := false
           freePending := false }
         ∧ ((st.takeSlot i t w).entry t).presence = .filling ∧ ((st.takeSlot i t w).entry t).slot = some i
         ∧ (∀ u, u ≠ t → u < 168 → (st.slot i).track = some u → ((st.takeSlot i t w).entry u).presence = .absent)
         ∧ (∀ j, j ≠ i → (st.takeSlot i t w).slot j = st.slot j)
         ∧ (st.takeSlot i t w).cache = st.cache.erase i ∧ (st.takeSlot i t w).mem = st.mem)
       ∧ (∀ i w, i < 64 → agrees st → agrees (st.freeSlot i)
         ∧ ((st.entry t).slot = none → agrees (st.takeSlot i t w))))

/-- The settlement of a RELEASE's fill (R30, R31, R46): its sectors are in the slot's bytes at their offsets, and no
other byte has changed. With the recipe's sectors in order and a good track check the track is HELD, HOME when it has
a place and else CACHE at the tail, its want entry leaves, and a track with a place leaves the repair list (R21);
else the slot is freed and the damage counted. -/
def Obligations.ReleaseSettlesTheFill : Prop :=
  ∀ (s : State) (r : JobRecord) (b : ReleaseBody) (i : Nat), s.jc.record = some r → s.store.fillOf b.track = some i →
    i < 64 → b.track < 168 →
    let st := Store.fillSectors r.recipe i none b.sectors s.store
    let good := b.sectors.map (·.1) = r.recipe.ids ∧ crc32 (st.trackData r.recipe i) = (s.store.slot i).check
    (s.settleFill b).store.mem = st.mem ∧ (s.settleFill b).store.fills = s.store.fills.erase i
    ∧ ((∀ p ∈ b.sectors, p.2.length = r.recipe.size) →
      (s.memorySound → b.sectors.map (·.1) = r.recipe.ids → ∀ z data, (z, data) ∈ b.sectors →
        Memory.readBytes (s.settleFill b).store.mem (i * 12288 + (z - r.recipe.firstId) * r.recipe.size) r.recipe.size
          = data)
      ∧ ∀ a, a < i * 12288 ∨ i * 12288 + r.recipe.sectors * r.recipe.size ≤ a →
        Memory.read (s.settleFill b).store.mem a = Memory.read s.store.mem a)
    ∧ (good →
      ((s.settleFill b).store.entry b.track).presence = .held
      ∧ ((s.settleFill b).store.entry b.track).slot = some i
      ∧ ((s.settleFill b).store.slot i).state = (if b.track ∈ s.store.allowance then .home else .cache)
      ∧ (s.settleFill b).store.cache = (if b.track ∈ s.store.allowance then s.store.cache else s.store.cache ++ [i])
      ∧ (s.settleFill b).store.reservation =
        (if b.track ∈ s.store.allowance then s.store.reservation - 1 else s.store.reservation)
      ∧ (s.settleFill b).du.has b.track = false
      ∧ (b.track ∈ s.store.allowance → (s.settleFill b).jc =
        { s.jc with record := some { r with repair := r.repair.erase b.track } })
      ∧ (¬ b.track ∈ s.store.allowance → (s.settleFill b).jc = s.jc))
    ∧ (¬good →
      (s.settleFill b).store.slot i = {} ∧ ((s.settleFill b).store.entry b.track).presence = .absent
      ∧ (s.settleFill b).lc.counters =
        { s.lc.counters with damaged := min (s.lc.counters.damaged + 1) 4294967295 }
      ∧ (s.settleFill b).jc = s.jc)

/-- RELEASE completes (R41, R51, R54): the station's own answer of the track is withdrawn, the fill settled, a GOOD
first pass raises the mark, as does a GOOD one of T − 1 of any reason, to T, after the last-track timeout, and no
other; LOST joins the lost set, a FETCH asks for its pin; an own RELEASE of the Source Sequencer moves it on. An own
one whose slot is damaged, or has failed its check, is cut off instead (R35, R36): the model's choice that this
command then does what RELEASE_CUT_OFF does (log 35). A LOST one of a track at or above T joins the lost set too: the
model's choice (log 41). FETCH (R82): a COPY job's track that is held here (R23: HELD in a slot neither damaged nor
free pending) is granted the drive pin while the path holds none, and the cycle goes to WRITE; without it the cycle
stays in FETCH. A FORMAT job asks for no pin. An answer suppressed is withdrawn (R54). -/
def Obligations.ReleaseIsAppliedInItsSteps : Prop :=
  (∀ (f : Rx) (s : State) (r : JobRecord) (b : ReleaseBody), s.receives → s.jc.record = some r →
     f.jobId = r.jobId → parseRelease f.body = some b →
     let heard := s.heard (.release b.track b.reason) f.sender
     let filled := (if f.sender = s.station then heard else heard.suppressAnswers b.track).settleFill b
     let marked := match b.status with
       | .good => filled.markRelease b
       | .lost => filled.lostRelease b.track
     (f.sender ≠ s.station → exec (.release f) s = .next ((marked.fetchTry.afterCompletion s).settle s))
     ∧ (f.sender = s.station → s.ownCheckFails f.sender = false →
       (s.lc.releaseOrigin b.track b.reason ≠ some .source →
         exec (.release f) s = .next ((marked.fetchTry.afterCompletion s).settle s))
       ∧ (s.lc.releaseOrigin b.track b.reason = some .source →
         exec (.release f) s = .next
           (((marked.sourceReleased b.track b.status b.reason).fetchTry.afterCompletion s).settle s)))
     ∧ (s.ownCheckFails f.sender = true → exec (.release f) s = exec (.releaseCutOff []) s)
     ∧ (∀ g t reason o z n w i, f.sender = s.station → s.lc.sending = some g →
       g.body = .release t .good reason o z n w → s.store.linkPinned = some i →
       (s.ownCheckFails f.sender = true ↔
         (s.store.slot i).damaged = true ∨ crc32 (s.store.trackData r.recipe i) ≠ (s.store.slot i).check))
     ∧ ((∀ t reason o z n w g, s.lc.sending = some g → g.body ≠ .release t .good reason o z n w) →
       s.ownCheckFails f.sender = false)
     ∧ (b.status = .good → b.reason = .firstPass → r.kind = .copy → b.track < r.tracks →
       marked.mark = some (max r.mark (b.track + 1)))
     ∧ (b.status = .good → r.kind = .copy → r.lastRun = true → b.track + 1 = r.tracks →
       marked.mark = some (max r.mark r.tracks))
     ∧ (b.status = .good → b.reason ≠ .firstPass → r.lastRun = false ∨ b.track + 1 ≠ r.tracks →
       marked.mark = some r.mark)
     ∧ (b.status = .lost ∨ r.kind = .format ∨ r.tracks ≤ b.track → marked.mark = some r.mark)
     ∧ (b.status = .lost → marked.du.has b.track = false ∧ (b.track ∈ marked.du.lost)))
  ∧ ((∀ (s : State) (r : JobRecord) (t : Nat), s.jc.record = some r → s.cs.disk.track = some t →
       let held (i : Nat) : Prop := (s.store.entry t).presence = .held ∧ (s.store.entry t).slot = some i
         ∧ (s.store.slot i).damaged = false ∧ (s.store.slot i).freePending = false
       s.toFetch = State.fetchTry { s with cs := { s.cs with state := .fetch } }
       ∧ (s.cs.state ≠ .fetch → s.fetchTry = s)
       ∧ s.toWrite.cs.state = .write ∧ s.toWrite.store = s.store
       ∧ (s.cs.state = .fetch →
         (r.kind = .format → s.fetchTry = s.toWrite)
         ∧ (∀ i, r.kind = .copy → s.store.drivePinned = none → held i →
           s.fetchTry = State.toWrite { s with store := s.store.setSlot i { s.store.slot i with drivePin := true } })
         ∧ (r.kind = .copy → s.store.drivePinned ≠ none ∨ (∀ i, ¬held i) → s.fetchTry = s)))
     ∧ ∀ (s : State) (t : Nat), s.suppressAnswers t = s.withdrawKey (.release t .answer))

/-- WANT_DEADLINE_EXPIRY (R48 to R50): an UNSENT entry's WANT is entered again; a WAITING one with attempts left asks
again, at the limit with the restore flag, and after the restore attempt gives up. That the command brings the clock
to the deadline (now) is the model's choice (log 2). Giving up (R50): a needed track is unobtainable and its entry
leaves; a repair track leaves the repair list, counts as home short, and gives up its place and its reservation. An
entry that leaves takes its WANT with it unless that has started (R46), also one that an earlier entry of the track
has left in the queue: the model's choice (log 58); one sent again is QUEUED, or UNSENT with its deadline where the
queue refuses the WANT (R45); an unobtainable track ends a disk in FETCH, WRITE or VERIFY with TRACK UNOBTAINABLE
(R89). LAST_TRACK_TIMEOUT (R41): with the mark at T − 1 in a COPY job the last track counts as below the mark; at
other times nothing happens. Its clock (now): log 2. -/
def Obligations.WantDeadlinesAskAgainAndGiveUp : Prop :=
  (∀ (s : State) (r : JobRecord) (t : Nat),
     (s.jc.record = none ∨ s.du.find t = none → exec (.wantDeadlineExpiry t) s = .next s)
     ∧ ∀ w d, s.jc.record = some r → s.du.find t = some w → w.deadline = some d →
       let s1 : State := { s with now := max s.now d }
       (w.phase = .queued → exec (.wantDeadlineExpiry t) s = .next (s1.settle s))
       ∧ (w.phase = .unsent → exec (.wantDeadlineExpiry t) s = .next ((s1.resendWant w r.jobId).settle s))
       ∧ (w.phase = .waiting → w.restore = false → w.attempt < s.pc.params.wantAttempts →
         exec (.wantDeadlineExpiry t) s = .next ((s1.resendWant { w with attempt := w.attempt + 1 } r.jobId).settle s))
       ∧ (w.phase = .waiting → w.restore = false → s.pc.params.wantAttempts ≤ w.attempt →
         exec (.wantDeadlineExpiry t) s = .next ((s1.resendWant { w with restore := true } r.jobId).settle s))
       ∧ (w.phase = .waiting → w.restore = true → exec (.wantDeadlineExpiry t) s = .next ((s1.giveUp w.track).settle s)))
  ∧ (∀ (s : State) (t : Nat), s.du.has t = true →
       (s.du.need.any (fun w => decide (w.track = t)) = true → s.giveUp t = (s.removeWant t).unobtainable)
       ∧ (s.du.need.any (fun w => decide (w.track = t)) = false → ∀ r, s.jc.record = some r →
         (s.giveUp t).jc.record = some { r with repair := r.repair.erase t, homeShort := r.homeShort + 1 }
         ∧ (s.giveUp t).store.reservation = s.store.reservation - 1
         ∧ (s.giveUp t).store.allowance = s.store.allowance.erase t
         ∧ (s.giveUp t).du.has t = false))
  ∧ ((∀ (s : State) (t : Nat),
       (s.du.has t = true ↔ ∃ w, (w ∈ s.du.need ∨ w ∈ s.du.repair) ∧ w.track = t)
       ∧ (s.du.has t = false → s.removeWant t = s)
       ∧ (s.du.has t = true → s.removeWant t = State.withdrawKey (.want t) { s with du := { s.du with
         need := s.du.need.filter fun w => !decide (w.track = t)
         repair := s.du.repair.filter fun w => !decide (w.track = t) } })
       ∧ (s.removeWant t).du.has t = false
       ∧ (s.cs.state = .fetch ∨ s.cs.state = .write ∨ s.cs.state = .verify →
         s.unobtainable = s.reject .trackUnobtainable)
       ∧ (s.cs.state ≠ .fetch → s.cs.state ≠ .write → s.cs.state ≠ .verify → s.unobtainable = s))
     ∧ ∀ (s : State) (w : Want) (j : JobId),
       let listed (x : Want) : Distribution := { s.du with
         need := s.du.need.map fun y => if y.track = w.track then x else y
         repair := s.du.repair.map fun y => if y.track = w.track then x else y }
       (s.boot = .ready → s.lc.has (.want w.track) = false → s.lc.queue.length < 6 → s.resendWant w j = { s with
         lc := { s.lc with queue := s.lc.queue ++ [{ body := .want w.track w.attempt w.restore, jobId := j }] }
         du := listed { w with phase := .queued, deadline := none } })
       ∧ (s.boot ≠ .ready ∨ s.lc.has (.want w.track) = true ∨ 6 ≤ s.lc.queue.length → s.resendWant w j = { s with
         du := listed { w with phase := .unsent, deadline := some (s.now + s.pc.params.wantTimeout * 1000) } }))
  ∧ (∀ (s : State) (r : JobRecord), s.jc.record = some r →
       (r.kind = .copy → r.mark + 1 = r.tracks → r.lastRun = false →
         exec .lastTrackTimeout s = .next (State.settle { s with
           now := max s.now (r.markAt + s.pc.params.restoreTimeout * 1000)
           jc := { s.jc with record := some { r with lastRun := true } } } s)
         ∧ { r with lastRun := true }.released (r.tracks - 1) = true)
       ∧ (r.kind = .format ∨ r.mark + 1 ≠ r.tracks ∨ r.lastRun = true → exec .lastTrackTimeout s = .next s))

/-- The need test (R42, R43): of a MEMBER's COPY job the window is the current track to the lookahead, below T; a
window track neither held nor filling nor listed is asked for when it is below the mark, or unobtainable when it is
lost. The order of the window tracks is the model's choice (log 40). The repair feed (R58): while fewer than 3 repair
entries stand, the lowest repair list track that is eligible (not listed, not held, not filling, below the mark, not
lost) gets one; after it no further one could. When the two are made (R42, R58): the need test where the current
track, the mark or its last-track timeout has changed, a window track has stopped being held or its slot has been
freed, or an entry has left. That these are found by comparing the states before and after, and that the repair feed
is made at the end of every such command, is the model's reading (log 28; after a master read of a repair track
without a good end its choice, log 54); first for a track newly on the repair list, and the need test first at every
other event: the model's choice (log 39). -/
def Obligations.NeedTestAsksForTheWindow : Prop :=
  (∀ (s : State) (r : JobRecord), s.jc.record = some r →
     (∀ u, u ∈ s.window ↔ ∃ c, s.cs.disk.live = true ∧ s.cs.disk.track = some c ∧ r.kind = .copy ∧ r.role = .member
       ∧ c ≤ u ∧ u ≤ c + s.pc.params.lookahead ∧ u < r.tracks)
     ∧ s.needTest = s.window.foldl (fun s u => s.needTestOf u) s ∧ s.window.Pairwise (· < ·)
     ∧ (∀ u, r.released u = true ↔ u < r.mark ∨ r.lastRun = true ∧ u + 1 = r.tracks)
     ∧ ∀ u ∈ s.window,
       (s.held u = true ∨ s.isFilling u = true ∨ s.du.has u = true → s.needTestOf u = s)
       ∧ (s.held u = false → s.isFilling u = false → s.du.has u = false →
         (u ∈ s.du.lost → s.needTestOf u = s.unobtainable)
         ∧ (¬ u ∈ s.du.lost → r.released u = false → s.needTestOf u = s)
         ∧ (¬ u ∈ s.du.lost → r.released u = true → s.boot = .ready → s.lc.has (.want u) = false →
           s.lc.queue.length < 6 → s.needTestOf u = { s with
             lc := { s.lc with queue := s.lc.queue ++ [{ body := .want u 1 false, jobId := r.jobId }] }
             du := { s.du with need := insertWant ⟨u, 1, false, .queued, none⟩ s.du.need } })
         ∧ (¬ u ∈ s.du.lost → r.released u = true → 6 ≤ s.lc.queue.length → s.needTestOf u = { s with du := { s.du with
             need := insertWant ⟨u, 1, false, .unsent, some (s.now + s.pc.params.wantTimeout * 1000)⟩ s.du.need } })))
  ∧ (∀ (s : State) (r : JobRecord), s.jc.record = some r →
       let eligible := fun u => s.du.has u = false ∧ s.held u = false ∧ s.isFilling u = false ∧ r.released u = true
         ∧ ¬ u ∈ s.du.lost
       (3 ≤ s.du.repair.length ∨ (∀ u ∈ r.repair, ¬eligible u) → s.feedOne = s)
       ∧ (∀ before u after, s.du.repair.length < 3 → r.repair = before ++ u :: after → (∀ x ∈ before, ¬eligible x) →
         eligible u →
         (s.boot = .ready → s.lc.has (.want u) = false → s.lc.queue.length < 6 → s.feedOne = { s with
           lc := { s.lc with queue := s.lc.queue ++ [{ body := .want u 1 false, jobId := r.jobId }] }
           du := { s.du with repair := insertWant ⟨u, 1, false, .queued, none⟩ s.du.repair } })
         ∧ (6 ≤ s.lc.queue.length → s.feedOne = { s with du := { s.du with
             repair := insertWant ⟨u, 1, false, .unsent, some (s.now + s.pc.params.wantTimeout * 1000)⟩ s.du.repair } }))
       ∧ s.repairFeed = s.feedOne.feedOne.feedOne ∧ s.repairFeed.feedOne = s.repairFeed
       ∧ (s.du.repair.length ≤ 3 → s.repairFeed.du.repair.length ≤ 3)
       ∧ s.repairFeed.du.need = s.du.need ∧ s.repairFeed.cs = s.cs ∧ s.repairFeed.store = s.store)
  ∧ (∀ (s before : State),
       (s.callsNeedTest before = true ↔
         s.cs.current ≠ before.cs.current
         ∨ s.jc.record.map (fun r => (r.mark, r.lastRun)) ≠ before.jc.record.map (fun r => (r.mark, r.lastRun))
         ∨ (∃ u ∈ s.window, before.held u = true ∧ s.held u = false
           ∨ (before.store.entry u).presence ≠ .absent ∧ (s.store.entry u).presence = .absent)
         ∨ ∃ w, (w ∈ before.du.need ∨ w ∈ before.du.repair) ∧ s.du.has w.track = false)
       ∧ (s.repairGained before = true ↔ ∃ r b t, s.jc.record = some r ∧ before.jc.record = some b ∧ t ∈ r.repair
         ∧ ¬ t ∈ b.repair)
       ∧ (s.callsNeedTest before = false → s.repairGained before = false → s.settle before = s.repairFeed)
       ∧ (s.callsNeedTest before = false → s.repairGained before = true → s.settle before = s.repairFeed)
       ∧ (s.callsNeedTest before = true → s.repairGained before = false → s.settle before = s.needTest.repairFeed)
       ∧ (s.callsNeedTest before = true → s.repairGained before = true →
         s.settle before = s.repairFeed.needTest.repairFeed))

/-! ### Sending -/

/-- What every frame completion does first: an own frame leaves the queue, a RELEASE with its link pin, and the
sender's hold-off view ends. What a frame completion is handed on for, in order: the HOLD-OFF test at a return of the
view to none (R155), none being made where a HOLD-OFF of the view's own holder renews it (the model's choice, log
43); a waiting CLAIM filled again or withdrawn (R64); a CLAIM and a TALLY held back entered again (R63, R69); a JOB
CLOSE whose conditions have lapsed withdrawn (R11). That these come in this order, after the frame's own effect and
before settle, is the model's choice (log 49). It leaves everything but the queue, the cycle's STANDBY and the lines
that go with it; with no CLAIM of its own waiting, no TALLY owed, no JOB CLOSE queued and no view ended it changes
nothing. What settle leaves as it was: everything but the queue, the want list, the disk it may end, and the drive
pin and lines that go with it; with no record held it changes nothing. -/
def Obligations.CompletionAndSettleLeaveTheRest : Prop :=
  (∀ (k : FrameKey) (sender : StationId) (s : State),
     (sender ≠ s.station ∨ s.lc.has k = false →
       s.heard k sender = { s with lc := { s.lc with
         view := match s.lc.view with
           | some v => if v.holder = sender then none else some v
           | none => none } })
     ∧ (sender = s.station → s.lc.has k = true →
       let left := match k with
         | .release _ _ => (s.dequeue k).releaseLinkPin
         | _ => s.dequeue k
       s.heard k sender = { left with lc := { left.lc with
         view := match s.lc.view with
           | some v => if v.holder = sender then none else some v
           | none => none } }))
  ∧ (∀ s before : State,
       s.afterCompletion before = (((before.holdOffReturn s).claimRefill.claimAgain).enterTally).closeLapse
       ∧ (before.lc.view.isSome = true → s.lc.view = none → before.holdOffReturn s = s.holdOffTest)
       ∧ (before.lc.view = none ∨ s.lc.view.isSome = true → before.holdOffReturn s = s)
       ∧ (s.closeConditions = true → s.closeLapse = s) ∧ (s.closeConditions = false → s.closeLapse = s.withdrawKey .jobClose)
       ∧ (s.afterCompletion before).jc = s.jc ∧ (s.afterCompletion before).store = s.store
       ∧ (s.afterCompletion before).du = s.du ∧ (s.afterCompletion before).ss = s.ss
       ∧ (s.afterCompletion before).vu = s.vu ∧ (s.afterCompletion before).lc.counters = s.lc.counters
       ∧ (s.afterCompletion before).lc.presence = s.lc.presence ∧ (s.afterCompletion before).lc.view = s.lc.view
       ∧ (s.afterCompletion before).lc.foreign = s.lc.foreign ∧ (s.afterCompletion before).now = s.now
       ∧ (s.afterCompletion before).pc.params = s.pc.params ∧ (s.afterCompletion before).station = s.station
       ∧ (before.lc.view = none ∨ s.lc.view.isSome = true → s.lc.waiting .claim = false → s.cs.state ≠ .claim →
         s.cs.state ≠ .tally → s.lc.waiting .jobClose = false → s.lc.lossFor = none → s.afterCompletion before = s))
  ∧ (∀ s before : State,
       let t := s.settle before
       (s.jc.record = none → t = s)
       ∧ t.pending = s.pending ∧ t.now = s.now ∧ t.station = s.station ∧ t.boot = s.boot
       ∧ t.ss = s.ss ∧ t.fixed = s.fixed ∧ t.account = s.account ∧ t.jobState = s.jobState
       ∧ t.mark = s.mark ∧ t.departed = s.departed ∧ t.jc.nextBase = s.jc.nextBase
       ∧ t.store.mem = s.store.mem ∧ t.store.allowance = s.store.allowance
       ∧ t.lc.presence = s.lc.presence ∧ t.lc.view = s.lc.view ∧ t.lc.foreign = s.lc.foreign
       ∧ t.pc.params = s.pc.params ∧ t.pc.directory = s.pc.directory)

/-! ### Drive port, copy cycle and source -/

/-- INDEX_EDGE (R144, R145, R148): the clock, the line, the counter, index seen on an open request, and with MOTOR
active in a job a capture, or the start of the timing with no edge on record; then the write and the request take the
edge, each as its own statement says. Model's choices: the clock comes to the edge's time (now, log 2); a counter at
its last edge stands at 0 until the command that reports its expiry makes it idle (log 3); the edge carries the level
of TRK0 (log 16). -/
def Obligations.IndexEdgeCapturesAndCounts : Prop :=
  ∀ (time : Nat) (trk0 : Bool) (s : State),
    let now := max s.now time
    let sp := s.dp.spindle
    let captured (x : Spindle) : State := { s with
      now := now
      dp := { s.dp with
        trk0 := trk0, counter := s.dp.counter.map (· - 1), spindle := x
        qualify := s.dp.qualify.map fun q => { q with seen := true } } }
    let goesOn (x : Spindle) : State := ((captured x).writeEdge.qualifyEdge sp.qualified).settle s
    (s.dp.motor = false ∨ s.jc.record = none → exec (.indexEdge time trk0) s = .next (goesOn sp))
    ∧ ∀ r, s.dp.motor = true → s.jc.record = some r →
      (sp.lastEdge = none → exec (.indexEdge time trk0) s =
        .next (goesOn { sp with lastEdge := some now, watch := some now }))
      ∧ ∀ e, sp.lastEdge = some e →
        let period := now - e
        let n := r.recipe.nominal.period
        let off := if period < n then n - period else period - n
        (off * 1000 ≤ n * r.recipe.tolerance → exec (.indexEdge time trk0) s = .next (goesOn {
          period := some period, inTol := true, count := min (sp.count + 1) 3
          qualified := sp.qualified || decide (min (sp.count + 1) 3 = 3)
          lastEdge := some now, watch := some now }))
        ∧ (¬ off * 1000 ≤ n * r.recipe.tolerance → exec (.indexEdge time trk0) s = .next (goesOn {
          period := some period, inTol := false, count := 0, qualified := sp.qualified
          lastEdge := some now, watch := some now }))

/-- The INDEX edges of a write (R83, R84, R139): at the armed edge WPROT rejects the disk as PROTECTED, else WGATE
goes active with the stream, unless the port does not allow it, which leaves the write armed (log 10, the model's
choice); the next edge is the completing one. That it only marks the write as completing, and WGATE drops with
WRITE_COMPLETION (R135 has it drop at the edge), is the model's choice (log 3). WPROT_CHANGE (R139): the line;
becoming active while WGATE is active in WRITE it drops the gate and rejects the disk as PROTECTED. WGATE is never
active beside an active WPROT after it. A disk rejected (R87, R88): its fault is recorded as the first or as one
more, then the gate drops, a running verify ends, the drive pin is released, MOTOR and SELECT go, the current track
is gone and the need part with its WANTs not started; with a serial or a conflict the cycle goes to TALLY, else to
OUT with EJECT and its history entry. -/
def Obligations.WriteGateOpensAndDrops : Prop :=
  (∀ s : State,
     (s.cs.state ≠ .write → s.writeEdge = s)
     ∧ (s.cs.state = .write →
       (s.cs.phase = some .armed → s.dp.wprot = true → s.writeEdge = s.reject .protected_)
       ∧ (s.cs.phase = some .armed → s.dp.wprot = false → s.role = some .member → s.dp.motor = true →
         s.dp.select = true → s.dp.motion = none → s.writeEdge = { s with
           dp := { s.dp with wgate := true }
           tb := some { since := s.now }
           cs := { s.cs with phase := some .writing } })
       ∧ (s.cs.phase = some .armed → s.dp.wprot = false →
         s.role ≠ some .member ∨ s.dp.motor = false ∨ s.dp.select = false ∨ s.dp.motion ≠ none → s.writeEdge = s)
       ∧ (s.cs.phase = some .writing → s.writeEdge = { s with cs := { s.cs with phase := some .completing } })
       ∧ (s.cs.phase ≠ some .armed → s.cs.phase ≠ some .writing → s.writeEdge = s)))
  ∧ (∀ (active : Bool) (s : State),
       (active = false ∨ s.dp.wgate = false →
         exec (.wprotChange active) s = .next (State.settle { s with dp := { s.dp with wprot := active } } s))
       ∧ (active = true → s.dp.wgate = true → s.cs.state = .write → exec (.wprotChange active) s = .next
         ((State.reject .protected_ { s with dp := { s.dp with wprot := true, wgate := false }, tb := none }).settle s))
       ∧ (active = true → s.dp.wgate = true → s.cs.state ≠ .write → exec (.wprotChange active) s = .next
         (State.settle { s with dp := { s.dp with wprot := true, wgate := false }, tb := none } s)))
  ∧ (∀ (s : State) (f : DiskFault) (o : DiskOutcome),
       let u := s.endUse
       let t := s.endDisk o
       let d := s.cs.disk
       s.reject f = State.endDisk .rejected { s with cs := { s.cs with disk := d.record f } }
       ∧ u.dp = { s.dp with
           motor := false, select := false, wgate := false, spindle := {}, counter := none, qualify := none
           motion := none, step := s.dp.step && s.dp.motion.isNone
           cylinder := if s.dp.motion.isSome then none else s.dp.cylinder }
       ∧ u.tb = none ∧ (∀ v, s.vu = some v → u.vu = if v.running then none else some v) ∧ (s.vu = none → u.vu = none)
       ∧ u.store = s.releaseDrivePin.store ∧ u.jc = s.releaseDrivePin.jc
       ∧ u.cs = { s.cs with phase := none, disk := { d with live := false } } ∧ u.du = { s.du with need := [] }
       ∧ u.lc.queue = s.lc.queue.filter (fun g => !(s.du.need.any fun w => decide (g.key = .want w.track)) || g.started)
       ∧ u.lc.counters = s.lc.counters ∧ u.ss = s.ss ∧ u.pc = s.pc ∧ u.now = s.now
       ∧ (d.serial.isSome = true ∨ d.conflict = true →
         t = State.enterTally { u with cs := { u.cs with state := .tally, outcome := some o } })
       ∧ (d.serial = none → d.conflict = false →
         t.cs = { u.cs with state := .out, outcome := some o, pulled := false }
         ∧ t.dp = { u.dp with lock := false, ejectEnds := some (s.dp.ejectEnds.getD (s.now + 100000)) }
         ∧ t.pc = { s.pc with history :=
             (if s.pc.history.length < 8 then s.pc.history else s.pc.history.drop 1) ++ [{
               outcome := o, serial := none, first := d.first, further := d.further, verified := d.verified
               cause := none }] }
         ∧ t.lc.queue = u.lc.queue ∧ t.store = u.store ∧ t.du = u.du ∧ t.jc = u.jc
         ∧ (o = .rejected → t.lc.counters =
           { s.lc.counters with rejected := min (s.lc.counters.rejected + 1) 4294967295 })))

/-- The answer to a qualify request (R79, R83, R111, R112, R145): the edge that qualifies the spindle closes it and
moves SPINUP to HOME with a recalibrate, which TRK0 ends at once, in the copy cycle and in the Source Sequencer
alike, arms a waiting write, or starts a waiting search. QUALIFY_LIMIT_EXPIRY (R145): SPINUP and a waiting write end
the disk with SPEED or NO INDEX, a source's SPINUP abandons the job, a waiting master read fails; with no request
open nothing happens. Its clock (now) is the model's choice (log 2). -/
def Obligations.QualifyRequestIsAnsweredOrExpires : Prop :=
  (∀ (s : State) (r : JobRecord), s.jc.record = some r →
     let closed : State := { s with dp := { s.dp with qualify := none } }
     let home : Drive := { closed.dp with
       head := false, dir := false, step := true
       motion := some { kind := .recalibrate none, pulses := 1, ends := s.now + r.recipe.stepTime * 1000 } }
     let atTrk0 : Drive := { closed.dp with head := false, dir := false, cylinder := some 0 }
     s.qualifyEdge true = s
     ∧ (s.dp.qualify = none ∨ s.dp.spindle.qualified = false → s.qualifyEdge false = s)
     ∧ ∀ q, s.dp.qualify = some q → s.dp.spindle.qualified = true →
       (r.role = .member → s.cs.state = .spinup → s.dp.motion = none → s.dp.wgate = false →
         (s.dp.trk0 = false → s.qualifyEdge false =
           { closed with cs := { s.cs with state := .home }, dp := home })
         ∧ (s.dp.trk0 = true → s.qualifyEdge false =
           State.askClaim { closed with cs := { s.cs with state := .claim }, dp := atTrk0 }))
       ∧ (r.role = .source → s.ss.state = .spinup → s.dp.motion = none → s.dp.wgate = false →
         (s.dp.trk0 = false → s.qualifyEdge false =
           { closed with ss := { s.ss with state := .home }, dp := home })
         ∧ (s.dp.trk0 = true → s.qualifyEdge false =
           State.decision { closed with ss := { s.ss with state := .home }, dp := atTrk0 }))
       ∧ (r.role = .member → s.cs.state = .write → s.cs.phase = some .requalify →
         s.qualifyEdge false = { closed with cs := { s.cs with phase := some .armed } })
       ∧ (∀ m, r.role = .source → s.ss.state ≠ .spinup → s.ss.read = some m → m.phase = .requalify →
         s.qualifyEdge false = { closed with
           ss := { s.ss with read := some { m with phase := .searching, unsettled := r.recipe.ids, reading := none } }
           dp := { closed.dp with counter := some (r.recipe.masterRevs - 1 + 1) } })
       ∧ (r.role = .observer → s.qualifyEdge false = closed))
  ∧ (∀ (s : State) (r : JobRecord), s.jc.record = some r →
       (s.dp.qualify = none → exec .qualifyLimitExpiry s = .next (s.settle s))
       ∧ ∀ q, s.dp.qualify = some q →
         let closed : State := { s with now := max s.now q.limit, dp := { s.dp with qualify := none } }
         (r.role = .member → s.cs.state = .spinup ∨ s.cs.state = .write ∧ s.cs.phase = some .requalify →
           exec .qualifyLimitExpiry s = .next ((closed.reject (if q.seen then .speed else .noIndex)).settle s))
         ∧ (r.role = .source → s.ss.state = .spinup →
           exec .qualifyLimitExpiry s = .next ((closed.sourceAbandon .masterUnreadable).settle s))
         ∧ (∀ m, r.role = .source → s.ss.state ≠ .spinup → s.ss.read = some m → m.phase = .requalify →
           exec .qualifyLimitExpiry s = .next ((closed.readFailed .masterUnreadable).settle s))
         ∧ (r.role = .observer → exec .qualifyLimitExpiry s = .next (closed.settle s)))

/-- WRITE_COMPLETION (R84 to R86): WGATE drops and the stream stops; a write in tolerance that reached gap-4, of a
sound slot in a COPY job, is good, any other is one failed attempt with its faults in order. That the completing edge
and this command are two is the model's choice (log 3). A good write goes to VERIFY with the counter armed, or in
mode OFF the track is verified at once (R84, R85, R98). A failed attempt (R86) records its faults in order, the first
as the disk's and each other one as one more (R87), and raises the attempts: within the retry limit it is written
again, or with STORE DAMAGE among them, whatever else there is, the pin is released and the track fetched again; past
the limit the disk is rejected, in either case. Entry to WRITE (R83): the seek to the track's cylinder and head;
where no motion is needed the write is armed at once, or waits for a qualified spindle; from an unknown cylinder a
recalibrate comes first (R141). A seek that a motion in progress refuses changes nothing: the model's choice (log
10). -/
def Obligations.WriteCompletionJudgesTheWrite : Prop :=
  (∀ (u : Upset) (s : State) (r : JobRecord), s.jc.record = some r →
     (s.cs.state ≠ .write ∨ s.cs.phase ≠ some .completing → exec (.writeCompletion u) s = .next (s.settle s))
     ∧ (s.cs.state = .write → s.cs.phase = some .completing →
       let stopped : State := { s with
         dp := { s.dp with wgate := false }, tb := none, cs := { s.cs with phase := none } }
       let faults := (if s.dp.spindle.inTol then [] else [DiskFault.speed])
         ++ if r.recipe.reachesGap4 (s.dp.spindle.period.getD 0) then [] else [.overrun]
       (r.kind = .format ∨ s.store.drivePinned = none →
         (faults = [] → exec (.writeCompletion u) s = .next (stopped.writeGood.settle s))
         ∧ (faults ≠ [] → exec (.writeCompletion u) s = .next ((stopped.failedAttempt faults).settle s)))
       ∧ (∀ i, r.kind = .copy → s.store.drivePinned = some i →
         let read : State := { stopped with store := s.store.upset i u }
         let sound := decide (crc32 (read.store.trackData r.recipe i) = (s.store.slot i).check)
         (sound = true → (s.store.slot i).damaged = false → faults = [] →
           exec (.writeCompletion u) s = .next (read.writeGood.settle s))
         ∧ (sound = true → (s.store.slot i).damaged = false → faults ≠ [] →
           exec (.writeCompletion u) s = .next ((read.failedAttempt faults).settle s))
         ∧ (sound = true → (s.store.slot i).damaged = true →
           exec (.writeCompletion u) s = .next ((read.failedAttempt (faults ++ [.storeDamage])).settle s))
         ∧ (sound = false → exec (.writeCompletion u) s =
           .next (((read.markDamaged i).failedAttempt (faults ++ [.storeDamage])).settle s)))))
  ∧ (∀ (s : State) (r : JobRecord) (t : Nat), s.jc.record = some r → s.cs.disk.track = some t →
       (r.recipe.verify ≠ .off → s.writeGood.cs.state = .verify
         ∧ s.writeGood.dp = { s.dp with counter := some (r.recipe.verifyRevs + 1) }
         ∧ s.writeGood.vu = some {
             track := t, cylinder := t / r.recipe.heads, head := t % r.recipe.heads
             entries := r.recipe.ids.map fun i => {
               id := i, outcome := .missing, stamp := r.recipe.stampPart t i (s.cs.disk.serial.getD 0) }
             running := true, reading := none })
       ∧ (r.recipe.verify = .off → s.writeGood = s.trackVerified)
       ∧ (t + 1 < r.tracks → s.trackVerified = State.toFetch { s.releaseDrivePin with cs := { s.cs with
         disk := { s.cs.disk with verified := s.cs.disk.verified + 1, track := some (t + 1), attempts := 0 } } })
       ∧ (r.tracks ≤ t + 1 → s.cs.disk.serial.isSome = true → s.trackVerified.cs.state = .tally
         ∧ s.trackVerified.cs.outcome = some .accepted ∧ s.trackVerified.cs.disk.verified = s.cs.disk.verified + 1
         ∧ s.trackVerified.dp.motor = false)
       ∧ (∀ (f : DiskFault) (d : Disk), (d.first = none → d.record f = { d with first := some f })
         ∧ (d.first.isSome = true → d.record f = { d with further := min (d.further + 1) 255 }))
       ∧ ∀ faults : List DiskFault,
         let failed : State := { s with cs := { s.cs with disk :=
           { faults.foldl (fun d f => d.record f) s.cs.disk with attempts := s.cs.disk.attempts + 1 } } }
         (¬ DiskFault.storeDamage ∈ faults →
           (s.cs.disk.attempts + 1 ≤ r.recipe.writeRetry → s.failedAttempt faults = failed.toWrite)
           ∧ (r.recipe.writeRetry < s.cs.disk.attempts + 1 → s.failedAttempt faults = failed.endDisk .rejected))
         ∧ (DiskFault.storeDamage ∈ faults →
           (s.cs.disk.attempts + 1 ≤ r.recipe.writeRetry → s.failedAttempt faults = failed.releaseDrivePin.toFetch)
           ∧ (r.recipe.writeRetry < s.cs.disk.attempts + 1 →
             s.failedAttempt faults = failed.releaseDrivePin.endDisk .rejected)))
  ∧ (∀ (s : State) (r : JobRecord) (t : Nat), s.jc.record = some r → s.cs.disk.track = some t →
       let c := t / r.recipe.heads
       let h := decide (t % r.recipe.heads = 1)
       let write (phase : WritePhase) (dp : Drive) : State :=
         { s with cs := { s.cs with state := .write, phase := some phase }, dp := dp }
       let settles : Motion := { kind := .seek c h, settling := true, ends := s.now + r.recipe.headSettle * 1000 }
       let steps (cur : Nat) : Motion := {
         kind := .seek c h, pulses := 1, toGo := (if c < cur then cur - c else c - cur) * r.recipe.stepMult - 1
         ends := s.now + r.recipe.stepTime * 1000 }
       let there (dp : Drive) : Prop :=
         (s.dp.spindle.qualified = true → s.toWrite = write .armed dp)
         ∧ (s.dp.spindle.qualified = false →
           s.toWrite = write .requalify { dp with qualify := some { limit := s.now + s.pc.params.spinUpLimit * 1000 } })
       let home : Drive := { s.dp with head := false, dir := false, cylinder := some 0 }
       (s.dp.motion ≠ none → s.toWrite = write .seeking s.dp)
       ∧ (s.dp.motion = none → s.dp.wgate = false →
         (s.dp.cylinder = some c → s.dp.head = h → there s.dp)
         ∧ (s.dp.cylinder = some c → s.dp.head ≠ h →
           s.toWrite = write .seeking { s.dp with head := h, motion := some settles })
         ∧ (∀ cur, s.dp.cylinder = some cur → cur ≠ c →
           s.toWrite = write .seeking { s.dp with dir := decide (cur < c), step := true, motion := some (steps cur) })
         ∧ (s.dp.cylinder = none → s.dp.trk0 = false → s.toWrite = write .seeking { s.dp with
             head := false, dir := false, step := true
             motion := some {
               kind := .recalibrate (some (c, h)), pulses := 1, ends := s.now + r.recipe.stepTime * 1000 } })
         ∧ (s.dp.cylinder = none → s.dp.trk0 = true →
           (c ≠ 0 → s.toWrite = write .seeking { home with dir := true, step := true, motion := some (steps 0) })
           ∧ (c = 0 → h = true → s.toWrite = write .seeking { home with head := true, motion := some settles })
           ∧ (c = 0 → h = false → there home))))

/-- REVOLUTION_COUNTER_EXPIRY: with the counter at its last edge it goes idle; a verify that runs ends with its fault
or as verified, after the check of its slot in a FULL COPY verify, which with a slot that fails it, or is damaged
already, fetches the track again; a master read that searches fails. With the counter idle or running nothing
happens. That the counter stands at 0 until this command is the model's choice (log 3). NO_INDEX (R146): after two
nominal periods the spindle record is cleared and WGATE drops; a write or a verify is one failed attempt with NO
INDEX, and a master read's search fails. Its clock (now) is the model's choice (log 2). -/
def Obligations.CounterExpiryAndNoIndexEndTheRead : Prop :=
  (∀ (u : Upset) (s : State) (r : JobRecord), s.jc.record = some r →
     (s.dp.counter ≠ some 0 → exec (.revolutionCounterExpiry u) s = .next (s.settle s))
     ∧ (s.dp.counter = some 0 →
       let idle : State := { s with dp := { s.dp with counter := none } }
       (∀ v, r.role = .member → s.cs.state = .verify → s.vu = some v → v.running = true →
         let ended : State := { idle with vu := some { v with running := false, reading := none } }
         (r.recipe.verify ≠ .full ∨ r.kind = .format ∨ s.store.drivePinned = none →
           (v.fault = none → exec (.revolutionCounterExpiry u) s = .next (ended.trackVerified.settle s))
           ∧ (∀ f, v.fault = some f →
             exec (.revolutionCounterExpiry u) s = .next ((ended.failedAttempt [f]).settle s)))
         ∧ (∀ i, r.recipe.verify = .full → r.kind = .copy → s.store.drivePinned = some i →
           let read : State := { ended with store := s.store.upset i u }
           let sound := crc32 (read.store.trackData r.recipe i) = (s.store.slot i).check
           (sound → (s.store.slot i).damaged = false →
             (v.fault = none → exec (.revolutionCounterExpiry u) s = .next (read.trackVerified.settle s))
             ∧ (∀ f, v.fault = some f →
               exec (.revolutionCounterExpiry u) s = .next ((read.failedAttempt [f]).settle s)))
           ∧ (sound → (s.store.slot i).damaged = true →
             exec (.revolutionCounterExpiry u) s = .next ((read.releaseDrivePin.toFetch).settle s))
           ∧ (¬sound → exec (.revolutionCounterExpiry u) s =
             .next (((read.markDamaged i).releaseDrivePin.toFetch).settle s))))
       ∧ (r.role = .member → s.cs.state ≠ .verify ∨ s.vu = none →
         exec (.revolutionCounterExpiry u) s = .next (idle.settle s))
       ∧ (∀ m, r.role = .source → s.ss.read = some m →
         (m.phase = .searching →
           exec (.revolutionCounterExpiry u) s = .next ((idle.readFailed .masterUnreadable).settle s))
         ∧ (m.phase ≠ .searching → exec (.revolutionCounterExpiry u) s = .next (idle.settle s)))
       ∧ (r.role = .observer ∨ r.role = .source ∧ s.ss.read = none →
         exec (.revolutionCounterExpiry u) s = .next (idle.settle s))))
  ∧ (∀ (s : State) (r : JobRecord) (w : Nat), s.jc.record = some r → s.dp.spindle.watch = some w →
       let gone : State := { s with
         now := max s.now (w + 2 * r.recipe.nominal.period)
         dp := { s.dp with spindle := {}, wgate := false } }
       (s.dp.motor = false → exec .noIndex s = .next (s.settle s))
       ∧ (s.dp.motor = true →
         (r.role = .member → s.cs.state = .write → s.cs.phase = some .writing ∨ s.cs.phase = some .completing →
           exec .noIndex s = .next ((State.failedAttempt [.noIndex]
             { gone with tb := none, cs := { s.cs with phase := none } }).settle s))
         ∧ (r.role = .member → s.cs.state = .verify →
           exec .noIndex s = .next ((gone.endVerify.failedAttempt [.noIndex]).settle s))
         ∧ (∀ m, r.role = .source → s.ss.read = some m →
           (m.phase = .searching → exec .noIndex s = .next ((gone.readFailed .masterUnreadable).settle s))
           ∧ (m.phase ≠ .searching → exec .noIndex s = .next (gone.settle s)))
         ∧ (r.role = .observer ∨ r.role = .member ∧ s.cs.state ≠ .write ∧ s.cs.state ≠ .verify
           ∨ r.role = .source ∧ s.ss.read = none → exec .noIndex s = .next (gone.settle s))))

/-- A seek (R140, R141) and a recalibrate (R142) as they begin: direction, first pulse and its end; from the wanted
cylinder only a head change settles; from an unknown one a recalibrate comes first; at TRK0 a recalibrate ends at
once; a motion in progress refuses both (R137). STEP_TIME_END (R141, R142): a seek gives its next pulse or, after the
last, sets HEAD and settles; a recalibrate steps until TRK0, settles there, and fails after 90 pulses, which rejects
the disk, or abandons the job in the Source Sequencer's HOME, or fails the master's read; while settling or at rest
nothing happens. That STEP stays active to the end of the last step time and HEAD is set there is the model's choice
(log 19), its clock (now) log 2's. HEAD_SETTLE_END (R80, R83, R111, R112, R141, R142): a seek is good, or fails at
cylinder 0 with TRK0 inactive, and arms the write or ends the disk, starts the master's search or fails its read; a
recalibrate ends at cylinder 0, and the cycle goes to CLAIM, the Source Sequencer to its decision, or the seek it was
made for begins, one to cylinder 0 and the head already selected being good there. That a seek to cylinder 0 which
only selects a head reads TRK0 too is the model's choice (log 42), its clock (now) log 2's. -/
def Obligations.HeadMotionsBeginStepAndSettle : Prop :=
  (∀ (r : Recipe) (now c : Nat) (h : Bool) (dp : Drive),
     (dp.motion.isSome = true → dp.requestSeek r now c h = (dp, false) ∧ dp.requestRecalibrate r now = (dp, false))
     ∧ (dp.motion = none → dp.wgate = false →
       (∀ cur, dp.cylinder = some cur → cur ≠ c → dp.requestSeek r now c h = ({ dp with
         dir := decide (cur < c), step := true
         motion := some {
           kind := .seek c h, pulses := 1
           toGo := (if c < cur then cur - c else c - cur) * r.stepMult - 1
           ends := now + r.stepTime * 1000 } }, false))
       ∧ (dp.cylinder = some c → dp.head = h → dp.requestSeek r now c h = (dp, true))
       ∧ (dp.cylinder = some c → dp.head ≠ h → dp.requestSeek r now c h = ({ dp with
         head := h
         motion := some { kind := .seek c h, settling := true, ends := now + r.headSettle * 1000 } }, false))
       ∧ (dp.cylinder = none → dp.trk0 = true → dp.requestSeek r now c h =
         Drive.requestSeek r now c h { dp with head := false, dir := false, cylinder := some 0 })
       ∧ (dp.cylinder = none → dp.trk0 = false → dp.requestSeek r now c h = ({ dp with
         head := false, dir := false, step := true
         motion := some {
           kind := .recalibrate (some (c, h)), pulses := 1, ends := now + r.stepTime * 1000 } }, false))
       ∧ (dp.trk0 = true → dp.requestRecalibrate r now =
         ({ dp with head := false, dir := false, cylinder := some 0 }, true))
       ∧ (dp.trk0 = false → dp.requestRecalibrate r now = ({ dp with
         head := false, dir := false, step := true
         motion := some { kind := .recalibrate none, pulses := 1, ends := now + r.stepTime * 1000 } }, false))))
  ∧ (∀ (trk0 : Bool) (s : State) (r : JobRecord), s.jc.record = some r →
       (s.dp.motion = none → exec (.stepTimeEnd trk0) s = .next (s.settle s))
       ∧ ∀ m, s.dp.motion = some m →
         let now := max s.now m.ends
         let dp := { s.dp with trk0 := trk0 }
         (m.settling = true → exec (.stepTimeEnd trk0) s = .next (s.settle s))
         ∧ (m.settling = false →
           (∀ c h, m.kind = .seek c h → m.toGo ≠ 0 → exec (.stepTimeEnd trk0) s = .next (State.settle { s with
             now := now
             dp := { dp with motion := some { m with
               pulses := m.pulses + 1, toGo := m.toGo - 1, ends := m.ends + r.recipe.stepTime * 1000 } } } s))
           ∧ (∀ c h, m.kind = .seek c h → m.toGo = 0 → s.dp.wgate = false →
             exec (.stepTimeEnd trk0) s = .next (State.settle { s with
               now := now
               dp := { dp with
                 head := h, step := false
                 motion := some { m with settling := true, ends := m.ends + r.recipe.headSettle * 1000 } } } s))
           ∧ (∀ goal, m.kind = .recalibrate goal → trk0 = true →
             exec (.stepTimeEnd trk0) s = .next (State.settle { s with
               now := now
               dp := { dp with
                 step := false
                 motion := some { m with settling := true, ends := m.ends + r.recipe.headSettle * 1000 } } } s))
           ∧ (∀ goal, m.kind = .recalibrate goal → trk0 = false → m.pulses < 90 →
             exec (.stepTimeEnd trk0) s = .next (State.settle { s with
               now := now
               dp := { dp with motion := some { m with
                 pulses := m.pulses + 1, ends := m.ends + r.recipe.stepTime * 1000 } } } s))
           ∧ (∀ goal, m.kind = .recalibrate goal → trk0 = false → 90 ≤ m.pulses →
             let fails : State := { s with
               now := now, dp := { dp with motion := none, cylinder := none, step := false } }
             (r.role = .member → s.cs.state = .home → goal = none →
               exec (.stepTimeEnd trk0) s = .next ((fails.reject .noTrack0).settle s))
             ∧ (r.role = .member → s.cs.state = .write → s.cs.phase = some .seeking → goal ≠ none →
               exec (.stepTimeEnd trk0) s = .next ((fails.reject .noTrack0).settle s))
             ∧ (r.role = .source → s.ss.state = .home → goal = none →
               exec (.stepTimeEnd trk0) s = .next ((fails.sourceAbandon .masterUnreadable).settle s))
             ∧ (∀ x, r.role = .source → s.ss.read = some x → x.phase = .seeking → goal ≠ none →
               exec (.stepTimeEnd trk0) s = .next ((fails.readFailed .masterUnreadable).settle s))
             ∧ (r.role = .observer → exec (.stepTimeEnd trk0) s = .next (fails.settle s)))))
  ∧ (∀ (trk0 : Bool) (s : State) (r : JobRecord), s.jc.record = some r →
       (s.dp.motion = none → exec (.headSettleEnd trk0) s = .next (s.settle s))
       ∧ ∀ m, s.dp.motion = some m →
         let now := max s.now m.ends
         let dp := { s.dp with trk0 := trk0, motion := none }
         let good (c : Nat) : Prop := (∃ h, m.kind = .seek c h) ∧ ¬(c = 0 ∧ trk0 = false)
           ∨ c = 0 ∧ m.kind = .recalibrate (some (0, s.dp.head))
         (m.settling = false → exec (.headSettleEnd trk0) s = .next (s.settle s))
         ∧ (m.settling = true → r.role = .member →
           (∀ c, good c → s.cs.state = .write → s.cs.phase = some .seeking →
             s.dp.spindle.qualified = true → exec (.headSettleEnd trk0) s = .next (State.settle { s with
               now := now, dp := { dp with cylinder := some c }, cs := { s.cs with phase := some .armed } } s))
           ∧ (∀ c, good c → s.cs.state = .write → s.cs.phase = some .seeking →
             s.dp.spindle.qualified = false → exec (.headSettleEnd trk0) s = .next (State.settle { s with
               now := now
               dp := { dp with
                 cylinder := some c, qualify := some { limit := now + s.pc.params.spinUpLimit * 1000 } }
               cs := { s.cs with phase := some .requalify } } s))
           ∧ (∀ h, m.kind = .seek 0 h → trk0 = false → s.cs.state = .write → s.cs.phase = some .seeking →
             exec (.headSettleEnd trk0) s = .next ((State.reject .noTrack0 { s with
               now := now, dp := { dp with cylinder := none } }).settle s))
           ∧ (m.kind = .recalibrate none → s.cs.state = .home → exec (.headSettleEnd trk0) s = .next
             ((State.askClaim { s with
               now := now, dp := { dp with cylinder := some 0 }, cs := { s.cs with state := .claim } }).settle s)))
         ∧ (m.settling = true → r.role = .source →
           (∀ c x, good c → s.ss.read = some x → x.phase = .seeking →
             (s.dp.spindle.qualified = true → exec (.headSettleEnd trk0) s = .next (State.settle { s with
               now := now
               dp := { dp with cylinder := some c, counter := some (r.recipe.masterRevs - 1 + 1) }
               ss := { s.ss with
                 read := some { x with phase := .searching, unsettled := r.recipe.ids, reading := none } } } s))
             ∧ (s.dp.spindle.qualified = false → exec (.headSettleEnd trk0) s = .next (State.settle { s with
               now := now
               dp := { dp with
                 cylinder := some c, qualify := some { limit := now + s.pc.params.spinUpLimit * 1000 } }
               ss := { s.ss with read := some { x with phase := .requalify } } } s)))
           ∧ (∀ h x, m.kind = .seek 0 h → trk0 = false → s.ss.read = some x → x.phase = .seeking →
             exec (.headSettleEnd trk0) s = .next ((State.readFailed .masterUnreadable { s with
               now := now, dp := { dp with cylinder := none } }).settle s))
           ∧ (m.kind = .recalibrate none → s.ss.state = .home → exec (.headSettleEnd trk0) s = .next
             ((State.decision { s with now := now, dp := { dp with cylinder := some 0 } }).settle s)))
         ∧ (∀ h, m.settling = true → m.kind = .recalibrate (some (0, h)) → s.dp.head ≠ h → s.dp.wgate = false →
           exec (.headSettleEnd trk0) s = .next (State.settle { s with
             now := now
             dp := { dp with
               cylinder := some 0, head := h
               motion := some { kind := .seek 0 h, settling := true, ends := now + r.recipe.headSettle * 1000 } } } s))
         ∧ (∀ c h, m.settling = true → m.kind = .recalibrate (some (c, h)) → c ≠ 0 →
           exec (.headSettleEnd trk0) s = .next (State.settle { s with
             now := now
             dp := { dp with
               cylinder := some 0, dir := true, step := true
               motion := some {
                 kind := .seek c h, pulses := 1, toGo := c * r.recipe.stepMult - 1
                 ends := now + r.recipe.stepTime * 1000 } } } s)))

/-- EJECT_PULSE_END (R119, R138) ends the pulse and a source's ENDING, after which a port without a user is at rest
(R137); DISKIN_ACTIVE (R77, R147) clears the spindle record and moves EMPTY to STANDBY with its start test, and
before the configuration load only sets the line. Model's choices: the clock (now, log 2), that HEAD and DIR come to
rest at the pulse's end (log 62), and that DISKIN is followed during a restart's store clear (log 25).
DISKIN_INACTIVE (R77, R90, R91, R110, R117): a COPY JOB OPEN not started is withdrawn; STANDBY and OUT go to EMPTY; a
disk in SPINUP or HOME, or in CLAIM with no CLAIM on the medium, is entered as PULLED; with one there, or in FETCH,
WRITE or VERIFY, it waits in TALLY, in TALLY its outcome becomes PULLED; the gate and the motor drop. A TALLY on the
medium keeps its outcome, and keeps it if it must be sent again: the model's choice (log 29). -/
def Obligations.DisketteIsSeatedEjectedOrPulled : Prop :=
  (∀ s : State,
     (s.dp.ejectEnds = none → exec .ejectPulseEnd s = .next s)
     ∧ (∀ e, s.dp.ejectEnds = some e →
       let ended : State := { s with now := max s.now e, dp := { s.dp with ejectEnds := none } }
       (s.ss.state ≠ .ending → exec .ejectPulseEnd s = .next ended)
       ∧ (s.ss.state = .ending → s.role = some .member ∨ s.role = some .source →
         exec .ejectPulseEnd s = .next { ended with ss := {} })
       ∧ (s.ss.state = .ending → s.role = none ∨ s.role = some .observer →
         exec .ejectPulseEnd s = .next { ended with
           ss := {}, dp := { ended.dp with head := false, dir := false, step := false, lock := false } }))
     ∧ (s.dp.diskin = true → exec .diskinActive s = .next s)
     ∧ (s.dp.diskin = false →
       let seated : State := { s with dp := { s.dp with
         diskin := true, spindle := { watch := if s.dp.motor then some s.now else none } } }
       (s.cs.state = .empty → s.boot ≠ .clearing true → s.boot ≠ .loading →
         exec .diskinActive s = .next (State.startTest { seated with cs := { s.cs with state := .standby } }))
       ∧ (s.cs.state ≠ .empty ∨ s.boot = .clearing true ∨ s.boot = .loading →
         exec .diskinActive s = .next seated)))
  ∧ (∀ s : State,
       (s.dp.diskin = false → exec .diskinInactive s = .next (s.settle s))
       ∧ (s.dp.diskin = true → s.boot = .ready → s.role ≠ some .source →
         ∃ x : State, exec .diskinInactive s = .next (x.settle s)
         ∧ x.now = s.now ∧ x.fixed = s.fixed ∧ x.account = s.account ∧ x.store.mem = s.store.mem ∧ x.dp.diskin = false
         ∧ (∀ g ∈ x.lc.queue, g.started = false → ∀ terms, g.body = .jobOpen terms → terms.kind ≠ .copy)
         ∧ (s.cs.state = .empty ∨ s.cs.state = .standby ∨ s.cs.state = .out →
           x.cs.state = .empty ∧ x.pc.history = s.pc.history)
         ∧ (s.cs.state = .spinup ∨ s.cs.state = .home
             ∨ s.cs.state = .claim ∧ ¬(s.lc.has .claim = true ∧ s.lc.waiting .claim = false) → s.cs.pulled = false →
           x.cs.state = .empty ∧ x.dp.motor = false ∧ x.dp.lock = false
           ∧ (x.pc.history.getLast?.map fun h => (h.outcome, h.first)) =
             some (.pulled, some (s.cs.disk.first.getD .pulled)))
         ∧ (s.cs.state = .claim → s.lc.has .claim = true → s.lc.waiting .claim = false → s.cs.pulled = false →
           x.cs.state = .tally ∧ x.cs.pulled = true ∧ x.cs.outcome = none ∧ x.dp.motor = false)
         ∧ (s.cs.state = .fetch ∨ s.cs.state = .write ∨ s.cs.state = .verify → s.cs.pulled = false →
           x.cs.state = .tally ∧ x.cs.pulled = true ∧ x.cs.outcome = some .pulled ∧ x.dp.motor = false
           ∧ x.dp.wgate = false ∧ x.tb = none ∧ x.cs.disk.first = some (s.cs.disk.first.getD .pulled))
         ∧ (s.cs.state = .tally → s.cs.pulled = false →
           x.cs.state = .tally ∧ x.cs.pulled = true
           ∧ (s.cs.disk.conflict = true ∨ s.lc.has .tally = true ∧ s.lc.waiting .tally = false →
             x.cs.outcome = s.cs.outcome)
           ∧ (s.cs.disk.conflict = false → ¬(s.lc.has .tally = true ∧ s.lc.waiting .tally = false) →
             x.cs.outcome = some .pulled)))
       ∧ (∀ r, s.dp.diskin = true → s.boot = .ready → s.jc.record = some r → r.role = .source → s.cs.state = .standby →
         ∃ x : State, exec .diskinInactive s = .next (x.settle s) ∧ x.ss.present = false ∧ x.dp.motor = false
           ∧ x.dp.lock = false ∧ (s.ss.firstTrack < r.tracks → x.ss.abandon.isSome = true)
           ∧ x.now = s.now ∧ x.fixed = s.fixed ∧ x.account = s.account ∧ x.store.mem = s.store.mem))

/-- MASTER_READ_SLOT_GRANT (R32, R112): with an entry ABSENT and a slot by R27 a waiting read's slot becomes FILLING
and the seek begins; else it waits. That one whose track is held by now goes out as a RELEASE, and that it waits
until the entry is ABSENT, is the model's choice (log 36), and so is the check word 0 of the slot until the read's
good end (log 53). The seek is the request stated of the drive port: one that ends at once starts the search, or
waits for a qualified spindle; one refused in a motion leaves the read seeking (log 10). The Source Sequencer's
decision points (R111, R114 to R116, R118): the head of the restore queue first, a JOB CLOSE not started being
withdrawn (R11), else the next track of the first pass, else SERVE; after its abandon nothing starts, and the state
stays: the model's choice (log 60). A restore is served from the store, from the master, or LOST with no master
there. A RELEASE the Source Sequencer sends (R113, R114, R116): entered, or held in reserve where the queue refuses
it, and after its abandon given up with its drive pin (R33, R118; log 18). Completed in the first pass it moves on to
the next track; a restore's ends the restore, with the close test (R11), and goes on to the next decision, a LOST one
abandoning the job with TRACK LOST; a slot without a home mark is freed (R38): that the mark tells a source home
track is the model's reading (log 17). The Source Sequencer's abandon (R118): a read in progress is ended with its
slot freed, a RELEASE in reserve given up with its drive pin (log 18), and JOB ABANDON entered or held in reserve
(log 12), once. A read that fails (R112, R116) abandons in the first pass, and for a restore sends RELEASE LOST. A
track goes out with the drive pin taken (R113, R116), and one withdrawn at its offer is served or read again. The
master removed (R117): a restore's read in progress before the first pass is over sends no LOST, the model's choice
(log 48). -/
def Obligations.SlotGrantBeginsTheMasterRead : Prop :=
  (∀ (s : State) (r : JobRecord), s.jc.record = some r →
     (s.ss.read = none → exec .masterReadSlotGrant s = .next (s.settle s))
     ∧ ∀ m, s.ss.read = some m →
       (m.phase ≠ .slotWait → exec .masterReadSlotGrant s = .next (s.settle s))
       ∧ (m.phase = .slotWait →
         (s.held m.track = true → exec .masterReadSlotGrant s = .next
           ((State.releaseTrack m.track { s with ss := { s.ss with read := none } }).settle s))
         ∧ (s.held m.track = false → (s.store.entry m.track).presence ≠ .absent ∨ s.store.allocation m.track = none →
           exec .masterReadSlotGrant s = .next (s.settle s))
         ∧ (∀ i d, s.held m.track = false → (s.store.entry m.track).presence = .absent →
           s.store.allocation m.track = some i →
           let granted (x : MasterRead) (dp : Drive) : State := { s with
             store := s.store.takeSlot i m.track 0, ss := { s.ss with read := some { x with slot := some i } }, dp := dp }
           let asked := s.dp.requestSeek r.recipe s.now (m.track / r.recipe.heads) (decide (m.track % r.recipe.heads = 1))
           (asked = (d, false) →
             exec .masterReadSlotGrant s = .next (State.settle (granted { m with phase := .seeking } d) s))
           ∧ (asked = (d, true) → s.dp.spindle.qualified = true →
             exec .masterReadSlotGrant s = .next (State.settle
               (granted { m with phase := .searching, unsettled := r.recipe.ids, reading := none }
                 { d with counter := some (r.recipe.masterRevs - 1 + 1) }) s))
           ∧ (asked = (d, true) → s.dp.spindle.qualified = false →
             exec .masterReadSlotGrant s = .next (State.settle (granted { m with phase := .requalify }
               { d with qualify := some { limit := s.now + s.pc.params.spinUpLimit * 1000 } }) s)))
         ∧ (∀ i cur, s.held m.track = false → (s.store.entry m.track).presence = .absent →
           s.store.allocation m.track = some i → s.dp.motion = none → s.dp.cylinder = some cur → s.dp.wgate = false →
           m.track / r.recipe.heads ≠ cur → exec .masterReadSlotGrant s = .next (State.settle { s with
             store := s.store.takeSlot i m.track 0
             ss := { s.ss with read := some { m with slot := some i, phase := .seeking } }
             dp := { s.dp with
               dir := decide (cur < m.track / r.recipe.heads), step := true
               motion := some {
                 kind := .seek (m.track / r.recipe.heads) (decide (m.track % r.recipe.heads = 1)), pulses := 1
                 toGo := (if m.track / r.recipe.heads < cur then cur - m.track / r.recipe.heads
                   else m.track / r.recipe.heads - cur) * r.recipe.stepMult - 1
                 ends := s.now + r.recipe.stepTime * 1000 } } } s))))
  ∧ (∀ (s : State) (r : JobRecord), s.jc.record = some r →
       (s.ss.abandon ≠ none → s.decision = s ∧ ∀ t, s.serve t = s)
       ∧ (s.ss.abandon = none →
         (∀ t rest, s.du.restores = t :: rest → s.decision = State.serve t (State.closeLapse { s with
           du := { s.du with restores := rest }
           ss := { s.ss with state := .serve, restoring := some t } }))
         ∧ (s.du.restores = [] → s.ss.firstTrack < r.tracks →
           s.decision = State.startRead s.ss.firstTrack { s with ss := { s.ss with state := .read } })
         ∧ (s.du.restores = [] → r.tracks ≤ s.ss.firstTrack →
           s.decision = { s with ss := { s.ss with state := .serve } })
         ∧ (∀ t i, s.store.heldSlot t = some i → s.serve t = s.releaseTrack t)
         ∧ (∀ t, s.store.heldSlot t = none → s.ss.present = true → s.serve t = s.startRead t)
         ∧ (∀ t, s.store.heldSlot t = none → s.ss.present = false →
           s.serve t = s.enterRelease ⟨t, .lost, .restore⟩))
       ∧ (∀ t, s.startRead t = State.trySlot { s with ss := { s.ss with read := some { track := t } } }))
  ∧ (∀ (s : State) (r : JobRecord) (v : Reserve) (t : Nat), s.jc.record = some r →
       let body : Body := .release v.track v.status v.reason .source r.recipe.sizeCode r.recipe.sectors
         (match v.status, s.store.heldSlot v.track with
           | .good, some i => (s.store.slot i).check
           | _, _ => 0)
       let freed := (match (s.releaseDrivePin.store.entry t).slot with
         | some i => if (s.releaseDrivePin.store.entry t).home then s.releaseDrivePin else s.releaseDrivePin.requestFree i
         | none => s.releaseDrivePin)
       (s.ss.abandon = none → s.boot = .ready → s.lc.has (.release v.track v.reason) = false → s.lc.queue.length < 6 →
         s.enterRelease v = { s with
           ss := { s.ss with reserve := none }
           lc := { s.lc with queue := s.lc.queue ++ [{ body := body, jobId := r.jobId }] } })
       ∧ (s.ss.abandon = none → s.lc.has (.release v.track v.reason) = true ∨ 6 ≤ s.lc.queue.length →
         s.enterRelease v = { s with ss := { s.ss with reserve := some v } })
       ∧ (s.ss.abandon ≠ none →
         s.enterRelease v = State.releaseDrivePin { s with ss := { s.ss with reserve := none } })
       ∧ s.restoreEnds = State.closeTest { s with ss := { s.ss with restoring := none } }
       ∧ s.sourceReleased t .lost .restore = s.restoreEnds.sourceAbandon .trackLost
       ∧ s.sourceReleased t .good .restore = State.decision (State.restoreEnds { freed with ss := { freed.ss with
           reread := if freed.ss.reread = some t then none else freed.ss.reread } })
       ∧ s.sourceReleased t .good .firstPass = State.decision { freed with ss := { freed.ss with
           reread := none, firstTrack := t + 1 } })
  ∧ (∀ (s : State) (r : JobRecord) (reason : AbandonReason) (t : Nat), s.jc.record = some r →
       let ended := s.endRead
       let given : State := { ended with ss := { ended.ss with reserve := none } }
       let abandons (x : State) : State := State.enterAbandon reason { x with ss := { x.ss with abandon := some reason } }
       (s.ss.read = none → ended = s)
       ∧ (∀ m, s.ss.read = some m → ended = { s with
           store := (match m.slot with
             | some i => s.store.freeSlot i
             | none => s.store)
           ss := { s.ss with read := none }, dp := { s.dp with counter := none, qualify := none } })
       ∧ (s.boot = .ready → s.lc.has .jobAbandon = false → s.lc.queue.length < 8 → s.enterAbandon reason =
           { s with lc := { s.lc with queue := s.lc.queue ++ [{ body := .jobAbandon reason, jobId := r.jobId }] } })
       ∧ (s.boot ≠ .ready ∨ s.lc.has .jobAbandon = true ∨ 8 ≤ s.lc.queue.length → s.enterAbandon reason =
           { s with jc := { s.jc with abandonDue :=
             if reason ∈ s.jc.abandonDue then s.jc.abandonDue else s.jc.abandonDue ++ [reason] } })
       ∧ (s.ss.abandon ≠ none → s.sourceAbandon reason = s)
       ∧ (s.ss.abandon = none →
         (s.ss.reserve = none → s.sourceAbandon reason = abandons ended)
         ∧ (s.ss.reserve ≠ none → s.sourceAbandon reason = abandons given.releaseDrivePin))
       ∧ (s.ss.read = none → s.readFailed reason = s)
       ∧ (∀ m, s.ss.read = some m →
         (s.ss.state = .read → s.readFailed reason = ended.sourceAbandon reason)
         ∧ (s.ss.state ≠ .read → s.readFailed reason = ended.enterRelease ⟨m.track, .lost, .restore⟩))
       ∧ (let pinned : State := match s.store.drivePinned, s.store.heldSlot t with
           | none, some i => { s with store := s.store.setSlot i { s.store.slot i with drivePin := true } }
           | _, _ => s
         (s.ss.state = .read → s.releaseTrack t =
           State.enterRelease ⟨t, .good, .firstPass⟩ { pinned with ss := { s.ss with state := .release } })
         ∧ (s.ss.state ≠ .read → s.releaseTrack t = pinned.enterRelease ⟨t, .good, .restore⟩))
       ∧ (let off := s.releaseDrivePin
         (s.ss.abandon ≠ none → ∀ why, s.sourceWithdrawn t why = off)
         ∧ (s.ss.abandon = none → s.sourceWithdrawn t .restore = off.serve t
           ∧ s.sourceWithdrawn t .firstPass =
             State.startRead t { off with ss := { off.ss with state := .read } }))
       ∧ (let removed : State := { s with
           ss := { s.ss with present := false }, tb := none, dp := { s.dp.stopMotor with lock := false } }
         (s.ss.firstTrack < r.tracks → s.masterRemoved = removed.endRead.sourceAbandon .masterRemoved)
         ∧ (r.tracks ≤ s.ss.firstTrack → s.masterRemoved = removed.readFailed .masterRemoved)))

/-- ID_RECORD at a verify (R99): a record of the track and of a sector not yet OK with a good check starts the search
for the data marker, whose reach of gap-2, the sync field and 8 byte cells (R100) ends at the time kept (in µs
rounded up, the model's choice, log 45); with a bad check it is an ID CHECK; any other is passed over. ID_RECORD in a
master read (R112): a good record of a sector of the track that is not settled starts the search for its data marker;
one settled already is passed over; a good record of no sector of the track is a MASTER MISFIT, which fails the read;
one with a bad check is passed over. One met while a data marker is looked for ends that search first: the model's
choice (log 22). The search for a data marker that ends without one, out of reach or at a marker of another value,
leaves the sector MISSING at a verify and unsettled in a master read (R100, R112). DATA_MARKER_REACH_EXPIRY brings
the clock to the end of the reach, where a search is under way: the model's choice (logs 2, 45). -/
def Obligations.RecordsAndMarkersAreSoughtInAVerify : Prop :=
  (∀ (c h z y : Byte) (check : BitVec 16) (s : State) (r : JobRecord) (v : VerifyRecord), s.jc.record = some r →
     s.cs.state = .verify → s.vu = some v → v.running = true → v.reading = none →
     let own := c.toNat = v.cylinder ∧ h.toNat = v.head ∧ y.toNat = r.recipe.sizeCode
       ∧ ∃ e ∈ v.entries, e.id = z.toNat ∧ e.outcome ≠ .ok
     let good := crc16 [r.recipe.idMarker, r.recipe.idMarker, c, h, z, y] = check
     (own → good → exec (.idRecord c h z y check) s = .next (State.settle { s with vu := some { v with
         reading := some z.toNat
         reach := s.now + r.recipe.cellTime (r.recipe.gap2 + r.recipe.sync + 8) } } s))
     ∧ (own → ¬good → exec (.idRecord c h z y check) s = .next (State.settle { s with vu := some { v with
         entries := v.entries.map fun e =>
           if e.id = z.toNat ∧ e.outcome ≠ .ok then { e with outcome := .idCheck } else e } } s))
     ∧ (¬own → exec (.idRecord c h z y check) s = .next (s.settle s)))
  ∧ (∀ (c h z y : Byte) (check : BitVec 16) (s : State) (r : JobRecord) (m : MasterRead), s.jc.record = some r →
       s.cs.state ≠ .verify → s.ss.read = some m → m.phase = .searching →
       let fits := c.toNat = m.track / r.recipe.heads ∧ h.toNat = m.track % r.recipe.heads
         ∧ y.toNat = r.recipe.sizeCode ∧ z.toNat ∈ r.recipe.ids
       let good := crc16 [r.recipe.idMarker, r.recipe.idMarker, c, h, z, y] = check
       let passed : State := { s with ss := { s.ss with read := some { m with reading := none } } }
       (good → fits → z.toNat ∈ m.unsettled → exec (.idRecord c h z y check) s = .next (State.settle { s with ss :=
         { s.ss with read := some { m with
           reading := some z.toNat
           reach := s.now + r.recipe.cellTime (r.recipe.gap2 + r.recipe.sync + 8) } } } s))
       ∧ (good → fits → ¬ z.toNat ∈ m.unsettled → exec (.idRecord c h z y check) s = .next (passed.settle s))
       ∧ (good → ¬fits → exec (.idRecord c h z y check) s = .next ((passed.readFailed .masterMisfit).settle s))
       ∧ (¬good → exec (.idRecord c h z y check) s = .next (passed.settle s)))
  ∧ (∀ (s : State) (c : Instr), (c = .dataMarkerReachExpiry ∨ c = .markerOfAnotherValue) →
       let clock (reach : Nat) : Nat := if c = .dataMarkerReachExpiry then max s.now reach else s.now
       (∀ v z, s.cs.state = .verify → s.vu = some v → v.running = true → v.reading = some z →
         exec c s = .next { s with
           now := clock v.reach
           vu := some { v with
             reading := none
             entries := v.entries.map fun e =>
               if e.id = z ∧ e.outcome ≠ .ok then { e with outcome := .missing } else e } })
       ∧ (∀ m z, s.cs.state ≠ .verify → s.ss.read = some m → m.phase = .searching → m.reading = some z →
         exec c s = .next { s with now := clock m.reach, ss := { s.ss with read := some { m with reading := none } } })
       ∧ (∀ v, s.cs.state = .verify → s.vu = some v → v.running = true → v.reading = none → exec c s = .next s)
       ∧ (s.cs.state ≠ .verify → s.ss.read = none → exec c s = .next s))

/-- DATA_RECORD at a verify (R100, R101, R103, R104): a bad check is DATA CHECK, a wrong stamp STAMP MISMATCH, a byte
that is not the expected one (in FULL mode the pinned slot's in a COPY job, the fill byte in a FORMAT job) MISMATCH,
and OK otherwise; an OK entry stays. When every entry is OK the verify ends at once, else it runs on. A record of
another length is a bad check (log 32), one that ended too late for its marker to have lain within the reach is none
(log 45): the model's choices. The verify's end at its last entry (R104, R106): the record stays, the counter goes
idle; in a FULL COPY verify the slot's check comes first, and a slot that fails it or is damaged already is fetched
again whatever was read; else the track is verified, or its fault is one failed attempt. A DATA_RECORD with a good
check in a master read goes into the slot at its sector's offset and settles it; with a bad one, or of another length
(log 32), or too late for its marker to have lain within the reach (log 45; both the model's choice) the sector stays
unsettled (R112). The last sector ends the read good (R113): the slot takes its check word, the track is HELD and its
want entry leaves, and the RELEASE goes out. -/
def Obligations.DataRecordIsObservedOrStored : Prop :=
  (∀ (data : List Byte) (check : BitVec 16) (u : Upset) (s : State) (r : JobRecord) (v : VerifyRecord) (z : Nat)
     (o : SectorOutcome) (e : SectorEntry), s.jc.record = some r → s.cs.state = .verify → s.vu = some v →
     v.running = true → v.reading = some z → v.entries.find? (fun e => decide (e.id = z)) = some e →
     let read : State := match s.store.drivePinned with
       | some i => { s with store := s.store.upset i u }
       | none => s
     let expected (k : Nat) : Option Byte := match r.kind, s.store.drivePinned with
       | .format, _ => some r.recipe.fill
       | .copy, some i => (read.store.sectorData r.recipe i z)[k]?
       | .copy, none => data[k]?
     let badCheck := data.length ≠ r.recipe.size
       ∨ crc16 ([r.recipe.dataMarker, r.recipe.dataMarker] ++ data) ≠ check
     let badStamp := ∃ p ∈ e.stamp, data[p.1]? ≠ some p.2
     let badData := r.recipe.verify = .full
       ∧ ∃ k < r.recipe.size, (∀ p ∈ e.stamp, p.1 ≠ k) ∧ data[k]? ≠ expected k
     (badCheck ∧ o = .dataCheck ∨ ¬badCheck ∧ badStamp ∧ o = .stampMismatch
       ∨ ¬badCheck ∧ ¬badStamp ∧ badData ∧ o = .mismatch ∨ ¬badCheck ∧ ¬badStamp ∧ ¬badData ∧ o = .ok) →
     let v1 : VerifyRecord := { v with
       reading := none
       entries := v.entries.map fun e => if e.id = z ∧ e.outcome ≠ .ok then { e with outcome := o } else e }
     let intime := s.now ≤ v.reach + r.recipe.cellTime (r.recipe.size + 2)
     (intime → (∃ e ∈ v1.entries, e.outcome ≠ .ok) →
       exec (.dataRecord data check u) s = .next (State.settle { read with vu := some v1 } s))
     ∧ (intime → (∀ e ∈ v1.entries, e.outcome = .ok) →
       exec (.dataRecord data check u) s = .next ((State.verifyEnd [] { read with vu := some v1 }).settle s))
     ∧ (¬intime → exec (.dataRecord data check u) s = .next (State.settle { s with vu := some { v with
         reading := none
         entries := v.entries.map fun e =>
           if e.id = z ∧ e.outcome ≠ .ok then { e with outcome := .missing } else e } } s)))
  ∧ (∀ (s : State) (r : JobRecord) (v : VerifyRecord), s.jc.record = some r → s.vu = some v →
       let ended : State := { s with
         vu := some { v with running := false, reading := none }, dp := { s.dp with counter := none } }
       (r.recipe.verify ≠ .full ∨ r.kind = .format ∨ s.store.drivePinned = none →
         (v.fault = none → s.verifyEnd [] = ended.trackVerified)
         ∧ ∀ f, v.fault = some f → s.verifyEnd [] = ended.failedAttempt [f])
       ∧ ∀ i, r.recipe.verify = .full → r.kind = .copy → s.store.drivePinned = some i →
         let sound := crc32 (s.store.trackData r.recipe i) = (s.store.slot i).check
         (sound → (s.store.slot i).damaged = false →
           (v.fault = none → s.verifyEnd [] = ended.trackVerified)
           ∧ ∀ f, v.fault = some f → s.verifyEnd [] = ended.failedAttempt [f])
         ∧ (sound → (s.store.slot i).damaged = true → s.verifyEnd [] = ended.releaseDrivePin.toFetch)
         ∧ (¬sound → s.verifyEnd [] = (ended.markDamaged i).releaseDrivePin.toFetch))
  ∧ (∀ (data : List Byte) (check : BitVec 16) (u : Upset) (s : State) (r : JobRecord) (m : MasterRead) (z i : Nat),
       s.jc.record = some r → s.cs.state ≠ .verify → s.ss.read = some m → m.phase = .searching → m.reading = some z →
       m.slot = some i →
       let intime := s.now ≤ m.reach + r.recipe.cellTime (r.recipe.size + 2)
       let good := data.length = r.recipe.size
         ∧ crc16 ([r.recipe.dataMarker, r.recipe.dataMarker] ++ data) = check
       let a := i * 12288 + (z - r.recipe.firstId) * r.recipe.size
       let stored : Store := { s.store with mem := Memory.write s.store.mem a data }
       (intime → good → m.unsettled.erase z ≠ [] →
         exec (.dataRecord data check u) s = .next (State.settle { s with
           store := stored
           ss := { s.ss with read := some { m with unsettled := m.unsettled.erase z, reading := none } } } s))
       ∧ (intime → good → m.unsettled.erase z = [] →
         let checked := stored.setSlot i { s.store.slot i with check := crc32 (stored.trackData r.recipe i) }
         exec (.dataRecord data check u) s = .next (((((State.settleGood i m.track { s with
           store := checked
           dp := { s.dp with counter := none }
           ss := { s.ss with read := none } }).removeWant m.track).releaseTrack m.track)).settle s))
       ∧ (¬intime ∨ ¬good → exec (.dataRecord data check u) s = .next (State.settle { s with
           ss := { s.ss with read := some { m with reading := none } } } s)))

/-- The verify fault of a track: the first line of the order that any failing entry meets; none when every entry is
OK (R105). -/
def Obligations.VerifyFaultFollowsTheOrder : Prop :=
  ∀ v : VerifyRecord,
    ((∀ e ∈ v.entries, e.outcome = .ok) ↔ v.fault = none)
    ∧ ((∃ e ∈ v.entries, e.outcome = .missing) → v.fault = some .verifyMissing)
    ∧ ((∀ e ∈ v.entries, e.outcome ≠ .missing) → (∃ e ∈ v.entries, e.outcome = .idCheck ∨ e.outcome = .dataCheck) →
      v.fault = some .verifyCheck)
    ∧ ((∀ e ∈ v.entries, e.outcome = .ok ∨ e.outcome = .stampMismatch ∨ e.outcome = .mismatch) →
      ((∃ e ∈ v.entries, e.outcome = .stampMismatch) → v.fault = some .stampMismatch)
      ∧ ((∀ e ∈ v.entries, e.outcome ≠ .stampMismatch) → (∃ e ∈ v.entries, e.outcome = .mismatch) →
        v.fault = some .verifyMismatch))

/-! ### Calls, queries and departure -/

/-- CALL ANSWER and CALL FIRST set the presence entry of their sender; a CALL FIRST of another station, where it
departs from no job, has a CALL ANSWER entered (R160). -/
def Obligations.CallsMoveThePresenceTable : Prop :=
  ∀ (f : Rx) (s : State) (b : CallBody), s.receives → parseCall f.body = some b →
    let entry : Presence := { present := true, fitted := b.fitted, revision := b.revision, jobId := b.jobId }
    let seen (x : State) : State := { x with lc := { x.lc with presence := x.lc.presence.set f.sender entry } }
    (b.first = false →
      exec (.callAnswer f) s = .next ((seen (s.heard (.call false) f.sender)).afterCompletion s))
    ∧ (b.first = true → (∀ r, s.jc.record = some r →
        inMask r.roster f.sender = false ∨ inMask r.departed f.sender = true) →
      (f.sender = s.station → exec (.callFirst f) s =
        .next (((seen (s.heard (.call true) f.sender)).afterCompletion s).settle s))
      ∧ (f.sender ≠ s.station → exec (.callFirst f) s = .next
        ((((seen (s.heard (.call true) f.sender)).enter (.call false s.pc.params.fitted 0) 0).afterCompletion s).settle s)))

/-- CALL FIRST of another roster station makes it departed and voids its claim; when no roster station is left the
job ends here without a next serial base (R16), the slots' bytes staying (log 4, the model's choice). Where this
station thereby becomes the closing station of a COPY job whose opener has departed, with the mark below T and the
close conditions not met, it abandons the job with SOURCE LOST (R17), entered or held in reserve (log 12, the model's
choice of how). A departure at CALL FIRST in its order (R16, R20, R160): the presence entry, the departed set and the
voided claim; at a station that has become the closing station, or is it when the opener departs, the SOURCE LOST
test of R17; the close test (R11), home repair (R20) and the start test (R78); the CALL ANSWER to another station's,
before the WANTs of the repair feed in settle (the model's choice, log 52). That an own CALL FIRST which finds a
record departs this station is the model's choice (log 51). -/
def Obligations.CallFirstDepartsARosterStation : Prop :=
  (∀ (f : Rx) (s : State) (b : CallBody) (r : JobRecord), s.receives → parseCall f.body = some b → b.first = true →
     s.jc.record = some r → inMask r.roster f.sender = true → inMask r.departed f.sender = false →
     f.sender ≠ s.station →
     let left := { r with departed := addMask r.departed f.sender }
     ∃ t : State, exec (.callFirst f) s = .next t
       ∧ t.now = s.now ∧ t.store.mem = s.store.mem ∧ t.lc.foreign = s.lc.foreign ∧ t.pc.params = s.pc.params
       ∧ (left.remaining ≠ [] → t.departed = some left.departed ∧ t.fixed = s.fixed ∧ t.jobState = s.jobState
         ∧ t.mark = s.mark ∧ t.ss = s.ss
         ∧ t.account = some { r.account with
             void := r.void + if r.claims.any (fun c => decide (c.station = f.sender)) then 1 else 0
             claims := r.claims.eraseP fun c => decide (c.station = f.sender) })
       ∧ (r.kind = .copy → left.remaining.head? = some s.station → r.mark < r.tracks → r.state = .opened →
         f.sender = r.opener ∨ inMask r.departed r.opener = true ∧ r.remaining.head? ≠ some s.station →
         t.lc.has .jobAbandon = true ∨ .sourceLost ∈ t.jc.abandonDue)
       ∧ (left.remaining = [] → t.jc.record = none ∧ t.store = { mem := s.store.mem } ∧ t.du = {}
         ∧ t.jc.nextBase = s.jc.nextBase))
  ∧ ((∀ (f : Rx) (s : State) (b : CallBody) (r : JobRecord), s.receives → parseCall f.body = some b → b.first = true →
       s.jc.record = some r → inMask r.roster f.sender = true → inMask r.departed f.sender = false →
       let heard := s.heard (.call true) f.sender
       let left : JobRecord := { r with
         departed := addMask r.departed f.sender
         void := r.void + if r.claims.any (fun c => decide (c.station = f.sender)) then 1 else 0
         claims := r.claims.eraseP fun c => decide (c.station = f.sender) }
       let entry : Presence := { present := true, fitted := b.fitted, revision := b.revision, jobId := b.jobId }
       let out : State := { heard with
         lc := { heard.lc with presence := heard.lc.presence.set f.sender entry }
         jc := { heard.jc with record := some left } }
       let closes : Prop := left.closing = some s.station ∧ (r.closing ≠ some s.station ∨ f.sender = r.opener)
       let goesOn (x : State) : Prop := exec (.callFirst f) s = .next (State.settle (State.afterCompletion
         (if f.sender = s.station then x else x.enter (.call false s.pc.params.fitted 0) 0) s) s)
       (left.remaining ≠ [] → closes → goesOn (out.sourceLostTest.closeTest.homeRepair).startTest)
       ∧ (left.remaining ≠ [] → ¬closes → goesOn (out.closeTest.homeRepair).startTest)
       ∧ (left.remaining = [] → goesOn (out.endJob .close)))
     ∧ ∀ (s : State) (r : JobRecord), s.jc.record = some r →
       let lost : Prop := r.kind = .copy ∧ inMask r.departed r.opener = true ∧ r.closing = some s.station
         ∧ r.mark < r.tracks ∧ s.closeConditions = false
       (lost → s.sourceLostTest = s.enterAbandon .sourceLost) ∧ (¬lost → s.sourceLostTest = s))

/-- Home assignment (R18): among the n stations of a list, ascending in a job, the home stations of track t are those
at positions (t + j) mod n for j below the smaller of R and n. Home repair (R20): the home set is given its 60
places, held tracks first; the rest of the places make the repair list, what is left is home short; marks, slots,
allowance and reservation follow. A slot promoted leaves the cache order list, and the slots demoted join its tail in
ascending track order (R20, R25). -/
def Obligations.HomeRepairRebuildsTheHolding : Prop :=
  (∀ (l : List StationId) (tracks rr u : Nat) (i : StationId), l.Nodup →
    (u ∈ homesAmong l tracks rr i ↔ u < tracks ∧ ∃ j < min rr l.length, l[(u + j) % l.length]? = some i))
  ∧ (∀ (r : JobRecord) (i : StationId), (r.kind = .copy → r.homes i = homesAmong r.remaining r.tracks r.r i)
    ∧ (r.kind = .format → r.homes i = []))
  ∧ ∀ (s : State) (r : JobRecord), s.jc.record = some r →
    (r.kind = .format ∨ r.role = .observer → s.homeRepair = s)
    ∧ (r.kind = .copy → r.role ≠ .observer →
      let h := r.homes s.station
      let first := (h.filter fun u => decide ((s.store.entry u).presence = .held)).take 60
      let second := (h.filter fun u => !decide ((s.store.entry u).presence = .held)).take (60 - first.length)
      let t := s.homeRepair
      t.jc.record = some { r with repair := second, homeShort := h.length - first.length - second.length }
      ∧ t.store.reservation = second.length
      ∧ t.store.allowance = (h.filter fun u => decide (u ∈ first) || decide (u ∈ second))
      ∧ (∀ u < 168, t.store.entry u = { s.store.entry u with home := decide (u ∈ h) })
      ∧ (∀ i < 64, ∀ u, (s.store.slot i).track = some u →
        (s.store.slot i).state = .cache ∨ (s.store.slot i).state = .home →
        t.store.slot i = { s.store.slot i with state := if u ∈ first then .home else .cache })
      ∧ (∀ w ∈ t.du.repair, w.track ∈ second)
      ∧ t.store.cache = (s.store.cache.filter fun i => !((s.store.slot i).track.any fun u => decide (u ∈ first)))
        ++ (List.range 168).filterMap fun u => match (s.store.entry u).presence, (s.store.entry u).slot with
          | .held, some i => if (s.store.slot i).state = .home ∧ ¬ u ∈ first then some i else none
          | _, _ => none)

/-- QUERY: its target enters the REPLY the page gives, with the status by the first line that applies, and a read of
page 7 with the clear flag sets to 0 every counter of which a byte lies in its data, all of them for the whole page;
any other station, or a refusal of the frame, answers nothing. REPLY has no effect beyond its completion. The query
pages of R175: each page's length and its entries at their offsets, with numbers most significant byte first and 0FFh
for a track or slot that is none. Time left is stated where it is whole milliseconds (a part of one is log 14's free
value). -/
def Obligations.QueryIsAnsweredByItsTarget : Prop :=
  (∀ (f : Rx) (s : State), s.receives →
     (∀ p, parseReply f.body = some p →
       exec (.reply f) s = .next ((s.heard (.reply p.1 p.2) f.sender).afterCompletion s))
     ∧ ∀ q, parseQuery f.body = some q →
       let heard := s.endViewOf f.sender
       let a := heard.answer q
       let answered : State := { heard with lc := { heard.lc with
         queue := s.lc.queue ++ [{ body := .reply q.page q.offset a.1 a.2, jobId := 0 }] } }
       (q.target ≠ s.station.val ∨ s.lc.has (.reply q.page q.offset) = true ∨ 6 ≤ s.lc.queue.length →
         exec (.query f) s = .next (heard.afterCompletion s))
       ∧ (q.target = s.station.val → s.lc.has (.reply q.page q.offset) = false → s.lc.queue.length < 6 →
         (q.clear = false ∨ q.page ≠ 7 ∨ a.1 ≠ .ok → exec (.query f) s = .next (answered.afterCompletion s))
         ∧ (q.clear = true → q.page = 7 → q.offset = 0 → 36 ≤ q.count → q.count ≤ 256 →
           exec (.query f) s = .next (State.afterCompletion
             { answered with lc := { answered.lc with counters := {} } } s))
         ∧ (q.clear = true → q.page = 7 → a.1 = .ok →
           let c := s.lc.counters
           let left (k n : Nat) : Nat := if q.offset < 4 * k + 4 ∧ 4 * k < q.offset + a.2.length then 0 else n
           exec (.query f) s = .next (State.afterCompletion { answered with lc := { answered.lc with counters := {
             badFrames := left 0 c.badFrames, sendFaults := left 1 c.sendFaults, holdOffs := left 2 c.holdOffs
             wants := left 3 c.wants, restores := left 4 c.restores, damaged := left 5 c.damaged
             noRoom := left 6 c.noRoom, accepted := left 7 c.accepted, rejected := left 8 c.rejected } } } s)))
       ∧ (8 < q.page → a = (.noPage, []))
       ∧ (∀ bytes, heard.page q.page = some bytes →
         (1 ≤ q.count → q.count ≤ 256 → q.offset ≤ bytes.length → a = (.ok, (bytes.drop q.offset).take q.count))
         ∧ (q.count < 1 ∨ 256 < q.count ∨ bytes.length < q.offset → a = (.range, []))))
  ∧ (∀ s : State,
       (∃ p, s.page 0 = some p ∧ p.length = 80 ∧ ∀ i : Fin 16, (p.drop (5 * i.val)).take 5 =
         [flagByte s.lc.presence[i].present, flagByte s.lc.presence[i].fitted, s.lc.presence[i].revision]
           ++ beBytes 2 s.lc.presence[i].jobId.toNat)
       ∧ (s.jc.record = none → s.page 1 = some (List.replicate 121 0) ∧ s.page 2 = some [])
       ∧ (∀ r, s.jc.record = some r → (∃ p, s.page 1 = some p
         ∧ p.length = 121 + r.repair.length + (if r.role = .source then 5 else 0)
         ∧ p.take 6 = ([if r.state = .opened then 1 else 2,
             match r.role with | .source => 1 | .member => 2 | .observer => 3] : List Byte)
           ++ beBytes 2 r.jobId.toNat ++ [if r.kind = .copy then 1 else 2, byteOf r.opener.val]
         ∧ (p.drop 6).take 73 = r.recipe.toBytes
         ∧ (p.drop 79).take 8 = [byteOf r.tracks, byteOf r.r] ++ beBytes 2 r.roster.toNat ++ beBytes 2 r.departed.toNat
           ++ [flagByte r.joinRefused, byteOf r.mark]
         ∧ (p.drop 87).take 14 = beBytes 2 r.wanted ++ beBytes 4 r.base ++ beBytes 4 r.limit ++ beBytes 4 r.high
         ∧ (p.drop 101).take 16 = beBytes 4 r.heard ++ beBytes 4 r.accepted ++ beBytes 4 r.void ++ beBytes 4 r.withdrawn
         ∧ (p.drop 117).take 4 =
           [byteOf r.claims.length, flagByte r.stamping, byteOf r.homeShort, byteOf r.repair.length]
         ∧ (p.drop 121).take r.repair.length = r.repair.map byteOf
         ∧ (r.role = .source → p.drop (121 + r.repair.length) = [
           match s.ss.state with
             | .idle => 0 | .spinup => 1 | .home => 2 | .read => 3 | .release => 4 | .serve => 5 | .ending => 6,
           flagByte s.ss.present, flagByte s.ss.prot, byteOf s.ss.firstTrack, (s.ss.restoring.map byteOf).getD 0xFF]))
         ∧ ∃ p, s.page 2 = some p ∧ p.length = 5 * r.claims.length ∧ ∀ k c, r.claims[k]? = some c →
           (p.drop (5 * k)).take 5 = beBytes 4 c.serial ++ [byteOf c.station.val])
       ∧ (∃ p, s.page 3 = some p ∧ p.length = 504 ∧ ∀ u < 168, (p.drop (3 * u)).take 3 = [
         match (s.store.entry u).presence with | .absent => 0 | .filling => 1 | .held => 2,
         ((s.store.entry u).slot.map byteOf).getD 0xFF, flagByte (s.store.entry u).home])
       ∧ (∃ p, s.page 4 = some p ∧ p.length = 640 ∧ ∀ i < 64, (p.drop (10 * i)).take 10 =
         ([match (s.store.slot i).state with | .free => 0 | .filling => 1 | .home => 2 | .cache => 3,
           ((s.store.slot i).track.map byteOf).getD 0xFF] : List Byte) ++ beBytes 4 (s.store.slot i).check.toNat
         ++ [flagByte (s.store.slot i).drivePin, flagByte (s.store.slot i).linkPin, flagByte (s.store.slot i).damaged,
           flagByte (s.store.slot i).freePending])
       ∧ (∃ p, s.page 5 = some p ∧ p.length = 48 ∧ ∀ k < 8,
         let position := if k < 5 then s.du.need[k]? else s.du.repair[k - 5]?
         let bytes := (p.drop (6 * k)).take 6
         (position = none → bytes = [0xFF, 0, 0, 0, 0, 0])
         ∧ ∀ w, position = some w → bytes.take 4 = [byteOf w.track, byteOf w.attempt, flagByte w.restore,
             match w.phase with | .queued => 1 | .waiting => 2 | .unsent => 3]
           ∧ (w.deadline = none → bytes.drop 4 = [0, 0])
           ∧ ∀ ms, w.deadline = some (s.now + ms * 1000) → bytes.drop 4 = beBytes 2 ms)
       ∧ (∃ p, s.page 6 = some p ∧ p.length = 10 * s.pc.history.length ∧ ∀ k e, s.pc.history[k]? = some e →
         (p.drop (10 * k)).take 10 =
           [match e.outcome with | .accepted => 1 | .rejected => 2 | .pulled => 3, flagByte e.serial.isSome]
           ++ beBytes 4 (e.serial.getD 0) ++ [match e.first with | some f => f.code | none => 0, byteOf e.further,
             byteOf e.verified, match e.cause with
               | none => 0 | some (.abandon why) => why.code | some .close => 7 | some .restart => 8])
       ∧ (∃ p, s.page 7 = some p ∧ p.length = 36 ∧
         let c := s.lc.counters
         ∀ k n, [c.badFrames, c.sendFaults, c.holdOffs, c.wants, c.restores, c.damaged, c.noRoom, c.accepted,
           c.rejected][k]? = some n → (p.drop (4 * k)).take 4 = beBytes 4 n)
       ∧ ∃ p, s.page 8 = some p ∧ p.length = 29 ∧ p.take 1 = [byteOf s.station.val]
         ∧ (p.drop 1).take 22 = s.pc.params.toBytes ∧ (p.drop 23).take 4 = beBytes 4 s.jc.nextBase
         ∧ (∀ k : Fin 8, (p.getD 27 0).getLsbD k.val = s.pc.directory[k].isSome)
         ∧ p.drop 28 = [match s.pc.refusal with
           | none => 0 | some .rigBusy => 1 | some .recipeInvalid => 2 | some .masterNotProtected => 3 | some .noRoom => 4])

/-! ### Encodings -/

/-- Recipe records and frame bodies read back as they were written (R172, R173): every valid recipe, and every body a
station sends, with its fields in the widths of their layouts. A RELEASE is sent from the slot that its link pin
keeps also once that slot is closing (R34): its sectors still go out. The configuration store as R174 lays it out
reads back: the signature 5Ch, a directory of 9 entries of a length and a quarter offset, a station block of 22
bytes, recipe blocks of 73; an absent block 0 leaves the defaults, an absent recipe 0 the built-in one, another
absent recipe or one that is not valid is not usable (R164). -/
def Obligations.WrittenRecordsReadBackAsTheyWere : Prop :=
  ((∀ r : Recipe, r.valid = true → Recipe.ofBytes r.toBytes = some r)
   ∧ ∀ s : State,
     (∀ j : JobTerms, j.recipe.valid = true → j.r < 256 → j.wanted < 65536 → j.base < 4294967296 →
       j.limit < 4294967296 → parseOpen (s.bodyBytes (.jobOpen j)) = some {
         kind := j.kind, roster := j.roster, r := j.r, wanted := j.wanted, base := j.base, limit := j.limit
         recipe := some j.recipe })
     ∧ parseStop (s.bodyBytes .jobStop) = some ()
     ∧ (∀ a v w h, h < 4294967296 → parseClose (s.bodyBytes (.jobClose a v w h)) = some h)
     ∧ (∀ reason, parseAbandon (s.bodyBytes (.jobAbandon reason)) = some reason)
     ∧ (∀ v c, v < 4294967296 → c < 4294967296 → parseClaim (s.bodyBytes (.claim v c)) = some (v, c))
     ∧ (∀ o (v : Option Nat) first further verified, (∀ n, v = some n → n < 4294967296) → further < 256 →
       verified < 256 → parseTally (s.bodyBytes (.tally o v first further verified)) = some {
         outcome := o, serial := v, first := first, further := further, verified := verified })
     ∧ (∀ t a restore, t < 256 → a < 256 → parseWant (s.bodyBytes (.want t a restore)) = some {
         track := t, attempt := a, restore := restore })
     ∧ (∀ t reason o z n w, t < 256 → z < 256 → n < 256 →
       parseRelease (s.bodyBytes (.release t .lost reason o z n w)) = some {
         track := t, status := .lost, reason := reason, size := z, count := n, check := w, sectors := [] })
     ∧ (∀ t reason o w r i, t < 256 → s.jc.record = some r → r.recipe.valid = true → s.store.heldSlot t = some i →
       parseRelease (s.bodyBytes (.release t .good reason o r.recipe.sizeCode r.recipe.sectors w)) = some {
         track := t, status := .good, reason := reason, size := r.recipe.sizeCode, count := r.recipe.sectors
         check := w, sectors := r.recipe.ids.map fun z => (z, s.store.sectorData r.recipe i z) })
     ∧ (∀ first fitted j, parseCall (s.bodyBytes (.call first fitted j)) = some {
         first := first, fitted := fitted, revision := 1, jobId := j })
     ∧ (∀ page offset status data, page < 256 → offset < 65536 → data.length ≤ 256 →
       parseReply (s.bodyBytes (.reply page offset status data)) = some (page, offset)))
  ∧ ((∀ (st : Store) (t i : Nat), st.heldSlot t = none → st.linkPinned = some i → (st.slot i).track = some t →
       st.releaseSlot t = some i)
     ∧ (∀ p : Params, 1 ≤ p.r → p.r ≤ 3 → 2 ≤ p.holdOffLimit → p.holdOffLimit ≤ 15 → 5 ≤ p.holdOffTime →
       p.holdOffTime ≤ 100 → 10 ≤ p.wantTimeout → p.wantTimeout ≤ 250 → 1 ≤ p.wantAttempts → p.wantAttempts ≤ 7 →
       500 ≤ p.restoreTimeout → p.restoreTimeout ≤ 5000 → p.lookahead ≤ 4 → 500 ≤ p.spinUpLimit →
       p.spinUpLimit ≤ 2000 → p.wanted < 65536 → p.serialBase < 4294967296 → 1 ≤ p.serialSpan →
       p.serialSpan < 4294967296 → p.toBytes.length = 22 ∧ Params.ofBytes p.toBytes = some p)
     ∧ ∀ (bs : List Byte), bs.length = 2048 → bs.head? = some 0x5C →
       (beAt bs 1 2 = 0 → (loadConfig bs).params = {})
       ∧ (∀ p, beAt bs 1 2 = 22 → 37 ≤ beAt bs 3 2 * 4 → beAt bs 3 2 * 4 + 22 ≤ 2048 →
         Params.ofBytes ((bs.drop (beAt bs 3 2 * 4)).take 22) = some p → (loadConfig bs).params = p)
       ∧ ∀ k : Fin 8,
         let len := beAt bs (1 + 4 * (k.val + 1)) 2
         let off := beAt bs (1 + 4 * (k.val + 1) + 2) 2 * 4
         (len = 0 → (loadConfig bs).directory[k] = if k = 0 then some Recipe.builtIn else none)
         ∧ (len = 73 → 37 ≤ off → off + 73 ≤ 2048 →
           (loadConfig bs).directory[k] = (Recipe.ofBytes ((bs.drop off).take 73)).filter Recipe.valid))

/-- The physical order of a cylinder: position k carries first + the interleave entry at (k − rotation) mod sectors,
and every cylinder of a valid recipe carries each sector ID once (R127). -/
def Obligations.PhysicalOrderIsInterleavedAndRotated : Prop :=
  ∀ (r : Recipe) (c : Nat),
    (r.physicalOrder c).length = r.sectors
    ∧ (∀ k < r.sectors,
      let rotation : Int := ((r.skew * c % r.sectors : Nat) : Int)
      (r.physicalOrder c)[k]? =
        some (r.firstId + r.interleave.getD (((k : Int) - rotation) % (r.sectors : Int)).toNat 0))
    ∧ (r.valid = true → (r.physicalOrder c).Perm r.ids)

/-- The track built has the track length of R124 from the index to the end of the last gap-3 (R128 to R130), and a
record read with its check bytes leaves the check register at 0 (R131), as does a slot with its track check (R35). A
sector as built (R129, R130): two marker bytes at the head of each record stand in the marker cell pattern, every
other byte in ordinary cells. Its data are the slot's bytes or fill bytes with the rendition of each span of the
sector over them: BINARY in four bytes, DECIMAL in ASCII digits padded with 30h (R133). The track is gap-I and then
the sectors in the physical order of its cylinder (R128). While a write streams (R132, R134) WDATA carries the byte
of the built track that the time since the arming edge has come to, a fill byte after its end, nothing while WGATE is
inactive (the slot is read as it stands at each byte: the model's choice, log 56); the build position names the part,
the physical position and the byte in it, by the rules' lengths against the overrun example: the model's reading (log
61). -/
def Obligations.BuiltTrackHasItsLengthAndChecks : Prop :=
  ((∀ (r : Recipe) (kind : JobKind) (data : List Byte) (t serial : Nat), r.valid = true →
     data.length = r.sectors * r.size →
     (r.buildTrack kind data t serial).length =
       r.gapI + r.sectors * (2 * r.sync + 12 + 128 * 2 ^ r.sizeCode + r.gap2 + r.gap3))
   ∧ (∀ bs : List Byte, crc16 (bs ++ beBytes 2 (crc16 bs).toNat) = 0)
   ∧ (∀ bs : List Byte, crc32 (bs ++ beBytes 4 (crc32 bs).toNat) = 0))
  ∧ ((∀ (p : Span) (n : Nat), (p.form = .binary → p.rendition n = beBytes 4 n)
       ∧ (p.form = .decimal → (p.rendition n).length = p.length
         ∧ ∀ k < p.length, (p.rendition n)[k]? = some (byteOf (0x30 + n / 10 ^ (p.length - 1 - k) % 10))))
     ∧ ∀ (r : Recipe) (kind : JobKind) (bytes : List Byte) (t z n : Nat),
       let data := r.sectorData kind bytes t z n
       let id : List Byte := [byteOf (t / r.heads), byteOf (t % r.heads), byteOf z, byteOf r.sizeCode]
       (r.sectorTrack kind bytes t z n).map (·.value) = List.replicate r.sync 0 ++ [r.idMarker, r.idMarker] ++ id
         ++ beBytes 2 (crc16 ([r.idMarker, r.idMarker] ++ id)).toNat ++ List.replicate r.gap2 r.fill
         ++ List.replicate r.sync 0 ++ [r.dataMarker, r.dataMarker] ++ data
         ++ beBytes 2 (crc16 ([r.dataMarker, r.dataMarker] ++ data)).toNat ++ List.replicate r.gap3 r.fill
       ∧ (r.sectorTrack kind bytes t z n).map (·.marker) = List.replicate r.sync false ++ [true, true]
         ++ List.replicate (6 + r.gap2 + r.sync) false ++ [true, true]
         ++ List.replicate (data.length + 2 + r.gap3) false
       ∧ (r.valid = true → z ∈ r.ids → bytes.length = r.sectors * r.size → data.length = r.size
         ∧ ∀ k < r.size,
           (∀ p ∈ r.spans, p.track = t → p.sector = z → p.offset ≤ k → k < p.offset + p.length →
             data[k]? = (p.rendition n)[k - p.offset]?)
           ∧ ((∀ p ∈ r.spans, p.track = t → p.sector = z → k < p.offset ∨ p.offset + p.length ≤ k) →
             (kind = .copy → data[k]? = bytes[(z - r.firstId) * r.size + k]?) ∧ (kind = .format → data[k]? = some r.fill))))
  ∧ ((∀ (r : Recipe) (kind : JobKind) (data : List Byte) (t n : Nat),
       r.buildTrack kind data t n = (List.replicate r.gapI r.fill).map (fun b => { value := b })
         ++ (r.physicalOrder (t / r.heads)).flatMap fun z => r.sectorTrack kind data t z n)
     ∧ (∀ (s : State) (r : JobRecord), s.jc.record = some r →
       (s.tb = none → s.wdata = none ∧ s.buildPosition = none)
       ∧ (∀ t, s.cs.disk.live = true → s.cs.disk.track = some t →
         (∀ i, r.kind = .copy → s.store.drivePinned = some i →
           s.builtTrack = r.recipe.buildTrack .copy (s.store.trackData r.recipe i) t (s.cs.disk.serial.getD 0))
         ∧ (r.kind = .format → s.builtTrack = r.recipe.buildTrack .format [] t (s.cs.disk.serial.getD 0)))
       ∧ ∀ w, s.tb = some w →
         let n := (s.now - w.since) * r.recipe.rate.bps * (200 + r.recipe.trim).toNat / 1600000000
         s.buildPosition = some (r.recipe.buildPosition n)
         ∧ (s.dp.wgate = false → s.wdata = none)
         ∧ (s.dp.wgate = true → n < s.builtTrack.length → s.wdata = s.builtTrack[n]?)
         ∧ (s.dp.wgate = true → s.builtTrack.length ≤ n → s.wdata = some { value := r.recipe.fill, marker := false }))
     ∧ ∀ (r : Recipe) (k x : Nat),
       let idEnd := r.sync + 8
       let dataAt := idEnd + r.gap2
       let dataEnd := dataAt + r.sync + 4 + 128 * 2 ^ r.sizeCode
       let sector := dataEnd + r.gap3
       let n := r.gapI + k * sector + x
       (x < r.gapI → r.buildPosition x = (.gapI, 0, x))
       ∧ (k < r.sectors → x < sector → r.buildPosition n =
         if x < idEnd then (.idRecord, k, x)
         else if x < dataAt then (.gap2, k, x - idEnd)
         else if x < dataEnd then (.dataRecord, k, x - dataAt) else (.gap3, k, x - dataEnd))
       ∧ r.buildPosition (r.gapI + r.sectors * sector + x) = (.gap4, r.sectors, x))

/-! ### What every step keeps -/

/-- The invariants hold at reset. -/
def Obligations.InvariantsHoldAtReset : Prop := State.reset.Inv

/-- Every step keeps the account of R65 balanced and the claim list in order. -/
def Obligations.EveryStepKeepsTheAccount : Prop :=
  ∀ s t : State, s.accountSound → step s = .next t → t.accountSound

/-- Every step keeps the write gate law (R139). -/
def Obligations.EveryStepKeepsTheWriteGateLaw : Prop :=
  ∀ s t : State, s.gateSound → step s = .next t → t.gateSound

/-- Every step keeps the slots' bytes in canonical form, the transmit queue within R152 and R153, and the lists and
counters within their bounds; and within a job the release mark never falls, and once at most T stays so (R41), and
an allowance of at most 60 places keeps at most 60 (R24). -/
def Obligations.EveryStepKeepsMemoryQueueAndBounds : Prop :=
  ∀ s t : State, s.memorySound → s.lc.queueSound → s.bounded → step s = .next t →
    t.memorySound ∧ t.lc.queueSound ∧ t.bounded
    ∧ ∀ r r', s.jc.record = some r → t.jc.record = some r' →
      r.mark ≤ r'.mark ∧ (r.mark ≤ r.tracks → r'.mark ≤ r'.tracks)
      ∧ (s.store.allowance.length ≤ 60 → t.store.allowance.length ≤ 60)

end
end

