-- ==== Sys2Proof/Laws/State.lean ====
section
/-! SUPPORT. What each named update of State does to each field, true by computation. -/

namespace Sys2Proof.Machine

/-! ### tickTo -/

@[simp] theorem State.tickTo_pending (t : Nat) (s : State) : (s.tickTo t).pending = s.pending := rfl
@[simp] theorem State.tickTo_now (t : Nat) (s : State) : (s.tickTo t).now = max s.now t := rfl
@[simp] theorem State.tickTo_station (t : Nat) (s : State) : (s.tickTo t).station = s.station := rfl
@[simp] theorem State.tickTo_boot (t : Nat) (s : State) : (s.tickTo t).boot = s.boot := rfl
@[simp] theorem State.tickTo_lc (t : Nat) (s : State) : (s.tickTo t).lc = s.lc := rfl
@[simp] theorem State.tickTo_jc (t : Nat) (s : State) : (s.tickTo t).jc = s.jc := rfl
@[simp] theorem State.tickTo_store (t : Nat) (s : State) : (s.tickTo t).store = s.store := rfl
@[simp] theorem State.tickTo_du (t : Nat) (s : State) : (s.tickTo t).du = s.du := rfl
@[simp] theorem State.tickTo_cs (t : Nat) (s : State) : (s.tickTo t).cs = s.cs := rfl
@[simp] theorem State.tickTo_ss (t : Nat) (s : State) : (s.tickTo t).ss = s.ss := rfl
@[simp] theorem State.tickTo_tb (t : Nat) (s : State) : (s.tickTo t).tb = s.tb := rfl
@[simp] theorem State.tickTo_vu (t : Nat) (s : State) : (s.tickTo t).vu = s.vu := rfl
@[simp] theorem State.tickTo_dp (t : Nat) (s : State) : (s.tickTo t).dp = s.dp := rfl
@[simp] theorem State.tickTo_pc (t : Nat) (s : State) : (s.tickTo t).pc = s.pc := rfl

/-! ### count -/

@[simp] theorem State.count_pending (g : Counters → Counters) (s : State) : (s.count g).pending = s.pending := rfl
@[simp] theorem State.count_now (g : Counters → Counters) (s : State) : (s.count g).now = s.now := rfl
@[simp] theorem State.count_station (g : Counters → Counters) (s : State) : (s.count g).station = s.station := rfl
@[simp] theorem State.count_boot (g : Counters → Counters) (s : State) : (s.count g).boot = s.boot := rfl
@[simp] theorem State.count_lc (g : Counters → Counters) (s : State) : (s.count g).lc = { s.lc with counters := g s.lc.counters } := rfl
@[simp] theorem State.count_jc (g : Counters → Counters) (s : State) : (s.count g).jc = s.jc := rfl
@[simp] theorem State.count_store (g : Counters → Counters) (s : State) : (s.count g).store = s.store := rfl
@[simp] theorem State.count_du (g : Counters → Counters) (s : State) : (s.count g).du = s.du := rfl
@[simp] theorem State.count_cs (g : Counters → Counters) (s : State) : (s.count g).cs = s.cs := rfl
@[simp] theorem State.count_ss (g : Counters → Counters) (s : State) : (s.count g).ss = s.ss := rfl
@[simp] theorem State.count_tb (g : Counters → Counters) (s : State) : (s.count g).tb = s.tb := rfl
@[simp] theorem State.count_vu (g : Counters → Counters) (s : State) : (s.count g).vu = s.vu := rfl
@[simp] theorem State.count_dp (g : Counters → Counters) (s : State) : (s.count g).dp = s.dp := rfl
@[simp] theorem State.count_pc (g : Counters → Counters) (s : State) : (s.count g).pc = s.pc := rfl

/-! ### mapRecord -/

@[simp] theorem State.mapRecord_pending (g : JobRecord → JobRecord) (s : State) : (s.mapRecord g).pending = s.pending := rfl
@[simp] theorem State.mapRecord_now (g : JobRecord → JobRecord) (s : State) : (s.mapRecord g).now = s.now := rfl
@[simp] theorem State.mapRecord_station (g : JobRecord → JobRecord) (s : State) : (s.mapRecord g).station = s.station := rfl
@[simp] theorem State.mapRecord_boot (g : JobRecord → JobRecord) (s : State) : (s.mapRecord g).boot = s.boot := rfl
@[simp] theorem State.mapRecord_lc (g : JobRecord → JobRecord) (s : State) : (s.mapRecord g).lc = s.lc := rfl
@[simp] theorem State.mapRecord_jc (g : JobRecord → JobRecord) (s : State) : (s.mapRecord g).jc = { s.jc with record := s.jc.record.map g } := rfl
@[simp] theorem State.mapRecord_store (g : JobRecord → JobRecord) (s : State) : (s.mapRecord g).store = s.store := rfl
@[simp] theorem State.mapRecord_du (g : JobRecord → JobRecord) (s : State) : (s.mapRecord g).du = s.du := rfl
@[simp] theorem State.mapRecord_cs (g : JobRecord → JobRecord) (s : State) : (s.mapRecord g).cs = s.cs := rfl
@[simp] theorem State.mapRecord_ss (g : JobRecord → JobRecord) (s : State) : (s.mapRecord g).ss = s.ss := rfl
@[simp] theorem State.mapRecord_tb (g : JobRecord → JobRecord) (s : State) : (s.mapRecord g).tb = s.tb := rfl
@[simp] theorem State.mapRecord_vu (g : JobRecord → JobRecord) (s : State) : (s.mapRecord g).vu = s.vu := rfl
@[simp] theorem State.mapRecord_dp (g : JobRecord → JobRecord) (s : State) : (s.mapRecord g).dp = s.dp := rfl
@[simp] theorem State.mapRecord_pc (g : JobRecord → JobRecord) (s : State) : (s.mapRecord g).pc = s.pc := rfl

/-! ### push -/

@[simp] theorem State.push_pending (b : Body) (j : JobId) (s : State) : (s.push b j).pending = s.pending := rfl
@[simp] theorem State.push_now (b : Body) (j : JobId) (s : State) : (s.push b j).now = s.now := rfl
@[simp] theorem State.push_station (b : Body) (j : JobId) (s : State) : (s.push b j).station = s.station := rfl
@[simp] theorem State.push_boot (b : Body) (j : JobId) (s : State) : (s.push b j).boot = s.boot := rfl
@[simp] theorem State.push_lc (b : Body) (j : JobId) (s : State) : (s.push b j).lc = { s.lc with queue := s.lc.queue ++ [{ body := b, jobId := j }] } := rfl
@[simp] theorem State.push_jc (b : Body) (j : JobId) (s : State) : (s.push b j).jc = s.jc := rfl
@[simp] theorem State.push_store (b : Body) (j : JobId) (s : State) : (s.push b j).store = s.store := rfl
@[simp] theorem State.push_du (b : Body) (j : JobId) (s : State) : (s.push b j).du = s.du := rfl
@[simp] theorem State.push_cs (b : Body) (j : JobId) (s : State) : (s.push b j).cs = s.cs := rfl
@[simp] theorem State.push_ss (b : Body) (j : JobId) (s : State) : (s.push b j).ss = s.ss := rfl
@[simp] theorem State.push_tb (b : Body) (j : JobId) (s : State) : (s.push b j).tb = s.tb := rfl
@[simp] theorem State.push_vu (b : Body) (j : JobId) (s : State) : (s.push b j).vu = s.vu := rfl
@[simp] theorem State.push_dp (b : Body) (j : JobId) (s : State) : (s.push b j).dp = s.dp := rfl
@[simp] theorem State.push_pc (b : Body) (j : JobId) (s : State) : (s.push b j).pc = s.pc := rfl

/-! ### mapFrame -/

@[simp] theorem State.mapFrame_pending (k : FrameKey) (g : Frame → Frame) (s : State) : (s.mapFrame k g).pending = s.pending := rfl
@[simp] theorem State.mapFrame_now (k : FrameKey) (g : Frame → Frame) (s : State) : (s.mapFrame k g).now = s.now := rfl
@[simp] theorem State.mapFrame_station (k : FrameKey) (g : Frame → Frame) (s : State) : (s.mapFrame k g).station = s.station := rfl
@[simp] theorem State.mapFrame_boot (k : FrameKey) (g : Frame → Frame) (s : State) : (s.mapFrame k g).boot = s.boot := rfl
@[simp] theorem State.mapFrame_lc (k : FrameKey) (g : Frame → Frame) (s : State) : (s.mapFrame k g).lc = { s.lc with queue := s.lc.queue.map fun f => if f.key = k then g f else f } := rfl
@[simp] theorem State.mapFrame_jc (k : FrameKey) (g : Frame → Frame) (s : State) : (s.mapFrame k g).jc = s.jc := rfl
@[simp] theorem State.mapFrame_store (k : FrameKey) (g : Frame → Frame) (s : State) : (s.mapFrame k g).store = s.store := rfl
@[simp] theorem State.mapFrame_du (k : FrameKey) (g : Frame → Frame) (s : State) : (s.mapFrame k g).du = s.du := rfl
@[simp] theorem State.mapFrame_cs (k : FrameKey) (g : Frame → Frame) (s : State) : (s.mapFrame k g).cs = s.cs := rfl
@[simp] theorem State.mapFrame_ss (k : FrameKey) (g : Frame → Frame) (s : State) : (s.mapFrame k g).ss = s.ss := rfl
@[simp] theorem State.mapFrame_tb (k : FrameKey) (g : Frame → Frame) (s : State) : (s.mapFrame k g).tb = s.tb := rfl
@[simp] theorem State.mapFrame_vu (k : FrameKey) (g : Frame → Frame) (s : State) : (s.mapFrame k g).vu = s.vu := rfl
@[simp] theorem State.mapFrame_dp (k : FrameKey) (g : Frame → Frame) (s : State) : (s.mapFrame k g).dp = s.dp := rfl
@[simp] theorem State.mapFrame_pc (k : FrameKey) (g : Frame → Frame) (s : State) : (s.mapFrame k g).pc = s.pc := rfl

/-! ### mapDrive -/

@[simp] theorem State.mapDrive_pending (g : Drive → Drive) (s : State) : (s.mapDrive g).pending = s.pending := rfl
@[simp] theorem State.mapDrive_now (g : Drive → Drive) (s : State) : (s.mapDrive g).now = s.now := rfl
@[simp] theorem State.mapDrive_station (g : Drive → Drive) (s : State) : (s.mapDrive g).station = s.station := rfl
@[simp] theorem State.mapDrive_boot (g : Drive → Drive) (s : State) : (s.mapDrive g).boot = s.boot := rfl
@[simp] theorem State.mapDrive_lc (g : Drive → Drive) (s : State) : (s.mapDrive g).lc = s.lc := rfl
@[simp] theorem State.mapDrive_jc (g : Drive → Drive) (s : State) : (s.mapDrive g).jc = s.jc := rfl
@[simp] theorem State.mapDrive_store (g : Drive → Drive) (s : State) : (s.mapDrive g).store = s.store := rfl
@[simp] theorem State.mapDrive_du (g : Drive → Drive) (s : State) : (s.mapDrive g).du = s.du := rfl
@[simp] theorem State.mapDrive_cs (g : Drive → Drive) (s : State) : (s.mapDrive g).cs = s.cs := rfl
@[simp] theorem State.mapDrive_ss (g : Drive → Drive) (s : State) : (s.mapDrive g).ss = s.ss := rfl
@[simp] theorem State.mapDrive_tb (g : Drive → Drive) (s : State) : (s.mapDrive g).tb = s.tb := rfl
@[simp] theorem State.mapDrive_vu (g : Drive → Drive) (s : State) : (s.mapDrive g).vu = s.vu := rfl
@[simp] theorem State.mapDrive_dp (g : Drive → Drive) (s : State) : (s.mapDrive g).dp = g s.dp := rfl
@[simp] theorem State.mapDrive_pc (g : Drive → Drive) (s : State) : (s.mapDrive g).pc = s.pc := rfl

/-! ### mapCopy -/

@[simp] theorem State.mapCopy_pending (g : Copy → Copy) (s : State) : (s.mapCopy g).pending = s.pending := rfl
@[simp] theorem State.mapCopy_now (g : Copy → Copy) (s : State) : (s.mapCopy g).now = s.now := rfl
@[simp] theorem State.mapCopy_station (g : Copy → Copy) (s : State) : (s.mapCopy g).station = s.station := rfl
@[simp] theorem State.mapCopy_boot (g : Copy → Copy) (s : State) : (s.mapCopy g).boot = s.boot := rfl
@[simp] theorem State.mapCopy_lc (g : Copy → Copy) (s : State) : (s.mapCopy g).lc = s.lc := rfl
@[simp] theorem State.mapCopy_jc (g : Copy → Copy) (s : State) : (s.mapCopy g).jc = s.jc := rfl
@[simp] theorem State.mapCopy_store (g : Copy → Copy) (s : State) : (s.mapCopy g).store = s.store := rfl
@[simp] theorem State.mapCopy_du (g : Copy → Copy) (s : State) : (s.mapCopy g).du = s.du := rfl
@[simp] theorem State.mapCopy_cs (g : Copy → Copy) (s : State) : (s.mapCopy g).cs = g s.cs := rfl
@[simp] theorem State.mapCopy_ss (g : Copy → Copy) (s : State) : (s.mapCopy g).ss = s.ss := rfl
@[simp] theorem State.mapCopy_tb (g : Copy → Copy) (s : State) : (s.mapCopy g).tb = s.tb := rfl
@[simp] theorem State.mapCopy_vu (g : Copy → Copy) (s : State) : (s.mapCopy g).vu = s.vu := rfl
@[simp] theorem State.mapCopy_dp (g : Copy → Copy) (s : State) : (s.mapCopy g).dp = s.dp := rfl
@[simp] theorem State.mapCopy_pc (g : Copy → Copy) (s : State) : (s.mapCopy g).pc = s.pc := rfl

/-! ### mapDisk -/

@[simp] theorem State.mapDisk_pending (g : Disk → Disk) (s : State) : (s.mapDisk g).pending = s.pending := rfl
@[simp] theorem State.mapDisk_now (g : Disk → Disk) (s : State) : (s.mapDisk g).now = s.now := rfl
@[simp] theorem State.mapDisk_station (g : Disk → Disk) (s : State) : (s.mapDisk g).station = s.station := rfl
@[simp] theorem State.mapDisk_boot (g : Disk → Disk) (s : State) : (s.mapDisk g).boot = s.boot := rfl
@[simp] theorem State.mapDisk_lc (g : Disk → Disk) (s : State) : (s.mapDisk g).lc = s.lc := rfl
@[simp] theorem State.mapDisk_jc (g : Disk → Disk) (s : State) : (s.mapDisk g).jc = s.jc := rfl
@[simp] theorem State.mapDisk_store (g : Disk → Disk) (s : State) : (s.mapDisk g).store = s.store := rfl
@[simp] theorem State.mapDisk_du (g : Disk → Disk) (s : State) : (s.mapDisk g).du = s.du := rfl
@[simp] theorem State.mapDisk_cs (g : Disk → Disk) (s : State) : (s.mapDisk g).cs = { s.cs with disk := g s.cs.disk } := rfl
@[simp] theorem State.mapDisk_ss (g : Disk → Disk) (s : State) : (s.mapDisk g).ss = s.ss := rfl
@[simp] theorem State.mapDisk_tb (g : Disk → Disk) (s : State) : (s.mapDisk g).tb = s.tb := rfl
@[simp] theorem State.mapDisk_vu (g : Disk → Disk) (s : State) : (s.mapDisk g).vu = s.vu := rfl
@[simp] theorem State.mapDisk_dp (g : Disk → Disk) (s : State) : (s.mapDisk g).dp = s.dp := rfl
@[simp] theorem State.mapDisk_pc (g : Disk → Disk) (s : State) : (s.mapDisk g).pc = s.pc := rfl

/-! ### mapDu -/

@[simp] theorem State.mapDu_pending (g : Distribution → Distribution) (s : State) : (s.mapDu g).pending = s.pending := rfl
@[simp] theorem State.mapDu_now (g : Distribution → Distribution) (s : State) : (s.mapDu g).now = s.now := rfl
@[simp] theorem State.mapDu_station (g : Distribution → Distribution) (s : State) : (s.mapDu g).station = s.station := rfl
@[simp] theorem State.mapDu_boot (g : Distribution → Distribution) (s : State) : (s.mapDu g).boot = s.boot := rfl
@[simp] theorem State.mapDu_lc (g : Distribution → Distribution) (s : State) : (s.mapDu g).lc = s.lc := rfl
@[simp] theorem State.mapDu_jc (g : Distribution → Distribution) (s : State) : (s.mapDu g).jc = s.jc := rfl
@[simp] theorem State.mapDu_store (g : Distribution → Distribution) (s : State) : (s.mapDu g).store = s.store := rfl
@[simp] theorem State.mapDu_du (g : Distribution → Distribution) (s : State) : (s.mapDu g).du = g s.du := rfl
@[simp] theorem State.mapDu_cs (g : Distribution → Distribution) (s : State) : (s.mapDu g).cs = s.cs := rfl
@[simp] theorem State.mapDu_ss (g : Distribution → Distribution) (s : State) : (s.mapDu g).ss = s.ss := rfl
@[simp] theorem State.mapDu_tb (g : Distribution → Distribution) (s : State) : (s.mapDu g).tb = s.tb := rfl
@[simp] theorem State.mapDu_vu (g : Distribution → Distribution) (s : State) : (s.mapDu g).vu = s.vu := rfl
@[simp] theorem State.mapDu_dp (g : Distribution → Distribution) (s : State) : (s.mapDu g).dp = s.dp := rfl
@[simp] theorem State.mapDu_pc (g : Distribution → Distribution) (s : State) : (s.mapDu g).pc = s.pc := rfl

/-! ### mapSource -/

@[simp] theorem State.mapSource_pending (g : Source → Source) (s : State) : (s.mapSource g).pending = s.pending := rfl
@[simp] theorem State.mapSource_now (g : Source → Source) (s : State) : (s.mapSource g).now = s.now := rfl
@[simp] theorem State.mapSource_station (g : Source → Source) (s : State) : (s.mapSource g).station = s.station := rfl
@[simp] theorem State.mapSource_boot (g : Source → Source) (s : State) : (s.mapSource g).boot = s.boot := rfl
@[simp] theorem State.mapSource_lc (g : Source → Source) (s : State) : (s.mapSource g).lc = s.lc := rfl
@[simp] theorem State.mapSource_jc (g : Source → Source) (s : State) : (s.mapSource g).jc = s.jc := rfl
@[simp] theorem State.mapSource_store (g : Source → Source) (s : State) : (s.mapSource g).store = s.store := rfl
@[simp] theorem State.mapSource_du (g : Source → Source) (s : State) : (s.mapSource g).du = s.du := rfl
@[simp] theorem State.mapSource_cs (g : Source → Source) (s : State) : (s.mapSource g).cs = s.cs := rfl
@[simp] theorem State.mapSource_ss (g : Source → Source) (s : State) : (s.mapSource g).ss = g s.ss := rfl
@[simp] theorem State.mapSource_tb (g : Source → Source) (s : State) : (s.mapSource g).tb = s.tb := rfl
@[simp] theorem State.mapSource_vu (g : Source → Source) (s : State) : (s.mapSource g).vu = s.vu := rfl
@[simp] theorem State.mapSource_dp (g : Source → Source) (s : State) : (s.mapSource g).dp = s.dp := rfl
@[simp] theorem State.mapSource_pc (g : Source → Source) (s : State) : (s.mapSource g).pc = s.pc := rfl

/-! ### setNote -/

@[simp] theorem State.setNote_pending (j : JobId) (s : State) : (s.setNote j).pending = s.pending := rfl
@[simp] theorem State.setNote_now (j : JobId) (s : State) : (s.setNote j).now = s.now := rfl
@[simp] theorem State.setNote_station (j : JobId) (s : State) : (s.setNote j).station = s.station := rfl
@[simp] theorem State.setNote_boot (j : JobId) (s : State) : (s.setNote j).boot = s.boot := rfl
@[simp] theorem State.setNote_lc (j : JobId) (s : State) : (s.setNote j).lc = { s.lc with foreign := some j } := rfl
@[simp] theorem State.setNote_jc (j : JobId) (s : State) : (s.setNote j).jc = s.jc := rfl
@[simp] theorem State.setNote_store (j : JobId) (s : State) : (s.setNote j).store = s.store := rfl
@[simp] theorem State.setNote_du (j : JobId) (s : State) : (s.setNote j).du = s.du := rfl
@[simp] theorem State.setNote_cs (j : JobId) (s : State) : (s.setNote j).cs = s.cs := rfl
@[simp] theorem State.setNote_ss (j : JobId) (s : State) : (s.setNote j).ss = s.ss := rfl
@[simp] theorem State.setNote_tb (j : JobId) (s : State) : (s.setNote j).tb = s.tb := rfl
@[simp] theorem State.setNote_vu (j : JobId) (s : State) : (s.setNote j).vu = s.vu := rfl
@[simp] theorem State.setNote_dp (j : JobId) (s : State) : (s.setNote j).dp = s.dp := rfl
@[simp] theorem State.setNote_pc (j : JobId) (s : State) : (s.setNote j).pc = s.pc := rfl

/-! ### setAccount -/

@[simp] theorem State.setAccount_pending (r : JobRecord) (s : State) : (s.setAccount r).pending = s.pending := rfl
@[simp] theorem State.setAccount_now (r : JobRecord) (s : State) : (s.setAccount r).now = s.now := rfl
@[simp] theorem State.setAccount_station (r : JobRecord) (s : State) : (s.setAccount r).station = s.station := rfl
@[simp] theorem State.setAccount_boot (r : JobRecord) (s : State) : (s.setAccount r).boot = s.boot := rfl
@[simp] theorem State.setAccount_lc (r : JobRecord) (s : State) : (s.setAccount r).lc = s.lc := rfl
@[simp] theorem State.setAccount_jc (r : JobRecord) (s : State) : (s.setAccount r).jc = { s.jc with record := some r.drainTest } := rfl
@[simp] theorem State.setAccount_store (r : JobRecord) (s : State) : (s.setAccount r).store = s.store := rfl
@[simp] theorem State.setAccount_du (r : JobRecord) (s : State) : (s.setAccount r).du = s.du := rfl
@[simp] theorem State.setAccount_cs (r : JobRecord) (s : State) : (s.setAccount r).cs = s.cs := rfl
@[simp] theorem State.setAccount_ss (r : JobRecord) (s : State) : (s.setAccount r).ss = s.ss := rfl
@[simp] theorem State.setAccount_tb (r : JobRecord) (s : State) : (s.setAccount r).tb = s.tb := rfl
@[simp] theorem State.setAccount_vu (r : JobRecord) (s : State) : (s.setAccount r).vu = s.vu := rfl
@[simp] theorem State.setAccount_dp (r : JobRecord) (s : State) : (s.setAccount r).dp = s.dp := rfl
@[simp] theorem State.setAccount_pc (r : JobRecord) (s : State) : (s.setAccount r).pc = s.pc := rfl

/-! ### startSequence -/

@[simp] theorem State.startSequence_pending (a : AbandonReason) (s : State) : (s.startSequence a).pending = s.pending := rfl
@[simp] theorem State.startSequence_now (a : AbandonReason) (s : State) : (s.startSequence a).now = s.now := rfl
@[simp] theorem State.startSequence_station (a : AbandonReason) (s : State) : (s.startSequence a).station = s.station := rfl
@[simp] theorem State.startSequence_boot (a : AbandonReason) (s : State) : (s.startSequence a).boot = s.boot := rfl
@[simp] theorem State.startSequence_lc (a : AbandonReason) (s : State) : (s.startSequence a).lc = s.lc := rfl
@[simp] theorem State.startSequence_jc (a : AbandonReason) (s : State) : (s.startSequence a).jc = s.jc := rfl
@[simp] theorem State.startSequence_store (a : AbandonReason) (s : State) : (s.startSequence a).store = s.store := rfl
@[simp] theorem State.startSequence_du (a : AbandonReason) (s : State) : (s.startSequence a).du = s.du := rfl
@[simp] theorem State.startSequence_cs (a : AbandonReason) (s : State) : (s.startSequence a).cs = s.cs := rfl
@[simp] theorem State.startSequence_ss (a : AbandonReason) (s : State) : (s.startSequence a).ss = s.ss := rfl
@[simp] theorem State.startSequence_tb (a : AbandonReason) (s : State) : (s.startSequence a).tb = s.tb := rfl
@[simp] theorem State.startSequence_vu (a : AbandonReason) (s : State) : (s.startSequence a).vu = s.vu := rfl
@[simp] theorem State.startSequence_dp (a : AbandonReason) (s : State) : (s.startSequence a).dp = s.dp := rfl
@[simp] theorem State.startSequence_pc (a : AbandonReason) (s : State) : (s.startSequence a).pc = { s.pc with sequence := some (a, s.now) } := rfl

end Sys2Proof.Machine
end

