-- ==== Sys2Proof/Laws/Store.lean ====
section
/-! SUPPORT. The slot memory keeps its canonical form and reads back what was written; what each operation of the
store and of the drive port leaves as it was. -/

namespace Sys2Proof.Machine

/-! ### Canonical form -/

theorem Memory.wfFrom_mono {lo lo' : Nat} {m : List Host.Cell} (h : lo' ≤ lo) (hm : Memory.wfFrom lo m = true) :
    Memory.wfFrom lo' m = true := by
  cases m with
  | nil => rfl
  | cons c rest =>
    obtain ⟨a, b⟩ := c
    simp only [Memory.wfFrom, Bool.and_eq_true, decide_eq_true_eq] at hm ⊢
    exact ⟨⟨Nat.le_trans h hm.1.1, hm.1.2⟩, hm.2⟩

/-- Addresses of a canonical list are at or above its bound. -/
theorem Memory.wfFrom_mem {lo : Nat} {m : List Host.Cell} (hm : Memory.wfFrom lo m = true) :
    ∀ c ∈ m, lo ≤ c.1 ∧ c.2 ≠ Config.unwrittenByte := by
  induction m generalizing lo with
  | nil => simp
  | cons c rest ih =>
    obtain ⟨a, b⟩ := c
    simp only [Memory.wfFrom, Bool.and_eq_true, decide_eq_true_eq] at hm
    intro d hd
    rcases List.mem_cons.mp hd with rfl | hd
    · exact ⟨hm.1.1, hm.1.2⟩
    · exact ⟨by have := (ih hm.2 d hd).1; omega, (ih hm.2 d hd).2⟩

theorem Memory.wfFrom_filter {lo : Nat} {m : List Host.Cell} (p : Host.Cell → Bool)
    (hm : Memory.wfFrom lo m = true) : Memory.wfFrom lo (m.filter p) = true := by
  induction m generalizing lo with
  | nil => rfl
  | cons c rest ih =>
    obtain ⟨a, b⟩ := c
    simp only [Memory.wfFrom, Bool.and_eq_true, decide_eq_true_eq] at hm
    by_cases hp : p (a, b) = true
    · rw [List.filter_cons_of_pos hp]
      simp only [Memory.wfFrom, Bool.and_eq_true, decide_eq_true_eq]
      exact ⟨hm.1, ih hm.2⟩
    · rw [List.filter_cons_of_neg hp]
      exact Memory.wfFrom_mono (by omega) (ih hm.2)

/-- Two canonical lists, the second above the first, make one. -/
theorem Memory.wfFrom_append {lo hi : Nat} {m n : List Host.Cell} (hm : Memory.wfFrom lo m = true)
    (hn : Memory.wfFrom hi n = true) (hlo : lo ≤ hi) (hlt : ∀ c ∈ m, c.1 < hi) :
    Memory.wfFrom lo (m ++ n) = true := by
  induction m generalizing lo with
  | nil => exact Memory.wfFrom_mono hlo hn
  | cons c rest ih =>
    obtain ⟨a, b⟩ := c
    simp only [List.cons_append, Memory.wfFrom, Bool.and_eq_true, decide_eq_true_eq] at hm ⊢
    have := hlt (a, b) List.mem_cons_self
    exact ⟨hm.1, ih hm.2 (Nat.succ_le_of_lt this) fun d hd => hlt d (List.mem_cons_of_mem _ hd)⟩

theorem Memory.wfFrom_cells (a : Nat) (bs : List Byte) : Memory.wfFrom a (Memory.cells a bs) = true := by
  induction bs generalizing a with
  | nil => rfl
  | cons b bs ih =>
    simp only [Memory.cells]
    split
    · exact Memory.wfFrom_mono (by omega) (ih (a + 1))
    · rename_i h
      simp only [Memory.wfFrom, Bool.and_eq_true, decide_eq_true_eq]
      exact ⟨⟨Nat.le_refl a, h⟩, ih (a + 1)⟩

theorem Memory.cells_lt (a : Nat) (bs : List Byte) : ∀ c ∈ Memory.cells a bs, c.1 < a + bs.length := by
  induction bs generalizing a with
  | nil => simp [Memory.cells]
  | cons b bs ih =>
    simp only [Memory.cells]
    intro c hc
    simp only [List.length_cons]
    split at hc
    · have := ih (a + 1) c hc; omega
    · rcases List.mem_cons.mp hc with rfl | hc
      · show a < _; omega
      · have := ih (a + 1) c hc; omega

/-- A list whose addresses are all at or above a higher bound is canonical from there. -/
theorem Memory.wfFrom_raise {lo hi : Nat} {m : List Host.Cell} (hm : Memory.wfFrom lo m = true)
    (h : ∀ c ∈ m, hi ≤ c.1) : Memory.wfFrom hi m = true := by
  cases m with
  | nil => rfl
  | cons c rest =>
    obtain ⟨a, b⟩ := c
    simp only [Memory.wfFrom, Bool.and_eq_true, decide_eq_true_eq] at hm ⊢
    exact ⟨⟨h (a, b) List.mem_cons_self, hm.1.2⟩, hm.2⟩

/-- A write keeps the canonical form. -/
theorem Memory.wf_write {m : List Host.Cell} (a : Nat) (bs : List Byte) (hm : Memory.wf m = true) :
    Memory.wf (Memory.write m a bs) = true := by
  unfold Memory.wf Memory.write at *
  rw [List.append_assoc]
  have hhi : Memory.wfFrom (a + bs.length) (m.filter fun c => decide (a + bs.length ≤ c.1)) = true := by
    apply Memory.wfFrom_raise (Memory.wfFrom_filter _ hm)
    intro c hc
    simpa using (List.mem_filter.mp hc).2
  have hmid := Memory.wfFrom_append (Memory.wfFrom_cells a bs) hhi (by omega) (Memory.cells_lt a bs)
  apply Memory.wfFrom_append (Memory.wfFrom_filter _ hm) hmid (by omega)
  intro c hc
  simpa using (List.mem_filter.mp hc).2

/-- Bytes that change of themselves keep the canonical form. -/
theorem Memory.wf_upset {m : List Host.Cell} (base : Nat) (u : Upset) (hm : Memory.wf m = true) :
    Memory.wf (Memory.upset m base u) = true := by
  unfold Memory.upset
  induction u generalizing m with
  | nil => exact hm
  | cons c u ih =>
    simp only [List.foldl_cons]
    apply ih
    split
    · exact Memory.wf_write _ _ hm
    · exact hm

/-! ### Reading back -/

theorem Memory.read_none {m : List Host.Cell} {x : Nat} (h : ∀ c ∈ m, c.1 ≠ x) :
    Memory.read m x = Config.unwrittenByte := by
  induction m with
  | nil => rfl
  | cons c rest ih =>
    obtain ⟨a, b⟩ := c
    simp only [Memory.read]
    rw [if_neg (h (a, b) List.mem_cons_self)]
    exact ih fun d hd => h d (List.mem_cons_of_mem _ hd)

theorem Memory.read_append_right {m n : List Host.Cell} {x : Nat} (h : ∀ c ∈ m, c.1 ≠ x) :
    Memory.read (m ++ n) x = Memory.read n x := by
  induction m with
  | nil => rfl
  | cons c rest ih =>
    obtain ⟨a, b⟩ := c
    simp only [List.cons_append, Memory.read]
    rw [if_neg (h (a, b) List.mem_cons_self)]
    exact ih fun d hd => h d (List.mem_cons_of_mem _ hd)

theorem Memory.read_append_left {m n : List Host.Cell} {x : Nat} (h : ∀ c ∈ n, c.1 ≠ x) :
    Memory.read (m ++ n) x = Memory.read m x := by
  induction m with
  | nil => exact Memory.read_none h
  | cons c rest ih =>
    obtain ⟨a, b⟩ := c
    simp only [List.cons_append, Memory.read, ih]

theorem Memory.read_filter {m : List Host.Cell} (p : Nat → Bool) {x : Nat} (hx : p x = true) :
    Memory.read (m.filter fun c => p c.1) x = Memory.read m x := by
  induction m with
  | nil => rfl
  | cons c rest ih =>
    obtain ⟨a, b⟩ := c
    simp only [List.filter_cons]
    by_cases h : a = x
    · subst h
      simp [hx, Memory.read]
    · split
      · simp only [Memory.read, if_neg h, ih]
      · simp only [Memory.read, if_neg h, ih]

theorem Memory.read_cells (a : Nat) (bs : List Byte) (x : Nat) :
    Memory.read (Memory.cells a bs) x = if a ≤ x ∧ x < a + bs.length then bs.getD (x - a) 0
      else Config.unwrittenByte := by
  induction bs generalizing a with
  | nil =>
    rw [if_neg fun h => absurd (Nat.lt_of_le_of_lt h.1 h.2) (Nat.lt_irrefl a)]
    rfl
  | cons b bs ih =>
    simp only [Memory.cells, List.length_cons]
    by_cases hxa : a = x
    · subst hxa
      have hlt : a ≤ a ∧ a < a + (bs.length + 1) := by omega
      rw [if_pos hlt]
      split
      · rename_i hb
        rw [ih]
        rw [if_neg (by omega)]
        simp [hb]
      · simp [Memory.read]
    · have key : (if a + 1 ≤ x ∧ x < a + 1 + bs.length then bs.getD (x - (a + 1)) 0 else Config.unwrittenByte)
          = if a ≤ x ∧ x < a + (bs.length + 1) then (b :: bs).getD (x - a) 0 else Config.unwrittenByte := by
        by_cases hr : a + 1 ≤ x ∧ x < a + 1 + bs.length
        · rw [if_pos hr, if_pos (by omega)]
          have : x - a = (x - (a + 1)) + 1 := by omega
          rw [this, List.getD_cons_succ]
        · rw [if_neg hr, if_neg (by omega)]
      split
      · rw [ih, key]
      · simp only [Memory.read, if_neg hxa]
        rw [ih, key]

/-- A write is read back, and every other address reads as before. -/
theorem Memory.read_write (m : List Host.Cell) (a : Nat) (bs : List Byte) (x : Nat) :
    Memory.read (Memory.write m a bs) x =
      if a ≤ x ∧ x < a + bs.length then bs.getD (x - a) 0 else Memory.read m x := by
  unfold Memory.write
  have hlow : ∀ c ∈ m.filter (fun c => decide (c.1 < a)), c.1 < a := fun c hc => by
    simpa using (List.mem_filter.mp hc).2
  have hhigh : ∀ c ∈ m.filter (fun c => decide (a + bs.length ≤ c.1)), a + bs.length ≤ c.1 := fun c hc => by
    simpa using (List.mem_filter.mp hc).2
  have hmid : ∀ c ∈ Memory.cells a bs, a ≤ c.1 ∧ c.1 < a + bs.length := fun c hc =>
    ⟨(Memory.wfFrom_mem (Memory.wfFrom_cells a bs) c hc).1, Memory.cells_lt a bs c hc⟩
  by_cases hlo : x < a
  · rw [if_neg (show ¬ (a ≤ x ∧ x < a + bs.length) by omega),
      Memory.read_append_left fun c hc => by have := hhigh c hc; omega,
      Memory.read_append_left fun c hc => by have := hmid c hc; omega]
    exact Memory.read_filter (fun n => decide (n < a)) (by simpa using hlo)
  · by_cases hin : x < a + bs.length
    · rw [if_pos (show a ≤ x ∧ x < a + bs.length by omega),
        Memory.read_append_left fun c hc => by have := hhigh c hc; omega,
        Memory.read_append_right fun c hc => by have := hlow c hc; omega, Memory.read_cells,
        if_pos (show a ≤ x ∧ x < a + bs.length by omega)]
    · rw [if_neg (show ¬ (a ≤ x ∧ x < a + bs.length) by omega),
        Memory.read_append_right fun c hc => by
          rcases List.mem_append.mp hc with hc | hc
          · have := hlow c hc; omega
          · have := hmid c hc; omega]
      exact Memory.read_filter (fun n => decide (a + bs.length ≤ n)) (by simpa using by omega)

/-- Bytes that change of themselves lie at the listed offsets. -/
theorem Memory.read_upset {m : List Host.Cell} {base : Nat} {u : Upset} {x : Nat}
    (h : ∀ c ∈ u, base + c.1 ≠ x) : Memory.read (Memory.upset m base u) x = Memory.read m x := by
  unfold Memory.upset
  induction u generalizing m with
  | nil => rfl
  | cons c u ih =>
    simp only [List.foldl_cons]
    rw [ih fun d hd => h d (List.mem_cons_of_mem _ hd)]
    split
    · rw [Memory.read_write, if_neg]
      have := h c List.mem_cons_self
      simp only [List.length_singleton]
      omega
    · rfl

/-! ### Operations of the store -/

@[simp] theorem Store.setSlot_kept (st : Store) (i : Nat) (e : Slot) :
    (st.setSlot i e).map = st.map ∧ (st.setSlot i e).cache = st.cache
    ∧ (st.setSlot i e).reservation = st.reservation ∧ (st.setSlot i e).allowance = st.allowance
    ∧ (st.setSlot i e).fills = st.fills ∧ (st.setSlot i e).mem = st.mem := ⟨rfl, rfl, rfl, rfl, rfl, rfl⟩

@[simp] theorem Store.setEntry_kept (st : Store) (t : Nat) (e : MapEntry) :
    (st.setEntry t e).slots = st.slots ∧ (st.setEntry t e).cache = st.cache
    ∧ (st.setEntry t e).reservation = st.reservation ∧ (st.setEntry t e).allowance = st.allowance
    ∧ (st.setEntry t e).fills = st.fills ∧ (st.setEntry t e).mem = st.mem := ⟨rfl, rfl, rfl, rfl, rfl, rfl⟩

@[simp] theorem Store.freeSlot_kept (st : Store) (i : Nat) :
    (st.freeSlot i).reservation = st.reservation ∧ (st.freeSlot i).allowance = st.allowance
    ∧ (st.freeSlot i).fills = st.fills ∧ (st.freeSlot i).mem = st.mem := by
  simp only [Store.freeSlot]
  split <;> simp

@[simp] theorem Store.takeDrivePin_kept (st : Store) (i : Nat) :
    (st.takeDrivePin i).map = st.map ∧ (st.takeDrivePin i).cache = st.cache
    ∧ (st.takeDrivePin i).reservation = st.reservation ∧ (st.takeDrivePin i).allowance = st.allowance
    ∧ (st.takeDrivePin i).fills = st.fills ∧ (st.takeDrivePin i).mem = st.mem := by
  simp [Store.takeDrivePin]

@[simp] theorem Store.takeLinkPin_kept (st : Store) (i : Nat) :
    (st.takeLinkPin i).map = st.map ∧ (st.takeLinkPin i).cache = st.cache
    ∧ (st.takeLinkPin i).reservation = st.reservation ∧ (st.takeLinkPin i).allowance = st.allowance
    ∧ (st.takeLinkPin i).fills = st.fills ∧ (st.takeLinkPin i).mem = st.mem := by
  simp [Store.takeLinkPin]

@[simp] theorem Store.takeSlot_kept (st : Store) (i t : Nat) (c : CheckWord) :
    (st.takeSlot i t c).reservation = st.reservation ∧ (st.takeSlot i t c).allowance = st.allowance
    ∧ (st.takeSlot i t c).fills = st.fills ∧ (st.takeSlot i t c).mem = st.mem := by
  simp [Store.takeSlot]

@[simp] theorem Store.writeSector_kept (st : Store) (r : Recipe) (i sector : Nat) (data : List Byte) :
    (st.writeSector r i sector data).slots = st.slots ∧ (st.writeSector r i sector data).map = st.map
    ∧ (st.writeSector r i sector data).cache = st.cache
    ∧ (st.writeSector r i sector data).reservation = st.reservation
    ∧ (st.writeSector r i sector data).allowance = st.allowance
    ∧ (st.writeSector r i sector data).fills = st.fills := ⟨rfl, rfl, rfl, rfl, rfl, rfl⟩

@[simp] theorem Store.upset_kept (st : Store) (i : Nat) (u : Upset) :
    (st.upset i u).slots = st.slots ∧ (st.upset i u).map = st.map ∧ (st.upset i u).cache = st.cache
    ∧ (st.upset i u).reservation = st.reservation ∧ (st.upset i u).allowance = st.allowance
    ∧ (st.upset i u).fills = st.fills := ⟨rfl, rfl, rfl, rfl, rfl, rfl⟩

@[simp] theorem Store.setMarks_kept (st : Store) (h : List Nat) :
    (st.setMarks h).slots = st.slots ∧ (st.setMarks h).cache = st.cache
    ∧ (st.setMarks h).reservation = st.reservation ∧ (st.setMarks h).allowance = st.allowance
    ∧ (st.setMarks h).fills = st.fills ∧ (st.setMarks h).mem = st.mem := by
  simp [Store.setMarks]

@[simp] theorem Store.setHomes_kept (st : Store) (h : List Nat) :
    (st.setHomes h).slots = st.slots ∧ (st.setHomes h).cache = st.cache ∧ (st.setHomes h).fills = st.fills
    ∧ (st.setHomes h).mem = st.mem := by
  simp [Store.setHomes]

@[simp] theorem Store.cleared_mem (st : Store) : st.cleared.mem = st.mem := rfl

theorem Store.wf_writeSector {st : Store} (r : Recipe) (i sector : Nat) (data : List Byte)
    (h : Memory.wf st.mem = true) : Memory.wf (st.writeSector r i sector data).mem = true :=
  Memory.wf_write _ _ h

theorem Store.wf_upset {st : Store} (i : Nat) (u : Upset) (h : Memory.wf st.mem = true) :
    Memory.wf (st.upset i u).mem = true := Memory.wf_upset _ _ h

@[simp] theorem Store.fillSectors_kept (r : Recipe) (i : Nat) (prev : Option Nat) (l : List (Nat × List Byte))
    (st : Store) :
    (Store.fillSectors r i prev l st).slots = st.slots ∧ (Store.fillSectors r i prev l st).map = st.map
    ∧ (Store.fillSectors r i prev l st).cache = st.cache
    ∧ (Store.fillSectors r i prev l st).reservation = st.reservation
    ∧ (Store.fillSectors r i prev l st).allowance = st.allowance
    ∧ (Store.fillSectors r i prev l st).fills = st.fills := by
  induction l generalizing prev st with
  | nil => simp [Store.fillSectors]
  | cons c l ih =>
    obtain ⟨id, data⟩ := c
    simp only [Store.fillSectors, ih]
    generalize (decide (id ∈ r.ids) && _) = c
    cases c <;> simp

theorem Store.wf_fillSectors (r : Recipe) (i : Nat) (prev : Option Nat) (l : List (Nat × List Byte)) {st : Store}
    (h : Memory.wf st.mem = true) : Memory.wf (Store.fillSectors r i prev l st).mem = true := by
  induction l generalizing prev st with
  | nil => exact h
  | cons c l ih =>
    obtain ⟨id, data⟩ := c
    simp only [Store.fillSectors]
    apply ih
    generalize (decide (id ∈ r.ids) && _) = c
    cases c
    · exact h
    · exact Store.wf_writeSector _ _ _ _ h

end Sys2Proof.Machine
end

