-- ==== Sys2Proof/Laws/Kept.lean ====
section
/-! SUPPORT. For each operation one lemma, `<operation>_kept`: every field it leaves as it was, in every state. The
provers cite it in place of unfolding the operation. -/

set_option linter.unusedSimpArgs false
set_option linter.unusedVariables false

namespace Sys2Proof.Machine

@[simp] theorem State.badFrame_kept (s : State) :
    (State.badFrame s).pending = s.pending ∧ (State.badFrame s).now = s.now ∧ (State.badFrame s).station = s.station ∧ (State.badFrame s).boot = s.boot ∧ (State.badFrame s).jc = s.jc ∧ (State.badFrame s).store = s.store ∧ (State.badFrame s).du = s.du ∧ (State.badFrame s).cs = s.cs ∧ (State.badFrame s).ss = s.ss ∧ (State.badFrame s).tb = s.tb ∧ (State.badFrame s).vu = s.vu ∧ (State.badFrame s).dp = s.dp ∧ (State.badFrame s).pc = s.pc ∧ (State.badFrame s).lc.queue = s.lc.queue ∧ (State.badFrame s).lc.presence = s.lc.presence ∧ (State.badFrame s).lc.foreign = s.lc.foreign ∧ (State.badFrame s).lc.view = s.lc.view ∧ (State.badFrame s).lc.deaf = s.lc.deaf := by
  simp [State.badFrame]

@[simp] theorem State.rejoinRepair_kept (t : Nat) (s : State) :
    (State.rejoinRepair t s).pending = s.pending ∧ (State.rejoinRepair t s).now = s.now ∧ (State.rejoinRepair t s).station = s.station ∧ (State.rejoinRepair t s).boot = s.boot ∧ (State.rejoinRepair t s).lc = s.lc ∧ (State.rejoinRepair t s).du = s.du ∧ (State.rejoinRepair t s).cs = s.cs ∧ (State.rejoinRepair t s).ss = s.ss ∧ (State.rejoinRepair t s).tb = s.tb ∧ (State.rejoinRepair t s).vu = s.vu ∧ (State.rejoinRepair t s).dp = s.dp ∧ (State.rejoinRepair t s).pc = s.pc ∧ (State.rejoinRepair t s).jc.nextBase = s.jc.nextBase ∧ (State.rejoinRepair t s).jc.seq = s.jc.seq ∧ (State.rejoinRepair t s).store.mem = s.store.mem ∧ (State.rejoinRepair t s).store.fills = s.store.fills ∧ (State.rejoinRepair t s).store.allowance = s.store.allowance ∧ (State.rejoinRepair t s).store.slots = s.store.slots ∧ (State.rejoinRepair t s).store.map = s.store.map ∧ (State.rejoinRepair t s).jc.record.map (·.fixed) = s.jc.record.map (·.fixed) ∧ (State.rejoinRepair t s).jc.record.map (·.account) = s.jc.record.map (·.account) ∧ (State.rejoinRepair t s).jc.record.map (·.state) = s.jc.record.map (·.state) ∧ (State.rejoinRepair t s).jc.record.map (·.mark) = s.jc.record.map (·.mark) ∧ (State.rejoinRepair t s).jc.record.map (·.departed) = s.jc.record.map (·.departed) := by
  simp [State.rejoinRepair, State.fixed, State.account, State.jobState, State.mark, State.departed, JobRecord.fixed, JobRecord.account, Option.map_map, Function.comp_def]

@[simp] theorem State.freeIfClosing_kept (i : Nat) (s : State) :
    (State.freeIfClosing i s).pending = s.pending ∧ (State.freeIfClosing i s).now = s.now ∧ (State.freeIfClosing i s).station = s.station ∧ (State.freeIfClosing i s).boot = s.boot ∧ (State.freeIfClosing i s).lc = s.lc ∧ (State.freeIfClosing i s).du = s.du ∧ (State.freeIfClosing i s).cs = s.cs ∧ (State.freeIfClosing i s).ss = s.ss ∧ (State.freeIfClosing i s).tb = s.tb ∧ (State.freeIfClosing i s).vu = s.vu ∧ (State.freeIfClosing i s).dp = s.dp ∧ (State.freeIfClosing i s).pc = s.pc ∧ (State.freeIfClosing i s).jc.nextBase = s.jc.nextBase ∧ (State.freeIfClosing i s).jc.seq = s.jc.seq ∧ (State.freeIfClosing i s).store.mem = s.store.mem ∧ (State.freeIfClosing i s).store.fills = s.store.fills ∧ (State.freeIfClosing i s).store.allowance = s.store.allowance ∧ (State.freeIfClosing i s).jc.record.map (·.fixed) = s.jc.record.map (·.fixed) ∧ (State.freeIfClosing i s).jc.record.map (·.account) = s.jc.record.map (·.account) ∧ (State.freeIfClosing i s).jc.record.map (·.state) = s.jc.record.map (·.state) ∧ (State.freeIfClosing i s).jc.record.map (·.mark) = s.jc.record.map (·.mark) ∧ (State.freeIfClosing i s).jc.record.map (·.departed) = s.jc.record.map (·.departed) := by
  simp only [State.freeIfClosing]
  repeat' split
  all_goals simp

@[simp] theorem State.markDamaged_kept (i : Nat) (s : State) :
    (State.markDamaged i s).pending = s.pending ∧ (State.markDamaged i s).now = s.now ∧ (State.markDamaged i s).station = s.station ∧ (State.markDamaged i s).boot = s.boot ∧ (State.markDamaged i s).du = s.du ∧ (State.markDamaged i s).cs = s.cs ∧ (State.markDamaged i s).ss = s.ss ∧ (State.markDamaged i s).tb = s.tb ∧ (State.markDamaged i s).vu = s.vu ∧ (State.markDamaged i s).dp = s.dp ∧ (State.markDamaged i s).pc = s.pc ∧ (State.markDamaged i s).lc.queue = s.lc.queue ∧ (State.markDamaged i s).lc.presence = s.lc.presence ∧ (State.markDamaged i s).lc.foreign = s.lc.foreign ∧ (State.markDamaged i s).lc.view = s.lc.view ∧ (State.markDamaged i s).lc.deaf = s.lc.deaf ∧ (State.markDamaged i s).jc.nextBase = s.jc.nextBase ∧ (State.markDamaged i s).jc.seq = s.jc.seq ∧ (State.markDamaged i s).store.mem = s.store.mem ∧ (State.markDamaged i s).store.fills = s.store.fills ∧ (State.markDamaged i s).store.allowance = s.store.allowance ∧ (State.markDamaged i s).jc.record.map (·.fixed) = s.jc.record.map (·.fixed) ∧ (State.markDamaged i s).jc.record.map (·.account) = s.jc.record.map (·.account) ∧ (State.markDamaged i s).jc.record.map (·.state) = s.jc.record.map (·.state) ∧ (State.markDamaged i s).jc.record.map (·.mark) = s.jc.record.map (·.mark) ∧ (State.markDamaged i s).jc.record.map (·.departed) = s.jc.record.map (·.departed) := by
  simp only [State.markDamaged]
  repeat' split
  all_goals simp

@[simp] theorem State.requestFree_kept (i : Nat) (s : State) :
    (State.requestFree i s).pending = s.pending ∧ (State.requestFree i s).now = s.now ∧ (State.requestFree i s).station = s.station ∧ (State.requestFree i s).boot = s.boot ∧ (State.requestFree i s).lc = s.lc ∧ (State.requestFree i s).du = s.du ∧ (State.requestFree i s).cs = s.cs ∧ (State.requestFree i s).ss = s.ss ∧ (State.requestFree i s).tb = s.tb ∧ (State.requestFree i s).vu = s.vu ∧ (State.requestFree i s).dp = s.dp ∧ (State.requestFree i s).pc = s.pc ∧ (State.requestFree i s).jc.nextBase = s.jc.nextBase ∧ (State.requestFree i s).jc.seq = s.jc.seq ∧ (State.requestFree i s).store.mem = s.store.mem ∧ (State.requestFree i s).store.fills = s.store.fills ∧ (State.requestFree i s).store.allowance = s.store.allowance ∧ (State.requestFree i s).jc.record.map (·.fixed) = s.jc.record.map (·.fixed) ∧ (State.requestFree i s).jc.record.map (·.account) = s.jc.record.map (·.account) ∧ (State.requestFree i s).jc.record.map (·.state) = s.jc.record.map (·.state) ∧ (State.requestFree i s).jc.record.map (·.mark) = s.jc.record.map (·.mark) ∧ (State.requestFree i s).jc.record.map (·.departed) = s.jc.record.map (·.departed) := by
  simp [State.requestFree]

@[simp] theorem State.unpinned_kept (i : Nat) (s : State) :
    (State.unpinned i s).pending = s.pending ∧ (State.unpinned i s).now = s.now ∧ (State.unpinned i s).station = s.station ∧ (State.unpinned i s).boot = s.boot ∧ (State.unpinned i s).lc = s.lc ∧ (State.unpinned i s).du = s.du ∧ (State.unpinned i s).cs = s.cs ∧ (State.unpinned i s).ss = s.ss ∧ (State.unpinned i s).tb = s.tb ∧ (State.unpinned i s).vu = s.vu ∧ (State.unpinned i s).dp = s.dp ∧ (State.unpinned i s).pc = s.pc ∧ (State.unpinned i s).jc.nextBase = s.jc.nextBase ∧ (State.unpinned i s).jc.seq = s.jc.seq ∧ (State.unpinned i s).store.mem = s.store.mem ∧ (State.unpinned i s).store.fills = s.store.fills ∧ (State.unpinned i s).store.allowance = s.store.allowance ∧ (State.unpinned i s).jc.record.map (·.fixed) = s.jc.record.map (·.fixed) ∧ (State.unpinned i s).jc.record.map (·.account) = s.jc.record.map (·.account) ∧ (State.unpinned i s).jc.record.map (·.state) = s.jc.record.map (·.state) ∧ (State.unpinned i s).jc.record.map (·.mark) = s.jc.record.map (·.mark) ∧ (State.unpinned i s).jc.record.map (·.departed) = s.jc.record.map (·.departed) := by
  simp only [State.unpinned]
  repeat' split
  all_goals simp

@[simp] theorem State.releaseDrivePin_kept (s : State) :
    (State.releaseDrivePin s).pending = s.pending ∧ (State.releaseDrivePin s).now = s.now ∧ (State.releaseDrivePin s).station = s.station ∧ (State.releaseDrivePin s).boot = s.boot ∧ (State.releaseDrivePin s).lc = s.lc ∧ (State.releaseDrivePin s).du = s.du ∧ (State.releaseDrivePin s).cs = s.cs ∧ (State.releaseDrivePin s).ss = s.ss ∧ (State.releaseDrivePin s).tb = s.tb ∧ (State.releaseDrivePin s).vu = s.vu ∧ (State.releaseDrivePin s).dp = s.dp ∧ (State.releaseDrivePin s).pc = s.pc ∧ (State.releaseDrivePin s).jc.nextBase = s.jc.nextBase ∧ (State.releaseDrivePin s).jc.seq = s.jc.seq ∧ (State.releaseDrivePin s).store.mem = s.store.mem ∧ (State.releaseDrivePin s).store.fills = s.store.fills ∧ (State.releaseDrivePin s).store.allowance = s.store.allowance ∧ (State.releaseDrivePin s).jc.record.map (·.fixed) = s.jc.record.map (·.fixed) ∧ (State.releaseDrivePin s).jc.record.map (·.account) = s.jc.record.map (·.account) ∧ (State.releaseDrivePin s).jc.record.map (·.state) = s.jc.record.map (·.state) ∧ (State.releaseDrivePin s).jc.record.map (·.mark) = s.jc.record.map (·.mark) ∧ (State.releaseDrivePin s).jc.record.map (·.departed) = s.jc.record.map (·.departed) := by
  simp only [State.releaseDrivePin]
  repeat' split
  all_goals simp

@[simp] theorem State.releaseLinkPin_kept (s : State) :
    (State.releaseLinkPin s).pending = s.pending ∧ (State.releaseLinkPin s).now = s.now ∧ (State.releaseLinkPin s).station = s.station ∧ (State.releaseLinkPin s).boot = s.boot ∧ (State.releaseLinkPin s).lc = s.lc ∧ (State.releaseLinkPin s).du = s.du ∧ (State.releaseLinkPin s).cs = s.cs ∧ (State.releaseLinkPin s).ss = s.ss ∧ (State.releaseLinkPin s).tb = s.tb ∧ (State.releaseLinkPin s).vu = s.vu ∧ (State.releaseLinkPin s).dp = s.dp ∧ (State.releaseLinkPin s).pc = s.pc ∧ (State.releaseLinkPin s).jc.nextBase = s.jc.nextBase ∧ (State.releaseLinkPin s).jc.seq = s.jc.seq ∧ (State.releaseLinkPin s).store.mem = s.store.mem ∧ (State.releaseLinkPin s).store.fills = s.store.fills ∧ (State.releaseLinkPin s).store.allowance = s.store.allowance ∧ (State.releaseLinkPin s).jc.record.map (·.fixed) = s.jc.record.map (·.fixed) ∧ (State.releaseLinkPin s).jc.record.map (·.account) = s.jc.record.map (·.account) ∧ (State.releaseLinkPin s).jc.record.map (·.state) = s.jc.record.map (·.state) ∧ (State.releaseLinkPin s).jc.record.map (·.mark) = s.jc.record.map (·.mark) ∧ (State.releaseLinkPin s).jc.record.map (·.departed) = s.jc.record.map (·.departed) := by
  simp only [State.releaseLinkPin]
  repeat' split
  all_goals simp

@[simp] theorem State.settleGood_kept (i t : Nat) (s : State) :
    (State.settleGood i t s).pending = s.pending ∧ (State.settleGood i t s).now = s.now ∧ (State.settleGood i t s).station = s.station ∧ (State.settleGood i t s).boot = s.boot ∧ (State.settleGood i t s).lc = s.lc ∧ (State.settleGood i t s).du = s.du ∧ (State.settleGood i t s).cs = s.cs ∧ (State.settleGood i t s).ss = s.ss ∧ (State.settleGood i t s).tb = s.tb ∧ (State.settleGood i t s).vu = s.vu ∧ (State.settleGood i t s).dp = s.dp ∧ (State.settleGood i t s).pc = s.pc ∧ (State.settleGood i t s).jc.nextBase = s.jc.nextBase ∧ (State.settleGood i t s).jc.seq = s.jc.seq ∧ (State.settleGood i t s).store.mem = s.store.mem ∧ (State.settleGood i t s).store.fills = s.store.fills ∧ (State.settleGood i t s).store.allowance = s.store.allowance ∧ (State.settleGood i t s).jc.record.map (·.fixed) = s.jc.record.map (·.fixed) ∧ (State.settleGood i t s).jc.record.map (·.account) = s.jc.record.map (·.account) ∧ (State.settleGood i t s).jc.record.map (·.state) = s.jc.record.map (·.state) ∧ (State.settleGood i t s).jc.record.map (·.mark) = s.jc.record.map (·.mark) ∧ (State.settleGood i t s).jc.record.map (·.departed) = s.jc.record.map (·.departed) := by
  simp only [State.settleGood]
  repeat' split
  all_goals simp [State.fixed, State.account, State.jobState, State.mark, State.departed, JobRecord.fixed, JobRecord.account, Option.map_map, Function.comp_def]

@[simp] theorem State.appendHistory_kept (h : HistoryEntry) (s : State) :
    (State.appendHistory h s).pending = s.pending ∧ (State.appendHistory h s).now = s.now ∧ (State.appendHistory h s).station = s.station ∧ (State.appendHistory h s).boot = s.boot ∧ (State.appendHistory h s).jc = s.jc ∧ (State.appendHistory h s).store = s.store ∧ (State.appendHistory h s).du = s.du ∧ (State.appendHistory h s).cs = s.cs ∧ (State.appendHistory h s).ss = s.ss ∧ (State.appendHistory h s).tb = s.tb ∧ (State.appendHistory h s).vu = s.vu ∧ (State.appendHistory h s).dp = s.dp ∧ (State.appendHistory h s).lc.queue = s.lc.queue ∧ (State.appendHistory h s).lc.presence = s.lc.presence ∧ (State.appendHistory h s).lc.foreign = s.lc.foreign ∧ (State.appendHistory h s).lc.view = s.lc.view ∧ (State.appendHistory h s).lc.deaf = s.lc.deaf ∧ (State.appendHistory h s).pc.params = s.pc.params ∧ (State.appendHistory h s).pc.directory = s.pc.directory ∧ (State.appendHistory h s).pc.refusal = s.pc.refusal ∧ (State.appendHistory h s).pc.flash = s.pc.flash ∧ (State.appendHistory h s).pc.sequence = s.pc.sequence := by
  simp [State.appendHistory]

@[simp] theorem State.refuseLoad_kept (why : LoadRefusal) (s : State) :
    (State.refuseLoad why s).pending = s.pending ∧ (State.refuseLoad why s).now = s.now ∧ (State.refuseLoad why s).station = s.station ∧ (State.refuseLoad why s).boot = s.boot ∧ (State.refuseLoad why s).lc = s.lc ∧ (State.refuseLoad why s).jc = s.jc ∧ (State.refuseLoad why s).store = s.store ∧ (State.refuseLoad why s).du = s.du ∧ (State.refuseLoad why s).cs = s.cs ∧ (State.refuseLoad why s).ss = s.ss ∧ (State.refuseLoad why s).tb = s.tb ∧ (State.refuseLoad why s).vu = s.vu ∧ (State.refuseLoad why s).dp = s.dp ∧ (State.refuseLoad why s).pc.params = s.pc.params ∧ (State.refuseLoad why s).pc.directory = s.pc.directory ∧ (State.refuseLoad why s).pc.history = s.pc.history ∧ (State.refuseLoad why s).pc.sequence = s.pc.sequence := by
  simp [State.refuseLoad]

@[simp] theorem State.enter_kept (b : Body) (jobId : JobId) (s : State) :
    (State.enter b jobId s).pending = s.pending ∧ (State.enter b jobId s).now = s.now ∧ (State.enter b jobId s).station = s.station ∧ (State.enter b jobId s).boot = s.boot ∧ (State.enter b jobId s).jc = s.jc ∧ (State.enter b jobId s).store = s.store ∧ (State.enter b jobId s).du = s.du ∧ (State.enter b jobId s).cs = s.cs ∧ (State.enter b jobId s).ss = s.ss ∧ (State.enter b jobId s).tb = s.tb ∧ (State.enter b jobId s).vu = s.vu ∧ (State.enter b jobId s).dp = s.dp ∧ (State.enter b jobId s).pc = s.pc ∧ (State.enter b jobId s).lc.presence = s.lc.presence ∧ (State.enter b jobId s).lc.counters = s.lc.counters ∧ (State.enter b jobId s).lc.foreign = s.lc.foreign ∧ (State.enter b jobId s).lc.view = s.lc.view ∧ (State.enter b jobId s).lc.deaf = s.lc.deaf := by
  simp only [State.enter]
  repeat' split
  all_goals simp

@[simp] theorem State.setQueue_kept (q : List Frame) (s : State) :
    (State.setQueue q s).pending = s.pending ∧ (State.setQueue q s).now = s.now ∧ (State.setQueue q s).station = s.station ∧ (State.setQueue q s).boot = s.boot ∧ (State.setQueue q s).jc = s.jc ∧ (State.setQueue q s).store = s.store ∧ (State.setQueue q s).du = s.du ∧ (State.setQueue q s).cs = s.cs ∧ (State.setQueue q s).ss = s.ss ∧ (State.setQueue q s).tb = s.tb ∧ (State.setQueue q s).vu = s.vu ∧ (State.setQueue q s).dp = s.dp ∧ (State.setQueue q s).pc = s.pc ∧ (State.setQueue q s).lc.presence = s.lc.presence ∧ (State.setQueue q s).lc.counters = s.lc.counters ∧ (State.setQueue q s).lc.foreign = s.lc.foreign ∧ (State.setQueue q s).lc.view = s.lc.view ∧ (State.setQueue q s).lc.deaf = s.lc.deaf := by
  simp [State.setQueue]

@[simp] theorem State.dequeue_kept (k : FrameKey) (s : State) :
    (State.dequeue k s).pending = s.pending ∧ (State.dequeue k s).now = s.now ∧ (State.dequeue k s).station = s.station ∧ (State.dequeue k s).boot = s.boot ∧ (State.dequeue k s).jc = s.jc ∧ (State.dequeue k s).store = s.store ∧ (State.dequeue k s).du = s.du ∧ (State.dequeue k s).cs = s.cs ∧ (State.dequeue k s).ss = s.ss ∧ (State.dequeue k s).tb = s.tb ∧ (State.dequeue k s).vu = s.vu ∧ (State.dequeue k s).dp = s.dp ∧ (State.dequeue k s).pc = s.pc ∧ (State.dequeue k s).lc.presence = s.lc.presence ∧ (State.dequeue k s).lc.counters = s.lc.counters ∧ (State.dequeue k s).lc.foreign = s.lc.foreign ∧ (State.dequeue k s).lc.view = s.lc.view ∧ (State.dequeue k s).lc.deaf = s.lc.deaf := by
  simp [State.dequeue]

@[simp] theorem State.withdraw_kept (p : Frame → Bool) (s : State) :
    (State.withdraw p s).pending = s.pending ∧ (State.withdraw p s).now = s.now ∧ (State.withdraw p s).station = s.station ∧ (State.withdraw p s).boot = s.boot ∧ (State.withdraw p s).jc = s.jc ∧ (State.withdraw p s).store = s.store ∧ (State.withdraw p s).du = s.du ∧ (State.withdraw p s).cs = s.cs ∧ (State.withdraw p s).ss = s.ss ∧ (State.withdraw p s).tb = s.tb ∧ (State.withdraw p s).vu = s.vu ∧ (State.withdraw p s).dp = s.dp ∧ (State.withdraw p s).pc = s.pc ∧ (State.withdraw p s).lc.presence = s.lc.presence ∧ (State.withdraw p s).lc.counters = s.lc.counters ∧ (State.withdraw p s).lc.foreign = s.lc.foreign ∧ (State.withdraw p s).lc.view = s.lc.view ∧ (State.withdraw p s).lc.deaf = s.lc.deaf := by
  simp [State.withdraw]

@[simp] theorem State.withdrawKey_kept (k : FrameKey) (s : State) :
    (State.withdrawKey k s).pending = s.pending ∧ (State.withdrawKey k s).now = s.now ∧ (State.withdrawKey k s).station = s.station ∧ (State.withdrawKey k s).boot = s.boot ∧ (State.withdrawKey k s).jc = s.jc ∧ (State.withdrawKey k s).store = s.store ∧ (State.withdrawKey k s).du = s.du ∧ (State.withdrawKey k s).cs = s.cs ∧ (State.withdrawKey k s).ss = s.ss ∧ (State.withdrawKey k s).tb = s.tb ∧ (State.withdrawKey k s).vu = s.vu ∧ (State.withdrawKey k s).dp = s.dp ∧ (State.withdrawKey k s).pc = s.pc ∧ (State.withdrawKey k s).lc.presence = s.lc.presence ∧ (State.withdrawKey k s).lc.counters = s.lc.counters ∧ (State.withdrawKey k s).lc.foreign = s.lc.foreign ∧ (State.withdrawKey k s).lc.view = s.lc.view ∧ (State.withdrawKey k s).lc.deaf = s.lc.deaf := by
  simp [State.withdrawKey]

@[simp] theorem State.refill_kept (k : FrameKey) (b : Body) (s : State) :
    (State.refill k b s).pending = s.pending ∧ (State.refill k b s).now = s.now ∧ (State.refill k b s).station = s.station ∧ (State.refill k b s).boot = s.boot ∧ (State.refill k b s).jc = s.jc ∧ (State.refill k b s).store = s.store ∧ (State.refill k b s).du = s.du ∧ (State.refill k b s).cs = s.cs ∧ (State.refill k b s).ss = s.ss ∧ (State.refill k b s).tb = s.tb ∧ (State.refill k b s).vu = s.vu ∧ (State.refill k b s).dp = s.dp ∧ (State.refill k b s).pc = s.pc ∧ (State.refill k b s).lc.presence = s.lc.presence ∧ (State.refill k b s).lc.counters = s.lc.counters ∧ (State.refill k b s).lc.foreign = s.lc.foreign ∧ (State.refill k b s).lc.view = s.lc.view ∧ (State.refill k b s).lc.deaf = s.lc.deaf := by
  simp [State.refill]

@[simp] theorem State.holdOffTest_kept (s : State) :
    (State.holdOffTest s).pending = s.pending ∧ (State.holdOffTest s).now = s.now ∧ (State.holdOffTest s).station = s.station ∧ (State.holdOffTest s).boot = s.boot ∧ (State.holdOffTest s).jc = s.jc ∧ (State.holdOffTest s).store = s.store ∧ (State.holdOffTest s).du = s.du ∧ (State.holdOffTest s).cs = s.cs ∧ (State.holdOffTest s).ss = s.ss ∧ (State.holdOffTest s).tb = s.tb ∧ (State.holdOffTest s).vu = s.vu ∧ (State.holdOffTest s).dp = s.dp ∧ (State.holdOffTest s).pc = s.pc ∧ (State.holdOffTest s).lc.presence = s.lc.presence ∧ (State.holdOffTest s).lc.counters = s.lc.counters ∧ (State.holdOffTest s).lc.foreign = s.lc.foreign ∧ (State.holdOffTest s).lc.view = s.lc.view ∧ (State.holdOffTest s).lc.deaf = s.lc.deaf := by
  simp only [State.holdOffTest]
  repeat' split
  all_goals simp

@[simp] theorem State.endViewOf_kept (sender : StationId) (s : State) :
    (State.endViewOf sender s).pending = s.pending ∧ (State.endViewOf sender s).now = s.now ∧ (State.endViewOf sender s).station = s.station ∧ (State.endViewOf sender s).boot = s.boot ∧ (State.endViewOf sender s).jc = s.jc ∧ (State.endViewOf sender s).store = s.store ∧ (State.endViewOf sender s).du = s.du ∧ (State.endViewOf sender s).cs = s.cs ∧ (State.endViewOf sender s).ss = s.ss ∧ (State.endViewOf sender s).tb = s.tb ∧ (State.endViewOf sender s).vu = s.vu ∧ (State.endViewOf sender s).dp = s.dp ∧ (State.endViewOf sender s).pc = s.pc ∧ (State.endViewOf sender s).lc.queue = s.lc.queue ∧ (State.endViewOf sender s).lc.presence = s.lc.presence ∧ (State.endViewOf sender s).lc.counters = s.lc.counters ∧ (State.endViewOf sender s).lc.foreign = s.lc.foreign ∧ (State.endViewOf sender s).lc.deaf = s.lc.deaf := by
  simp only [State.endViewOf]
  repeat' split
  all_goals simp

@[simp] theorem State.holdOffReturn_kept (before s : State) :
    (State.holdOffReturn before s).pending = s.pending ∧ (State.holdOffReturn before s).now = s.now ∧ (State.holdOffReturn before s).station = s.station ∧ (State.holdOffReturn before s).boot = s.boot ∧ (State.holdOffReturn before s).jc = s.jc ∧ (State.holdOffReturn before s).store = s.store ∧ (State.holdOffReturn before s).du = s.du ∧ (State.holdOffReturn before s).cs = s.cs ∧ (State.holdOffReturn before s).ss = s.ss ∧ (State.holdOffReturn before s).tb = s.tb ∧ (State.holdOffReturn before s).vu = s.vu ∧ (State.holdOffReturn before s).dp = s.dp ∧ (State.holdOffReturn before s).pc = s.pc ∧ (State.holdOffReturn before s).lc.presence = s.lc.presence ∧ (State.holdOffReturn before s).lc.counters = s.lc.counters ∧ (State.holdOffReturn before s).lc.foreign = s.lc.foreign ∧ (State.holdOffReturn before s).lc.view = s.lc.view ∧ (State.holdOffReturn before s).lc.deaf = s.lc.deaf := by
  simp only [State.holdOffReturn]
  repeat' split
  all_goals simp

@[simp] theorem State.startFrame_kept (k : FrameKey) (s : State) :
    (State.startFrame k s).pending = s.pending ∧ (State.startFrame k s).now = s.now ∧ (State.startFrame k s).station = s.station ∧ (State.startFrame k s).boot = s.boot ∧ (State.startFrame k s).jc = s.jc ∧ (State.startFrame k s).store = s.store ∧ (State.startFrame k s).du = s.du ∧ (State.startFrame k s).cs = s.cs ∧ (State.startFrame k s).ss = s.ss ∧ (State.startFrame k s).tb = s.tb ∧ (State.startFrame k s).vu = s.vu ∧ (State.startFrame k s).dp = s.dp ∧ (State.startFrame k s).pc = s.pc ∧ (State.startFrame k s).lc.presence = s.lc.presence ∧ (State.startFrame k s).lc.counters = s.lc.counters ∧ (State.startFrame k s).lc.foreign = s.lc.foreign ∧ (State.startFrame k s).lc.view = s.lc.view ∧ (State.startFrame k s).lc.deaf = s.lc.deaf := by
  simp only [State.startFrame]
  repeat' split
  all_goals simp

@[simp] theorem State.stopFrame_kept (k : FrameKey) (s : State) :
    (State.stopFrame k s).pending = s.pending ∧ (State.stopFrame k s).now = s.now ∧ (State.stopFrame k s).station = s.station ∧ (State.stopFrame k s).boot = s.boot ∧ (State.stopFrame k s).jc = s.jc ∧ (State.stopFrame k s).store = s.store ∧ (State.stopFrame k s).du = s.du ∧ (State.stopFrame k s).cs = s.cs ∧ (State.stopFrame k s).ss = s.ss ∧ (State.stopFrame k s).tb = s.tb ∧ (State.stopFrame k s).vu = s.vu ∧ (State.stopFrame k s).dp = s.dp ∧ (State.stopFrame k s).pc = s.pc ∧ (State.stopFrame k s).lc.presence = s.lc.presence ∧ (State.stopFrame k s).lc.counters = s.lc.counters ∧ (State.stopFrame k s).lc.foreign = s.lc.foreign ∧ (State.stopFrame k s).lc.view = s.lc.view ∧ (State.stopFrame k s).lc.deaf = s.lc.deaf := by
  simp [State.stopFrame]

@[simp] theorem State.raiseLoss_kept (k : FrameKey) (s : State) :
    (State.raiseLoss k s).pending = s.pending ∧ (State.raiseLoss k s).now = s.now ∧ (State.raiseLoss k s).station = s.station ∧ (State.raiseLoss k s).boot = s.boot ∧ (State.raiseLoss k s).jc = s.jc ∧ (State.raiseLoss k s).store = s.store ∧ (State.raiseLoss k s).du = s.du ∧ (State.raiseLoss k s).cs = s.cs ∧ (State.raiseLoss k s).ss = s.ss ∧ (State.raiseLoss k s).tb = s.tb ∧ (State.raiseLoss k s).vu = s.vu ∧ (State.raiseLoss k s).dp = s.dp ∧ (State.raiseLoss k s).pc = s.pc ∧ (State.raiseLoss k s).lc.presence = s.lc.presence ∧ (State.raiseLoss k s).lc.counters = s.lc.counters ∧ (State.raiseLoss k s).lc.foreign = s.lc.foreign ∧ (State.raiseLoss k s).lc.view = s.lc.view ∧ (State.raiseLoss k s).lc.deaf = s.lc.deaf := by
  simp only [State.raiseLoss]
  repeat' split
  all_goals simp

@[simp] theorem State.enterCallFirst_kept (s : State) :
    (State.enterCallFirst s).pending = s.pending ∧ (State.enterCallFirst s).now = s.now ∧ (State.enterCallFirst s).station = s.station ∧ (State.enterCallFirst s).boot = s.boot ∧ (State.enterCallFirst s).jc = s.jc ∧ (State.enterCallFirst s).store = s.store ∧ (State.enterCallFirst s).du = s.du ∧ (State.enterCallFirst s).cs = s.cs ∧ (State.enterCallFirst s).ss = s.ss ∧ (State.enterCallFirst s).tb = s.tb ∧ (State.enterCallFirst s).vu = s.vu ∧ (State.enterCallFirst s).dp = s.dp ∧ (State.enterCallFirst s).pc = s.pc ∧ (State.enterCallFirst s).lc.presence = s.lc.presence ∧ (State.enterCallFirst s).lc.counters = s.lc.counters ∧ (State.enterCallFirst s).lc.foreign = s.lc.foreign ∧ (State.enterCallFirst s).lc.view = s.lc.view ∧ (State.enterCallFirst s).lc.deaf = s.lc.deaf := by
  simp [State.enterCallFirst]

@[simp] theorem JobRecord.drainTest_kept (r : JobRecord) :
    (JobRecord.drainTest r).fixed = r.fixed ∧ (JobRecord.drainTest r).departed = r.departed ∧ (JobRecord.drainTest r).mark = r.mark ∧ (JobRecord.drainTest r).markAt = r.markAt ∧ (JobRecord.drainTest r).lastRun = r.lastRun ∧ (JobRecord.drainTest r).high = r.high ∧ (JobRecord.drainTest r).noneHeard = r.noneHeard ∧ (JobRecord.drainTest r).heard = r.heard ∧ (JobRecord.drainTest r).accepted = r.accepted ∧ (JobRecord.drainTest r).void = r.void ∧ (JobRecord.drainTest r).withdrawn = r.withdrawn ∧ (JobRecord.drainTest r).claims = r.claims ∧ (JobRecord.drainTest r).repair = r.repair ∧ (JobRecord.drainTest r).homeShort = r.homeShort := by
  simp only [JobRecord.drainTest]
  repeat' split
  all_goals simp [State.fixed, State.account, State.jobState, State.mark, State.departed, JobRecord.fixed, JobRecord.account, Option.map_map, Function.comp_def]

@[simp] theorem Drive.dropGate_kept (dp : Drive) :
    (Drive.dropGate dp).motor = dp.motor ∧ (Drive.dropGate dp).select = dp.select ∧ (Drive.dropGate dp).head = dp.head ∧ (Drive.dropGate dp).step = dp.step ∧ (Drive.dropGate dp).dir = dp.dir ∧ (Drive.dropGate dp).lock = dp.lock ∧ (Drive.dropGate dp).ejectEnds = dp.ejectEnds ∧ (Drive.dropGate dp).diskin = dp.diskin ∧ (Drive.dropGate dp).wprot = dp.wprot ∧ (Drive.dropGate dp).trk0 = dp.trk0 ∧ (Drive.dropGate dp).cylinder = dp.cylinder ∧ (Drive.dropGate dp).spindle = dp.spindle ∧ (Drive.dropGate dp).counter = dp.counter ∧ (Drive.dropGate dp).motion = dp.motion ∧ (Drive.dropGate dp).qualify = dp.qualify := by
  simp [Drive.dropGate]

@[simp] theorem Drive.clearSpindle_kept (now : Nat) (dp : Drive) :
    (Drive.clearSpindle now dp).motor = dp.motor ∧ (Drive.clearSpindle now dp).select = dp.select ∧ (Drive.clearSpindle now dp).head = dp.head ∧ (Drive.clearSpindle now dp).step = dp.step ∧ (Drive.clearSpindle now dp).dir = dp.dir ∧ (Drive.clearSpindle now dp).wgate = dp.wgate ∧ (Drive.clearSpindle now dp).lock = dp.lock ∧ (Drive.clearSpindle now dp).ejectEnds = dp.ejectEnds ∧ (Drive.clearSpindle now dp).diskin = dp.diskin ∧ (Drive.clearSpindle now dp).wprot = dp.wprot ∧ (Drive.clearSpindle now dp).trk0 = dp.trk0 ∧ (Drive.clearSpindle now dp).cylinder = dp.cylinder ∧ (Drive.clearSpindle now dp).counter = dp.counter ∧ (Drive.clearSpindle now dp).motion = dp.motion ∧ (Drive.clearSpindle now dp).qualify = dp.qualify := by
  simp [Drive.clearSpindle]

@[simp] theorem Drive.endMotion_kept (dp : Drive) :
    (Drive.endMotion dp).motor = dp.motor ∧ (Drive.endMotion dp).select = dp.select ∧ (Drive.endMotion dp).head = dp.head ∧ (Drive.endMotion dp).dir = dp.dir ∧ (Drive.endMotion dp).wgate = dp.wgate ∧ (Drive.endMotion dp).lock = dp.lock ∧ (Drive.endMotion dp).ejectEnds = dp.ejectEnds ∧ (Drive.endMotion dp).diskin = dp.diskin ∧ (Drive.endMotion dp).wprot = dp.wprot ∧ (Drive.endMotion dp).trk0 = dp.trk0 ∧ (Drive.endMotion dp).spindle = dp.spindle ∧ (Drive.endMotion dp).counter = dp.counter ∧ (Drive.endMotion dp).qualify = dp.qualify := by
  simp only [Drive.endMotion]
  repeat' split
  all_goals simp

@[simp] theorem Drive.startMotor_kept (now : Nat) (dp : Drive) :
    (Drive.startMotor now dp).head = dp.head ∧ (Drive.startMotor now dp).step = dp.step ∧ (Drive.startMotor now dp).dir = dp.dir ∧ (Drive.startMotor now dp).wgate = dp.wgate ∧ (Drive.startMotor now dp).lock = dp.lock ∧ (Drive.startMotor now dp).ejectEnds = dp.ejectEnds ∧ (Drive.startMotor now dp).diskin = dp.diskin ∧ (Drive.startMotor now dp).wprot = dp.wprot ∧ (Drive.startMotor now dp).trk0 = dp.trk0 ∧ (Drive.startMotor now dp).cylinder = dp.cylinder ∧ (Drive.startMotor now dp).counter = dp.counter ∧ (Drive.startMotor now dp).motion = dp.motion ∧ (Drive.startMotor now dp).qualify = dp.qualify := by
  simp [Drive.startMotor]

@[simp] theorem Drive.stopMotor_kept (dp : Drive) :
    (Drive.stopMotor dp).head = dp.head ∧ (Drive.stopMotor dp).dir = dp.dir ∧ (Drive.stopMotor dp).lock = dp.lock ∧ (Drive.stopMotor dp).ejectEnds = dp.ejectEnds ∧ (Drive.stopMotor dp).diskin = dp.diskin ∧ (Drive.stopMotor dp).wprot = dp.wprot ∧ (Drive.stopMotor dp).trk0 = dp.trk0 := by
  simp [Drive.stopMotor]

@[simp] theorem Drive.ejectRequest_kept (now : Nat) (dp : Drive) :
    (Drive.ejectRequest now dp).motor = dp.motor ∧ (Drive.ejectRequest now dp).select = dp.select ∧ (Drive.ejectRequest now dp).head = dp.head ∧ (Drive.ejectRequest now dp).step = dp.step ∧ (Drive.ejectRequest now dp).dir = dp.dir ∧ (Drive.ejectRequest now dp).wgate = dp.wgate ∧ (Drive.ejectRequest now dp).diskin = dp.diskin ∧ (Drive.ejectRequest now dp).wprot = dp.wprot ∧ (Drive.ejectRequest now dp).trk0 = dp.trk0 ∧ (Drive.ejectRequest now dp).cylinder = dp.cylinder ∧ (Drive.ejectRequest now dp).spindle = dp.spindle ∧ (Drive.ejectRequest now dp).counter = dp.counter ∧ (Drive.ejectRequest now dp).motion = dp.motion ∧ (Drive.ejectRequest now dp).qualify = dp.qualify := by
  simp [Drive.ejectRequest]

@[simp] theorem Drive.spinUp_kept (now limit : Nat) (dp : Drive) :
    (Drive.spinUp now limit dp).head = dp.head ∧ (Drive.spinUp now limit dp).step = dp.step ∧ (Drive.spinUp now limit dp).dir = dp.dir ∧ (Drive.spinUp now limit dp).wgate = dp.wgate ∧ (Drive.spinUp now limit dp).ejectEnds = dp.ejectEnds ∧ (Drive.spinUp now limit dp).diskin = dp.diskin ∧ (Drive.spinUp now limit dp).wprot = dp.wprot ∧ (Drive.spinUp now limit dp).trk0 = dp.trk0 ∧ (Drive.spinUp now limit dp).cylinder = dp.cylinder ∧ (Drive.spinUp now limit dp).counter = dp.counter ∧ (Drive.spinUp now limit dp).motion = dp.motion := by
  simp [Drive.spinUp]

@[simp] theorem Drive.restarted_kept (dp : Drive) :
    (Drive.restarted dp).ejectEnds = dp.ejectEnds ∧ (Drive.restarted dp).diskin = dp.diskin ∧ (Drive.restarted dp).wprot = dp.wprot ∧ (Drive.restarted dp).trk0 = dp.trk0 := by
  simp [Drive.restarted]

@[simp] theorem Drive.setHead_kept (h : Bool) (dp : Drive) :
    (Drive.setHead h dp).motor = dp.motor ∧ (Drive.setHead h dp).select = dp.select ∧ (Drive.setHead h dp).step = dp.step ∧ (Drive.setHead h dp).dir = dp.dir ∧ (Drive.setHead h dp).wgate = dp.wgate ∧ (Drive.setHead h dp).lock = dp.lock ∧ (Drive.setHead h dp).ejectEnds = dp.ejectEnds ∧ (Drive.setHead h dp).diskin = dp.diskin ∧ (Drive.setHead h dp).wprot = dp.wprot ∧ (Drive.setHead h dp).trk0 = dp.trk0 ∧ (Drive.setHead h dp).cylinder = dp.cylinder ∧ (Drive.setHead h dp).spindle = dp.spindle ∧ (Drive.setHead h dp).counter = dp.counter ∧ (Drive.setHead h dp).motion = dp.motion ∧ (Drive.setHead h dp).qualify = dp.qualify := by
  simp only [Drive.setHead]
  repeat' split
  all_goals simp

@[simp] theorem Drive.seekFrom_kept (r : Recipe) (now cur c : Nat) (h : Bool) (dp : Drive) :
    (Drive.seekFrom r now cur c h dp).1.motor = dp.motor ∧ (Drive.seekFrom r now cur c h dp).1.select = dp.select ∧ (Drive.seekFrom r now cur c h dp).1.wgate = dp.wgate ∧ (Drive.seekFrom r now cur c h dp).1.lock = dp.lock ∧ (Drive.seekFrom r now cur c h dp).1.ejectEnds = dp.ejectEnds ∧ (Drive.seekFrom r now cur c h dp).1.diskin = dp.diskin ∧ (Drive.seekFrom r now cur c h dp).1.wprot = dp.wprot ∧ (Drive.seekFrom r now cur c h dp).1.trk0 = dp.trk0 ∧ (Drive.seekFrom r now cur c h dp).1.cylinder = dp.cylinder ∧ (Drive.seekFrom r now cur c h dp).1.spindle = dp.spindle ∧ (Drive.seekFrom r now cur c h dp).1.counter = dp.counter ∧ (Drive.seekFrom r now cur c h dp).1.qualify = dp.qualify := by
  simp only [Drive.seekFrom]
  repeat' split
  all_goals simp

@[simp] theorem Drive.recalibrate_kept (r : Recipe) (now : Nat) (goal : Option (Nat × Bool)) (dp : Drive) :
    (Drive.recalibrate r now goal dp).1.motor = dp.motor ∧ (Drive.recalibrate r now goal dp).1.select = dp.select ∧ (Drive.recalibrate r now goal dp).1.wgate = dp.wgate ∧ (Drive.recalibrate r now goal dp).1.lock = dp.lock ∧ (Drive.recalibrate r now goal dp).1.ejectEnds = dp.ejectEnds ∧ (Drive.recalibrate r now goal dp).1.diskin = dp.diskin ∧ (Drive.recalibrate r now goal dp).1.wprot = dp.wprot ∧ (Drive.recalibrate r now goal dp).1.trk0 = dp.trk0 ∧ (Drive.recalibrate r now goal dp).1.spindle = dp.spindle ∧ (Drive.recalibrate r now goal dp).1.counter = dp.counter ∧ (Drive.recalibrate r now goal dp).1.qualify = dp.qualify := by
  simp only [Drive.recalibrate]
  repeat' split
  all_goals simp

@[simp] theorem Drive.requestRecalibrate_kept (r : Recipe) (now : Nat) (dp : Drive) :
    (Drive.requestRecalibrate r now dp).1.motor = dp.motor ∧ (Drive.requestRecalibrate r now dp).1.select = dp.select ∧ (Drive.requestRecalibrate r now dp).1.wgate = dp.wgate ∧ (Drive.requestRecalibrate r now dp).1.lock = dp.lock ∧ (Drive.requestRecalibrate r now dp).1.ejectEnds = dp.ejectEnds ∧ (Drive.requestRecalibrate r now dp).1.diskin = dp.diskin ∧ (Drive.requestRecalibrate r now dp).1.wprot = dp.wprot ∧ (Drive.requestRecalibrate r now dp).1.trk0 = dp.trk0 ∧ (Drive.requestRecalibrate r now dp).1.spindle = dp.spindle ∧ (Drive.requestRecalibrate r now dp).1.counter = dp.counter ∧ (Drive.requestRecalibrate r now dp).1.qualify = dp.qualify := by
  simp only [Drive.requestRecalibrate]
  repeat' split
  all_goals simp

@[simp] theorem Drive.requestSeek_kept (r : Recipe) (now c : Nat) (h : Bool) (dp : Drive) :
    (dp.requestSeek r now c h).1.motor = dp.motor ∧ (dp.requestSeek r now c h).1.select = dp.select
    ∧ (dp.requestSeek r now c h).1.wgate = dp.wgate ∧ (dp.requestSeek r now c h).1.lock = dp.lock
    ∧ (dp.requestSeek r now c h).1.ejectEnds = dp.ejectEnds ∧ (dp.requestSeek r now c h).1.diskin = dp.diskin
    ∧ (dp.requestSeek r now c h).1.wprot = dp.wprot ∧ (dp.requestSeek r now c h).1.trk0 = dp.trk0
    ∧ (dp.requestSeek r now c h).1.spindle = dp.spindle ∧ (dp.requestSeek r now c h).1.counter = dp.counter
    ∧ (dp.requestSeek r now c h).1.qualify = dp.qualify := by
  have hr := Drive.recalibrate_kept r now (some (c, h)) dp
  simp only [Drive.requestSeek]
  generalize dp.recalibrate r now (some (c, h)) = p at hr
  obtain ⟨d, b⟩ := p
  simp only at hr
  split
  · simp
  · split
    · simp
    · cases b <;> simp [hr]

@[simp] theorem Drive.stepEnd_kept (r : Recipe) (dp : Drive) :
    (Drive.stepEnd r dp).1.motor = dp.motor ∧ (Drive.stepEnd r dp).1.select = dp.select ∧ (Drive.stepEnd r dp).1.dir = dp.dir ∧ (Drive.stepEnd r dp).1.wgate = dp.wgate ∧ (Drive.stepEnd r dp).1.lock = dp.lock ∧ (Drive.stepEnd r dp).1.ejectEnds = dp.ejectEnds ∧ (Drive.stepEnd r dp).1.diskin = dp.diskin ∧ (Drive.stepEnd r dp).1.wprot = dp.wprot ∧ (Drive.stepEnd r dp).1.trk0 = dp.trk0 ∧ (Drive.stepEnd r dp).1.spindle = dp.spindle ∧ (Drive.stepEnd r dp).1.counter = dp.counter ∧ (Drive.stepEnd r dp).1.qualify = dp.qualify := by
  simp only [Drive.stepEnd]
  repeat' split
  all_goals simp

@[simp] theorem Drive.settleEnd_kept (r : Recipe) (now : Nat) (dp : Drive) :
    (dp.settleEnd r now).1.motor = dp.motor ∧ (dp.settleEnd r now).1.select = dp.select
    ∧ (dp.settleEnd r now).1.wgate = dp.wgate ∧ (dp.settleEnd r now).1.lock = dp.lock
    ∧ (dp.settleEnd r now).1.ejectEnds = dp.ejectEnds ∧ (dp.settleEnd r now).1.diskin = dp.diskin
    ∧ (dp.settleEnd r now).1.wprot = dp.wprot ∧ (dp.settleEnd r now).1.trk0 = dp.trk0
    ∧ (dp.settleEnd r now).1.spindle = dp.spindle ∧ (dp.settleEnd r now).1.counter = dp.counter
    ∧ (dp.settleEnd r now).1.qualify = dp.qualify := by
  simp only [Drive.settleEnd]
  split
  · simp
  · split
    · simp
    · split
      · split <;> simp
      · simp
      · rename_i c h _
        have hs := Drive.seekFrom_kept r now 0 c h { dp with motion := none, cylinder := some 0 }
        generalize Drive.seekFrom r now 0 c h { dp with motion := none, cylinder := some 0 } = p at hs
        obtain ⟨d, b⟩ := p
        simp only at hs
        cases b <;> simp [hs]

@[simp] theorem Drive.indexEdge_kept (r : Option Recipe) (time : Nat) (dp : Drive) :
    (Drive.indexEdge r time dp).motor = dp.motor ∧ (Drive.indexEdge r time dp).select = dp.select ∧ (Drive.indexEdge r time dp).head = dp.head ∧ (Drive.indexEdge r time dp).step = dp.step ∧ (Drive.indexEdge r time dp).dir = dp.dir ∧ (Drive.indexEdge r time dp).wgate = dp.wgate ∧ (Drive.indexEdge r time dp).lock = dp.lock ∧ (Drive.indexEdge r time dp).ejectEnds = dp.ejectEnds ∧ (Drive.indexEdge r time dp).diskin = dp.diskin ∧ (Drive.indexEdge r time dp).wprot = dp.wprot ∧ (Drive.indexEdge r time dp).trk0 = dp.trk0 ∧ (Drive.indexEdge r time dp).cylinder = dp.cylinder ∧ (Drive.indexEdge r time dp).motion = dp.motion := by
  simp [Drive.indexEdge]

@[simp] theorem Drive.noIndex_kept (dp : Drive) :
    (Drive.noIndex dp).motor = dp.motor ∧ (Drive.noIndex dp).select = dp.select ∧ (Drive.noIndex dp).head = dp.head ∧ (Drive.noIndex dp).step = dp.step ∧ (Drive.noIndex dp).dir = dp.dir ∧ (Drive.noIndex dp).lock = dp.lock ∧ (Drive.noIndex dp).ejectEnds = dp.ejectEnds ∧ (Drive.noIndex dp).diskin = dp.diskin ∧ (Drive.noIndex dp).wprot = dp.wprot ∧ (Drive.noIndex dp).trk0 = dp.trk0 ∧ (Drive.noIndex dp).cylinder = dp.cylinder ∧ (Drive.noIndex dp).counter = dp.counter ∧ (Drive.noIndex dp).motion = dp.motion ∧ (Drive.noIndex dp).qualify = dp.qualify := by
  simp [Drive.noIndex]

@[simp] theorem Drive.arm_kept (p : Nat) (dp : Drive) :
    (Drive.arm p dp).motor = dp.motor ∧ (Drive.arm p dp).select = dp.select ∧ (Drive.arm p dp).head = dp.head ∧ (Drive.arm p dp).step = dp.step ∧ (Drive.arm p dp).dir = dp.dir ∧ (Drive.arm p dp).wgate = dp.wgate ∧ (Drive.arm p dp).lock = dp.lock ∧ (Drive.arm p dp).ejectEnds = dp.ejectEnds ∧ (Drive.arm p dp).diskin = dp.diskin ∧ (Drive.arm p dp).wprot = dp.wprot ∧ (Drive.arm p dp).trk0 = dp.trk0 ∧ (Drive.arm p dp).cylinder = dp.cylinder ∧ (Drive.arm p dp).spindle = dp.spindle ∧ (Drive.arm p dp).motion = dp.motion ∧ (Drive.arm p dp).qualify = dp.qualify := by
  simp [Drive.arm]

@[simp] theorem Drive.disarm_kept (dp : Drive) :
    (Drive.disarm dp).motor = dp.motor ∧ (Drive.disarm dp).select = dp.select ∧ (Drive.disarm dp).head = dp.head ∧ (Drive.disarm dp).step = dp.step ∧ (Drive.disarm dp).dir = dp.dir ∧ (Drive.disarm dp).wgate = dp.wgate ∧ (Drive.disarm dp).lock = dp.lock ∧ (Drive.disarm dp).ejectEnds = dp.ejectEnds ∧ (Drive.disarm dp).diskin = dp.diskin ∧ (Drive.disarm dp).wprot = dp.wprot ∧ (Drive.disarm dp).trk0 = dp.trk0 ∧ (Drive.disarm dp).cylinder = dp.cylinder ∧ (Drive.disarm dp).spindle = dp.spindle ∧ (Drive.disarm dp).motion = dp.motion ∧ (Drive.disarm dp).qualify = dp.qualify := by
  simp [Drive.disarm]

@[simp] theorem State.openQualify_kept (s : State) :
    (State.openQualify s).pending = s.pending ∧ (State.openQualify s).now = s.now ∧ (State.openQualify s).station = s.station ∧ (State.openQualify s).boot = s.boot ∧ (State.openQualify s).lc = s.lc ∧ (State.openQualify s).jc = s.jc ∧ (State.openQualify s).store = s.store ∧ (State.openQualify s).du = s.du ∧ (State.openQualify s).cs = s.cs ∧ (State.openQualify s).ss = s.ss ∧ (State.openQualify s).tb = s.tb ∧ (State.openQualify s).vu = s.vu ∧ (State.openQualify s).pc = s.pc ∧ (State.openQualify s).dp.diskin = s.dp.diskin ∧ (State.openQualify s).dp.wprot = s.dp.wprot ∧ (State.openQualify s).dp.trk0 = s.dp.trk0 ∧ (State.openQualify s).dp.wgate = s.dp.wgate := by
  simp [State.openQualify]

@[simp] theorem State.stopWrite_kept (s : State) :
    (State.stopWrite s).pending = s.pending ∧ (State.stopWrite s).now = s.now ∧ (State.stopWrite s).station = s.station ∧ (State.stopWrite s).boot = s.boot ∧ (State.stopWrite s).lc = s.lc ∧ (State.stopWrite s).jc = s.jc ∧ (State.stopWrite s).store = s.store ∧ (State.stopWrite s).du = s.du ∧ (State.stopWrite s).cs = s.cs ∧ (State.stopWrite s).ss = s.ss ∧ (State.stopWrite s).vu = s.vu ∧ (State.stopWrite s).pc = s.pc ∧ (State.stopWrite s).dp.diskin = s.dp.diskin ∧ (State.stopWrite s).dp.wprot = s.dp.wprot ∧ (State.stopWrite s).dp.trk0 = s.dp.trk0 := by
  simp [State.stopWrite]

@[simp] theorem State.stopMotor_kept (s : State) :
    (State.stopMotor s).pending = s.pending ∧ (State.stopMotor s).now = s.now ∧ (State.stopMotor s).station = s.station ∧ (State.stopMotor s).boot = s.boot ∧ (State.stopMotor s).lc = s.lc ∧ (State.stopMotor s).jc = s.jc ∧ (State.stopMotor s).store = s.store ∧ (State.stopMotor s).du = s.du ∧ (State.stopMotor s).cs = s.cs ∧ (State.stopMotor s).ss = s.ss ∧ (State.stopMotor s).vu = s.vu ∧ (State.stopMotor s).pc = s.pc ∧ (State.stopMotor s).dp.diskin = s.dp.diskin ∧ (State.stopMotor s).dp.wprot = s.dp.wprot ∧ (State.stopMotor s).dp.trk0 = s.dp.trk0 := by
  simp [State.stopMotor]

@[simp] theorem State.idlePort_kept (s : State) :
    (State.idlePort s).pending = s.pending ∧ (State.idlePort s).now = s.now ∧ (State.idlePort s).station = s.station ∧ (State.idlePort s).boot = s.boot ∧ (State.idlePort s).jc = s.jc ∧ (State.idlePort s).store = s.store ∧ (State.idlePort s).du = s.du ∧ (State.idlePort s).cs = s.cs ∧ (State.idlePort s).ss = s.ss ∧ (State.idlePort s).tb = s.tb ∧ (State.idlePort s).vu = s.vu ∧ (State.idlePort s).pc = s.pc ∧ (State.idlePort s).lc = s.lc ∧ (State.idlePort s).dp.motor = s.dp.motor ∧ (State.idlePort s).dp.select = s.dp.select ∧ (State.idlePort s).dp.wgate = s.dp.wgate ∧ (State.idlePort s).dp.ejectEnds = s.dp.ejectEnds ∧ (State.idlePort s).dp.diskin = s.dp.diskin ∧ (State.idlePort s).dp.wprot = s.dp.wprot ∧ (State.idlePort s).dp.trk0 = s.dp.trk0 ∧ (State.idlePort s).dp.cylinder = s.dp.cylinder ∧ (State.idlePort s).dp.spindle = s.dp.spindle ∧ (State.idlePort s).dp.counter = s.dp.counter ∧ (State.idlePort s).dp.motion = s.dp.motion ∧ (State.idlePort s).dp.qualify = s.dp.qualify := by
  simp only [State.idlePort]
  split <;> simp [State.mapDrive, Drive.atRest]

@[simp] theorem State.closeTest_kept (s : State) :
    (State.closeTest s).pending = s.pending ∧ (State.closeTest s).now = s.now ∧ (State.closeTest s).station = s.station ∧ (State.closeTest s).boot = s.boot ∧ (State.closeTest s).jc = s.jc ∧ (State.closeTest s).store = s.store ∧ (State.closeTest s).du = s.du ∧ (State.closeTest s).cs = s.cs ∧ (State.closeTest s).ss = s.ss ∧ (State.closeTest s).tb = s.tb ∧ (State.closeTest s).vu = s.vu ∧ (State.closeTest s).dp = s.dp ∧ (State.closeTest s).pc = s.pc ∧ (State.closeTest s).lc.presence = s.lc.presence ∧ (State.closeTest s).lc.counters = s.lc.counters ∧ (State.closeTest s).lc.foreign = s.lc.foreign ∧ (State.closeTest s).lc.view = s.lc.view ∧ (State.closeTest s).lc.deaf = s.lc.deaf := by
  simp only [State.closeTest]
  repeat' split
  all_goals simp

@[simp] theorem State.closeLapse_kept (s : State) :
    (State.closeLapse s).pending = s.pending ∧ (State.closeLapse s).now = s.now ∧ (State.closeLapse s).station = s.station ∧ (State.closeLapse s).boot = s.boot ∧ (State.closeLapse s).jc = s.jc ∧ (State.closeLapse s).store = s.store ∧ (State.closeLapse s).du = s.du ∧ (State.closeLapse s).cs = s.cs ∧ (State.closeLapse s).ss = s.ss ∧ (State.closeLapse s).tb = s.tb ∧ (State.closeLapse s).vu = s.vu ∧ (State.closeLapse s).dp = s.dp ∧ (State.closeLapse s).pc = s.pc ∧ (State.closeLapse s).lc.presence = s.lc.presence ∧ (State.closeLapse s).lc.counters = s.lc.counters ∧ (State.closeLapse s).lc.foreign = s.lc.foreign ∧ (State.closeLapse s).lc.view = s.lc.view ∧ (State.closeLapse s).lc.deaf = s.lc.deaf := by
  simp only [State.closeLapse]
  repeat' split
  all_goals simp

@[simp] theorem State.refillClose_kept (s : State) :
    (State.refillClose s).pending = s.pending ∧ (State.refillClose s).now = s.now ∧ (State.refillClose s).station = s.station ∧ (State.refillClose s).boot = s.boot ∧ (State.refillClose s).jc = s.jc ∧ (State.refillClose s).store = s.store ∧ (State.refillClose s).du = s.du ∧ (State.refillClose s).cs = s.cs ∧ (State.refillClose s).ss = s.ss ∧ (State.refillClose s).tb = s.tb ∧ (State.refillClose s).vu = s.vu ∧ (State.refillClose s).dp = s.dp ∧ (State.refillClose s).pc = s.pc ∧ (State.refillClose s).lc.presence = s.lc.presence ∧ (State.refillClose s).lc.counters = s.lc.counters ∧ (State.refillClose s).lc.foreign = s.lc.foreign ∧ (State.refillClose s).lc.view = s.lc.view ∧ (State.refillClose s).lc.deaf = s.lc.deaf := by
  simp only [State.refillClose]
  repeat' split
  all_goals simp

@[simp] theorem State.reserveAbandon_kept (reason : AbandonReason) (s : State) :
    (State.reserveAbandon reason s).pending = s.pending ∧ (State.reserveAbandon reason s).now = s.now ∧ (State.reserveAbandon reason s).station = s.station ∧ (State.reserveAbandon reason s).boot = s.boot ∧ (State.reserveAbandon reason s).lc = s.lc ∧ (State.reserveAbandon reason s).store = s.store ∧ (State.reserveAbandon reason s).du = s.du ∧ (State.reserveAbandon reason s).cs = s.cs ∧ (State.reserveAbandon reason s).ss = s.ss ∧ (State.reserveAbandon reason s).tb = s.tb ∧ (State.reserveAbandon reason s).vu = s.vu ∧ (State.reserveAbandon reason s).dp = s.dp ∧ (State.reserveAbandon reason s).pc = s.pc ∧ (State.reserveAbandon reason s).jc.record = s.jc.record ∧ (State.reserveAbandon reason s).jc.nextBase = s.jc.nextBase ∧ (State.reserveAbandon reason s).jc.seq = s.jc.seq := by
  simp only [State.reserveAbandon]
  repeat' split
  all_goals simp

@[simp] theorem State.enterAbandon_kept (reason : AbandonReason) (s : State) :
    (State.enterAbandon reason s).pending = s.pending ∧ (State.enterAbandon reason s).now = s.now ∧ (State.enterAbandon reason s).station = s.station ∧ (State.enterAbandon reason s).boot = s.boot ∧ (State.enterAbandon reason s).store = s.store ∧ (State.enterAbandon reason s).du = s.du ∧ (State.enterAbandon reason s).cs = s.cs ∧ (State.enterAbandon reason s).ss = s.ss ∧ (State.enterAbandon reason s).tb = s.tb ∧ (State.enterAbandon reason s).vu = s.vu ∧ (State.enterAbandon reason s).dp = s.dp ∧ (State.enterAbandon reason s).pc = s.pc ∧ (State.enterAbandon reason s).lc.presence = s.lc.presence ∧ (State.enterAbandon reason s).lc.counters = s.lc.counters ∧ (State.enterAbandon reason s).lc.foreign = s.lc.foreign ∧ (State.enterAbandon reason s).lc.view = s.lc.view ∧ (State.enterAbandon reason s).lc.deaf = s.lc.deaf ∧ (State.enterAbandon reason s).jc.record = s.jc.record ∧ (State.enterAbandon reason s).jc.nextBase = s.jc.nextBase ∧ (State.enterAbandon reason s).jc.seq = s.jc.seq := by
  simp only [State.enterAbandon]
  repeat' split
  all_goals simp

@[simp] theorem State.abandonFromReserve_kept (s : State) :
    (State.abandonFromReserve s).pending = s.pending ∧ (State.abandonFromReserve s).now = s.now ∧ (State.abandonFromReserve s).station = s.station ∧ (State.abandonFromReserve s).boot = s.boot ∧ (State.abandonFromReserve s).store = s.store ∧ (State.abandonFromReserve s).du = s.du ∧ (State.abandonFromReserve s).cs = s.cs ∧ (State.abandonFromReserve s).ss = s.ss ∧ (State.abandonFromReserve s).tb = s.tb ∧ (State.abandonFromReserve s).vu = s.vu ∧ (State.abandonFromReserve s).dp = s.dp ∧ (State.abandonFromReserve s).pc = s.pc ∧ (State.abandonFromReserve s).lc.presence = s.lc.presence ∧ (State.abandonFromReserve s).lc.counters = s.lc.counters ∧ (State.abandonFromReserve s).lc.foreign = s.lc.foreign ∧ (State.abandonFromReserve s).lc.view = s.lc.view ∧ (State.abandonFromReserve s).lc.deaf = s.lc.deaf ∧ (State.abandonFromReserve s).jc.record = s.jc.record ∧ (State.abandonFromReserve s).jc.nextBase = s.jc.nextBase ∧ (State.abandonFromReserve s).jc.seq = s.jc.seq := by
  simp only [State.abandonFromReserve]
  repeat' split
  all_goals simp

@[simp] theorem State.enterStop_kept (s : State) :
    (State.enterStop s).pending = s.pending ∧ (State.enterStop s).now = s.now ∧ (State.enterStop s).station = s.station ∧ (State.enterStop s).boot = s.boot ∧ (State.enterStop s).store = s.store ∧ (State.enterStop s).du = s.du ∧ (State.enterStop s).cs = s.cs ∧ (State.enterStop s).ss = s.ss ∧ (State.enterStop s).tb = s.tb ∧ (State.enterStop s).vu = s.vu ∧ (State.enterStop s).dp = s.dp ∧ (State.enterStop s).pc = s.pc ∧ (State.enterStop s).lc.presence = s.lc.presence ∧ (State.enterStop s).lc.counters = s.lc.counters ∧ (State.enterStop s).lc.foreign = s.lc.foreign ∧ (State.enterStop s).lc.view = s.lc.view ∧ (State.enterStop s).lc.deaf = s.lc.deaf ∧ (State.enterStop s).jc.record = s.jc.record ∧ (State.enterStop s).jc.nextBase = s.jc.nextBase ∧ (State.enterStop s).jc.seq = s.jc.seq := by
  simp only [State.enterStop]
  repeat' split
  all_goals simp

@[simp] theorem State.stopFromReserve_kept (s : State) :
    (State.stopFromReserve s).pending = s.pending ∧ (State.stopFromReserve s).now = s.now ∧ (State.stopFromReserve s).station = s.station ∧ (State.stopFromReserve s).boot = s.boot ∧ (State.stopFromReserve s).store = s.store ∧ (State.stopFromReserve s).du = s.du ∧ (State.stopFromReserve s).cs = s.cs ∧ (State.stopFromReserve s).ss = s.ss ∧ (State.stopFromReserve s).tb = s.tb ∧ (State.stopFromReserve s).vu = s.vu ∧ (State.stopFromReserve s).dp = s.dp ∧ (State.stopFromReserve s).pc = s.pc ∧ (State.stopFromReserve s).lc.presence = s.lc.presence ∧ (State.stopFromReserve s).lc.counters = s.lc.counters ∧ (State.stopFromReserve s).lc.foreign = s.lc.foreign ∧ (State.stopFromReserve s).lc.view = s.lc.view ∧ (State.stopFromReserve s).lc.deaf = s.lc.deaf ∧ (State.stopFromReserve s).jc.record = s.jc.record ∧ (State.stopFromReserve s).jc.nextBase = s.jc.nextBase ∧ (State.stopFromReserve s).jc.seq = s.jc.seq := by
  simp only [State.stopFromReserve]
  repeat' split
  all_goals simp

@[simp] theorem State.trackLostTest_kept (first : Option DiskFault) (s : State) :
    (State.trackLostTest first s).pending = s.pending ∧ (State.trackLostTest first s).now = s.now ∧ (State.trackLostTest first s).station = s.station ∧ (State.trackLostTest first s).boot = s.boot ∧ (State.trackLostTest first s).store = s.store ∧ (State.trackLostTest first s).du = s.du ∧ (State.trackLostTest first s).cs = s.cs ∧ (State.trackLostTest first s).ss = s.ss ∧ (State.trackLostTest first s).tb = s.tb ∧ (State.trackLostTest first s).vu = s.vu ∧ (State.trackLostTest first s).dp = s.dp ∧ (State.trackLostTest first s).pc = s.pc ∧ (State.trackLostTest first s).lc.presence = s.lc.presence ∧ (State.trackLostTest first s).lc.counters = s.lc.counters ∧ (State.trackLostTest first s).lc.foreign = s.lc.foreign ∧ (State.trackLostTest first s).lc.view = s.lc.view ∧ (State.trackLostTest first s).lc.deaf = s.lc.deaf ∧ (State.trackLostTest first s).jc.record = s.jc.record ∧ (State.trackLostTest first s).jc.nextBase = s.jc.nextBase ∧ (State.trackLostTest first s).jc.seq = s.jc.seq := by
  simp only [State.trackLostTest]
  repeat' split
  all_goals simp

@[simp] theorem State.sourceLostTest_kept (s : State) :
    (State.sourceLostTest s).pending = s.pending ∧ (State.sourceLostTest s).now = s.now ∧ (State.sourceLostTest s).station = s.station ∧ (State.sourceLostTest s).boot = s.boot ∧ (State.sourceLostTest s).store = s.store ∧ (State.sourceLostTest s).du = s.du ∧ (State.sourceLostTest s).cs = s.cs ∧ (State.sourceLostTest s).ss = s.ss ∧ (State.sourceLostTest s).tb = s.tb ∧ (State.sourceLostTest s).vu = s.vu ∧ (State.sourceLostTest s).dp = s.dp ∧ (State.sourceLostTest s).pc = s.pc ∧ (State.sourceLostTest s).lc.presence = s.lc.presence ∧ (State.sourceLostTest s).lc.counters = s.lc.counters ∧ (State.sourceLostTest s).lc.foreign = s.lc.foreign ∧ (State.sourceLostTest s).lc.view = s.lc.view ∧ (State.sourceLostTest s).lc.deaf = s.lc.deaf ∧ (State.sourceLostTest s).jc.record = s.jc.record ∧ (State.sourceLostTest s).jc.nextBase = s.jc.nextBase ∧ (State.sourceLostTest s).jc.seq = s.jc.seq := by
  simp only [State.sourceLostTest]
  repeat' split
  all_goals simp

@[simp] theorem State.fault_kept (f : DiskFault) (s : State) :
    (State.fault f s).pending = s.pending ∧ (State.fault f s).now = s.now ∧ (State.fault f s).station = s.station ∧ (State.fault f s).boot = s.boot ∧ (State.fault f s).lc = s.lc ∧ (State.fault f s).jc = s.jc ∧ (State.fault f s).store = s.store ∧ (State.fault f s).du = s.du ∧ (State.fault f s).ss = s.ss ∧ (State.fault f s).tb = s.tb ∧ (State.fault f s).vu = s.vu ∧ (State.fault f s).dp = s.dp ∧ (State.fault f s).pc = s.pc ∧ (State.fault f s).cs.paused = s.cs.paused ∧ (State.fault f s).cs.state = s.cs.state := by
  simp [State.fault]

@[simp] theorem State.cycleTo_kept (c : CycleState) (s : State) :
    (State.cycleTo c s).pending = s.pending ∧ (State.cycleTo c s).now = s.now ∧ (State.cycleTo c s).station = s.station ∧ (State.cycleTo c s).boot = s.boot ∧ (State.cycleTo c s).lc = s.lc ∧ (State.cycleTo c s).jc = s.jc ∧ (State.cycleTo c s).store = s.store ∧ (State.cycleTo c s).du = s.du ∧ (State.cycleTo c s).ss = s.ss ∧ (State.cycleTo c s).tb = s.tb ∧ (State.cycleTo c s).vu = s.vu ∧ (State.cycleTo c s).dp = s.dp ∧ (State.cycleTo c s).pc = s.pc ∧ (State.cycleTo c s).cs.paused = s.cs.paused := by
  simp [State.cycleTo]

@[simp] theorem State.endVerify_kept (s : State) :
    (State.endVerify s).pending = s.pending ∧ (State.endVerify s).now = s.now ∧ (State.endVerify s).station = s.station ∧ (State.endVerify s).boot = s.boot ∧ (State.endVerify s).lc = s.lc ∧ (State.endVerify s).jc = s.jc ∧ (State.endVerify s).store = s.store ∧ (State.endVerify s).du = s.du ∧ (State.endVerify s).cs = s.cs ∧ (State.endVerify s).ss = s.ss ∧ (State.endVerify s).tb = s.tb ∧ (State.endVerify s).pc = s.pc ∧ (State.endVerify s).dp.diskin = s.dp.diskin ∧ (State.endVerify s).dp.wprot = s.dp.wprot ∧ (State.endVerify s).dp.trk0 = s.dp.trk0 ∧ (State.endVerify s).dp.wgate = s.dp.wgate := by
  simp only [State.endVerify]
  repeat' split
  all_goals simp

@[simp] theorem State.dropNeed_kept (s : State) :
    (State.dropNeed s).pending = s.pending ∧ (State.dropNeed s).now = s.now ∧ (State.dropNeed s).station = s.station ∧ (State.dropNeed s).boot = s.boot ∧ (State.dropNeed s).jc = s.jc ∧ (State.dropNeed s).store = s.store ∧ (State.dropNeed s).cs = s.cs ∧ (State.dropNeed s).ss = s.ss ∧ (State.dropNeed s).tb = s.tb ∧ (State.dropNeed s).vu = s.vu ∧ (State.dropNeed s).dp = s.dp ∧ (State.dropNeed s).pc = s.pc ∧ (State.dropNeed s).lc.presence = s.lc.presence ∧ (State.dropNeed s).lc.counters = s.lc.counters ∧ (State.dropNeed s).lc.foreign = s.lc.foreign ∧ (State.dropNeed s).lc.view = s.lc.view ∧ (State.dropNeed s).lc.deaf = s.lc.deaf := by
  simp [State.dropNeed]

@[simp] theorem State.endUse_kept (s : State) :
    (State.endUse s).pending = s.pending ∧ (State.endUse s).now = s.now ∧ (State.endUse s).station = s.station ∧ (State.endUse s).boot = s.boot ∧ (State.endUse s).ss = s.ss ∧ (State.endUse s).pc = s.pc ∧ (State.endUse s).lc.presence = s.lc.presence ∧ (State.endUse s).lc.counters = s.lc.counters ∧ (State.endUse s).lc.foreign = s.lc.foreign ∧ (State.endUse s).lc.view = s.lc.view ∧ (State.endUse s).lc.deaf = s.lc.deaf ∧ (State.endUse s).jc.nextBase = s.jc.nextBase ∧ (State.endUse s).jc.seq = s.jc.seq ∧ (State.endUse s).store.mem = s.store.mem ∧ (State.endUse s).store.fills = s.store.fills ∧ (State.endUse s).store.allowance = s.store.allowance ∧ (State.endUse s).cs.paused = s.cs.paused ∧ (State.endUse s).cs.state = s.cs.state ∧ (State.endUse s).dp.diskin = s.dp.diskin ∧ (State.endUse s).dp.wprot = s.dp.wprot ∧ (State.endUse s).dp.trk0 = s.dp.trk0 ∧ (State.endUse s).jc.record.map (·.fixed) = s.jc.record.map (·.fixed) ∧ (State.endUse s).jc.record.map (·.account) = s.jc.record.map (·.account) ∧ (State.endUse s).jc.record.map (·.state) = s.jc.record.map (·.state) ∧ (State.endUse s).jc.record.map (·.mark) = s.jc.record.map (·.mark) ∧ (State.endUse s).jc.record.map (·.departed) = s.jc.record.map (·.departed) := by
  simp [State.endUse]

@[simp] theorem State.enterOut_kept (o : DiskOutcome) (cause : Option EndCause) (s : State) :
    (State.enterOut o cause s).pending = s.pending ∧ (State.enterOut o cause s).now = s.now ∧ (State.enterOut o cause s).station = s.station ∧ (State.enterOut o cause s).boot = s.boot ∧ (State.enterOut o cause s).jc = s.jc ∧ (State.enterOut o cause s).store = s.store ∧ (State.enterOut o cause s).du = s.du ∧ (State.enterOut o cause s).ss = s.ss ∧ (State.enterOut o cause s).tb = s.tb ∧ (State.enterOut o cause s).vu = s.vu ∧ (State.enterOut o cause s).lc.queue = s.lc.queue ∧ (State.enterOut o cause s).lc.presence = s.lc.presence ∧ (State.enterOut o cause s).lc.foreign = s.lc.foreign ∧ (State.enterOut o cause s).lc.view = s.lc.view ∧ (State.enterOut o cause s).lc.deaf = s.lc.deaf ∧ (State.enterOut o cause s).cs.paused = s.cs.paused ∧ (State.enterOut o cause s).dp.diskin = s.dp.diskin ∧ (State.enterOut o cause s).dp.wprot = s.dp.wprot ∧ (State.enterOut o cause s).dp.trk0 = s.dp.trk0 ∧ (State.enterOut o cause s).dp.wgate = s.dp.wgate ∧ (State.enterOut o cause s).pc.params = s.pc.params ∧ (State.enterOut o cause s).pc.directory = s.pc.directory ∧ (State.enterOut o cause s).pc.refusal = s.pc.refusal ∧ (State.enterOut o cause s).pc.flash = s.pc.flash ∧ (State.enterOut o cause s).pc.sequence = s.pc.sequence := by
  simp [State.enterOut]

@[simp] theorem State.leavePulled_kept (o : DiskOutcome) (cause : Option EndCause) (s : State) :
    (State.leavePulled o cause s).pending = s.pending ∧ (State.leavePulled o cause s).now = s.now ∧ (State.leavePulled o cause s).station = s.station ∧ (State.leavePulled o cause s).boot = s.boot ∧ (State.leavePulled o cause s).jc = s.jc ∧ (State.leavePulled o cause s).store = s.store ∧ (State.leavePulled o cause s).du = s.du ∧ (State.leavePulled o cause s).ss = s.ss ∧ (State.leavePulled o cause s).tb = s.tb ∧ (State.leavePulled o cause s).vu = s.vu ∧ (State.leavePulled o cause s).dp = s.dp ∧ (State.leavePulled o cause s).lc.queue = s.lc.queue ∧ (State.leavePulled o cause s).lc.presence = s.lc.presence ∧ (State.leavePulled o cause s).lc.foreign = s.lc.foreign ∧ (State.leavePulled o cause s).lc.view = s.lc.view ∧ (State.leavePulled o cause s).lc.deaf = s.lc.deaf ∧ (State.leavePulled o cause s).cs.paused = s.cs.paused ∧ (State.leavePulled o cause s).pc.params = s.pc.params ∧ (State.leavePulled o cause s).pc.directory = s.pc.directory ∧ (State.leavePulled o cause s).pc.refusal = s.pc.refusal ∧ (State.leavePulled o cause s).pc.flash = s.pc.flash ∧ (State.leavePulled o cause s).pc.sequence = s.pc.sequence := by
  simp [State.leavePulled]

@[simp] theorem State.enterTally_kept (s : State) :
    (State.enterTally s).pending = s.pending ∧ (State.enterTally s).now = s.now ∧ (State.enterTally s).station = s.station ∧ (State.enterTally s).boot = s.boot ∧ (State.enterTally s).jc = s.jc ∧ (State.enterTally s).store = s.store ∧ (State.enterTally s).du = s.du ∧ (State.enterTally s).cs = s.cs ∧ (State.enterTally s).ss = s.ss ∧ (State.enterTally s).tb = s.tb ∧ (State.enterTally s).vu = s.vu ∧ (State.enterTally s).dp = s.dp ∧ (State.enterTally s).pc = s.pc ∧ (State.enterTally s).lc.presence = s.lc.presence ∧ (State.enterTally s).lc.counters = s.lc.counters ∧ (State.enterTally s).lc.foreign = s.lc.foreign ∧ (State.enterTally s).lc.view = s.lc.view ∧ (State.enterTally s).lc.deaf = s.lc.deaf := by
  simp only [State.enterTally]
  repeat' split
  all_goals simp

@[simp] theorem State.toTally_kept (o : DiskOutcome) (s : State) :
    (State.toTally o s).pending = s.pending ∧ (State.toTally o s).now = s.now ∧ (State.toTally o s).station = s.station ∧ (State.toTally o s).boot = s.boot ∧ (State.toTally o s).jc = s.jc ∧ (State.toTally o s).store = s.store ∧ (State.toTally o s).du = s.du ∧ (State.toTally o s).ss = s.ss ∧ (State.toTally o s).tb = s.tb ∧ (State.toTally o s).vu = s.vu ∧ (State.toTally o s).dp = s.dp ∧ (State.toTally o s).pc = s.pc ∧ (State.toTally o s).lc.presence = s.lc.presence ∧ (State.toTally o s).lc.counters = s.lc.counters ∧ (State.toTally o s).lc.foreign = s.lc.foreign ∧ (State.toTally o s).lc.view = s.lc.view ∧ (State.toTally o s).lc.deaf = s.lc.deaf ∧ (State.toTally o s).cs.paused = s.cs.paused := by
  simp [State.toTally]

@[simp] theorem State.endDisk_kept (o : DiskOutcome) (s : State) :
    (State.endDisk o s).pending = s.pending ∧ (State.endDisk o s).now = s.now ∧ (State.endDisk o s).station = s.station ∧ (State.endDisk o s).boot = s.boot ∧ (State.endDisk o s).ss = s.ss ∧ (State.endDisk o s).lc.presence = s.lc.presence ∧ (State.endDisk o s).lc.foreign = s.lc.foreign ∧ (State.endDisk o s).lc.view = s.lc.view ∧ (State.endDisk o s).lc.deaf = s.lc.deaf ∧ (State.endDisk o s).jc.nextBase = s.jc.nextBase ∧ (State.endDisk o s).jc.seq = s.jc.seq ∧ (State.endDisk o s).store.mem = s.store.mem ∧ (State.endDisk o s).store.fills = s.store.fills ∧ (State.endDisk o s).store.allowance = s.store.allowance ∧ (State.endDisk o s).cs.paused = s.cs.paused ∧ (State.endDisk o s).dp.diskin = s.dp.diskin ∧ (State.endDisk o s).dp.wprot = s.dp.wprot ∧ (State.endDisk o s).dp.trk0 = s.dp.trk0 ∧ (State.endDisk o s).pc.params = s.pc.params ∧ (State.endDisk o s).pc.directory = s.pc.directory ∧ (State.endDisk o s).pc.refusal = s.pc.refusal ∧ (State.endDisk o s).pc.flash = s.pc.flash ∧ (State.endDisk o s).pc.sequence = s.pc.sequence ∧ (State.endDisk o s).jc.record.map (·.fixed) = s.jc.record.map (·.fixed) ∧ (State.endDisk o s).jc.record.map (·.account) = s.jc.record.map (·.account) ∧ (State.endDisk o s).jc.record.map (·.state) = s.jc.record.map (·.state) ∧ (State.endDisk o s).jc.record.map (·.mark) = s.jc.record.map (·.mark) ∧ (State.endDisk o s).jc.record.map (·.departed) = s.jc.record.map (·.departed) := by
  simp only [State.endDisk]
  repeat' split
  all_goals simp

@[simp] theorem State.reject_kept (f : DiskFault) (s : State) :
    (State.reject f s).pending = s.pending ∧ (State.reject f s).now = s.now ∧ (State.reject f s).station = s.station ∧ (State.reject f s).boot = s.boot ∧ (State.reject f s).ss = s.ss ∧ (State.reject f s).lc.presence = s.lc.presence ∧ (State.reject f s).lc.foreign = s.lc.foreign ∧ (State.reject f s).lc.view = s.lc.view ∧ (State.reject f s).lc.deaf = s.lc.deaf ∧ (State.reject f s).jc.nextBase = s.jc.nextBase ∧ (State.reject f s).jc.seq = s.jc.seq ∧ (State.reject f s).store.mem = s.store.mem ∧ (State.reject f s).store.fills = s.store.fills ∧ (State.reject f s).store.allowance = s.store.allowance ∧ (State.reject f s).cs.paused = s.cs.paused ∧ (State.reject f s).dp.diskin = s.dp.diskin ∧ (State.reject f s).dp.wprot = s.dp.wprot ∧ (State.reject f s).dp.trk0 = s.dp.trk0 ∧ (State.reject f s).pc.params = s.pc.params ∧ (State.reject f s).pc.directory = s.pc.directory ∧ (State.reject f s).pc.refusal = s.pc.refusal ∧ (State.reject f s).pc.flash = s.pc.flash ∧ (State.reject f s).pc.sequence = s.pc.sequence ∧ (State.reject f s).jc.record.map (·.fixed) = s.jc.record.map (·.fixed) ∧ (State.reject f s).jc.record.map (·.account) = s.jc.record.map (·.account) ∧ (State.reject f s).jc.record.map (·.state) = s.jc.record.map (·.state) ∧ (State.reject f s).jc.record.map (·.mark) = s.jc.record.map (·.mark) ∧ (State.reject f s).jc.record.map (·.departed) = s.jc.record.map (·.departed) := by
  simp [State.reject]

@[simp] theorem State.startDisk_kept (s : State) :
    (State.startDisk s).pending = s.pending ∧ (State.startDisk s).now = s.now ∧ (State.startDisk s).station = s.station ∧ (State.startDisk s).boot = s.boot ∧ (State.startDisk s).jc = s.jc ∧ (State.startDisk s).store = s.store ∧ (State.startDisk s).du = s.du ∧ (State.startDisk s).ss = s.ss ∧ (State.startDisk s).tb = s.tb ∧ (State.startDisk s).vu = s.vu ∧ (State.startDisk s).lc.queue = s.lc.queue ∧ (State.startDisk s).lc.presence = s.lc.presence ∧ (State.startDisk s).lc.foreign = s.lc.foreign ∧ (State.startDisk s).lc.view = s.lc.view ∧ (State.startDisk s).lc.deaf = s.lc.deaf ∧ (State.startDisk s).cs.paused = s.cs.paused ∧ (State.startDisk s).dp.diskin = s.dp.diskin ∧ (State.startDisk s).dp.wprot = s.dp.wprot ∧ (State.startDisk s).dp.trk0 = s.dp.trk0 ∧ (State.startDisk s).dp.wgate = s.dp.wgate ∧ (State.startDisk s).pc.params = s.pc.params ∧ (State.startDisk s).pc.directory = s.pc.directory ∧ (State.startDisk s).pc.refusal = s.pc.refusal ∧ (State.startDisk s).pc.flash = s.pc.flash ∧ (State.startDisk s).pc.sequence = s.pc.sequence := by
  simp only [State.startDisk]
  repeat' split
  all_goals simp

@[simp] theorem State.startTest_kept (s : State) :
    (State.startTest s).pending = s.pending ∧ (State.startTest s).now = s.now ∧ (State.startTest s).station = s.station ∧ (State.startTest s).boot = s.boot ∧ (State.startTest s).jc = s.jc ∧ (State.startTest s).store = s.store ∧ (State.startTest s).du = s.du ∧ (State.startTest s).ss = s.ss ∧ (State.startTest s).tb = s.tb ∧ (State.startTest s).vu = s.vu ∧ (State.startTest s).lc.queue = s.lc.queue ∧ (State.startTest s).lc.presence = s.lc.presence ∧ (State.startTest s).lc.foreign = s.lc.foreign ∧ (State.startTest s).lc.view = s.lc.view ∧ (State.startTest s).lc.deaf = s.lc.deaf ∧ (State.startTest s).cs.paused = s.cs.paused ∧ (State.startTest s).dp.diskin = s.dp.diskin ∧ (State.startTest s).dp.wprot = s.dp.wprot ∧ (State.startTest s).dp.trk0 = s.dp.trk0 ∧ (State.startTest s).dp.wgate = s.dp.wgate ∧ (State.startTest s).pc.params = s.pc.params ∧ (State.startTest s).pc.directory = s.pc.directory ∧ (State.startTest s).pc.refusal = s.pc.refusal ∧ (State.startTest s).pc.flash = s.pc.flash ∧ (State.startTest s).pc.sequence = s.pc.sequence := by
  simp only [State.startTest]
  repeat' split
  all_goals simp

@[simp] theorem State.toStandby_kept (s : State) :
    (State.toStandby s).pending = s.pending ∧ (State.toStandby s).now = s.now ∧ (State.toStandby s).station = s.station ∧ (State.toStandby s).boot = s.boot ∧ (State.toStandby s).jc = s.jc ∧ (State.toStandby s).store = s.store ∧ (State.toStandby s).du = s.du ∧ (State.toStandby s).ss = s.ss ∧ (State.toStandby s).vu = s.vu ∧ (State.toStandby s).lc.queue = s.lc.queue ∧ (State.toStandby s).lc.presence = s.lc.presence ∧ (State.toStandby s).lc.foreign = s.lc.foreign ∧ (State.toStandby s).lc.view = s.lc.view ∧ (State.toStandby s).lc.deaf = s.lc.deaf ∧ (State.toStandby s).cs.paused = s.cs.paused ∧ (State.toStandby s).dp.diskin = s.dp.diskin ∧ (State.toStandby s).dp.wprot = s.dp.wprot ∧ (State.toStandby s).dp.trk0 = s.dp.trk0 ∧ (State.toStandby s).pc.params = s.pc.params ∧ (State.toStandby s).pc.directory = s.pc.directory ∧ (State.toStandby s).pc.refusal = s.pc.refusal ∧ (State.toStandby s).pc.flash = s.pc.flash ∧ (State.toStandby s).pc.sequence = s.pc.sequence := by
  simp [State.toStandby]

@[simp] theorem State.askClaim_kept (s : State) :
    (State.askClaim s).pending = s.pending ∧ (State.askClaim s).now = s.now ∧ (State.askClaim s).station = s.station ∧ (State.askClaim s).boot = s.boot ∧ (State.askClaim s).jc = s.jc ∧ (State.askClaim s).store = s.store ∧ (State.askClaim s).du = s.du ∧ (State.askClaim s).ss = s.ss ∧ (State.askClaim s).vu = s.vu ∧ (State.askClaim s).lc.presence = s.lc.presence ∧ (State.askClaim s).lc.foreign = s.lc.foreign ∧ (State.askClaim s).lc.view = s.lc.view ∧ (State.askClaim s).lc.deaf = s.lc.deaf ∧ (State.askClaim s).cs.paused = s.cs.paused ∧ (State.askClaim s).dp.diskin = s.dp.diskin ∧ (State.askClaim s).dp.wprot = s.dp.wprot ∧ (State.askClaim s).dp.trk0 = s.dp.trk0 ∧ (State.askClaim s).pc.params = s.pc.params ∧ (State.askClaim s).pc.directory = s.pc.directory ∧ (State.askClaim s).pc.refusal = s.pc.refusal ∧ (State.askClaim s).pc.flash = s.pc.flash ∧ (State.askClaim s).pc.sequence = s.pc.sequence := by
  simp only [State.askClaim]
  repeat' split
  all_goals simp

@[simp] theorem State.pulledUnclaimed_kept (s : State) :
    (State.pulledUnclaimed s).pending = s.pending ∧ (State.pulledUnclaimed s).now = s.now ∧ (State.pulledUnclaimed s).station = s.station ∧ (State.pulledUnclaimed s).boot = s.boot ∧ (State.pulledUnclaimed s).jc = s.jc ∧ (State.pulledUnclaimed s).store = s.store ∧ (State.pulledUnclaimed s).du = s.du ∧ (State.pulledUnclaimed s).ss = s.ss ∧ (State.pulledUnclaimed s).tb = s.tb ∧ (State.pulledUnclaimed s).vu = s.vu ∧ (State.pulledUnclaimed s).dp = s.dp ∧ (State.pulledUnclaimed s).lc.queue = s.lc.queue ∧ (State.pulledUnclaimed s).lc.presence = s.lc.presence ∧ (State.pulledUnclaimed s).lc.foreign = s.lc.foreign ∧ (State.pulledUnclaimed s).lc.view = s.lc.view ∧ (State.pulledUnclaimed s).lc.deaf = s.lc.deaf ∧ (State.pulledUnclaimed s).cs.paused = s.cs.paused ∧ (State.pulledUnclaimed s).pc.params = s.pc.params ∧ (State.pulledUnclaimed s).pc.directory = s.pc.directory ∧ (State.pulledUnclaimed s).pc.refusal = s.pc.refusal ∧ (State.pulledUnclaimed s).pc.flash = s.pc.flash ∧ (State.pulledUnclaimed s).pc.sequence = s.pc.sequence := by
  simp only [State.pulledUnclaimed]
  repeat' split
  all_goals simp

@[simp] theorem State.claimWithdrawn_kept (s : State) :
    (State.claimWithdrawn s).pending = s.pending ∧ (State.claimWithdrawn s).now = s.now ∧ (State.claimWithdrawn s).station = s.station ∧ (State.claimWithdrawn s).boot = s.boot ∧ (State.claimWithdrawn s).jc = s.jc ∧ (State.claimWithdrawn s).store = s.store ∧ (State.claimWithdrawn s).du = s.du ∧ (State.claimWithdrawn s).ss = s.ss ∧ (State.claimWithdrawn s).vu = s.vu ∧ (State.claimWithdrawn s).lc.queue = s.lc.queue ∧ (State.claimWithdrawn s).lc.presence = s.lc.presence ∧ (State.claimWithdrawn s).lc.foreign = s.lc.foreign ∧ (State.claimWithdrawn s).lc.view = s.lc.view ∧ (State.claimWithdrawn s).lc.deaf = s.lc.deaf ∧ (State.claimWithdrawn s).cs.paused = s.cs.paused ∧ (State.claimWithdrawn s).dp.diskin = s.dp.diskin ∧ (State.claimWithdrawn s).dp.wprot = s.dp.wprot ∧ (State.claimWithdrawn s).dp.trk0 = s.dp.trk0 ∧ (State.claimWithdrawn s).pc.params = s.pc.params ∧ (State.claimWithdrawn s).pc.directory = s.pc.directory ∧ (State.claimWithdrawn s).pc.refusal = s.pc.refusal ∧ (State.claimWithdrawn s).pc.flash = s.pc.flash ∧ (State.claimWithdrawn s).pc.sequence = s.pc.sequence := by
  simp only [State.claimWithdrawn]
  repeat' split
  all_goals simp

@[simp] theorem State.claimRefill_kept (s : State) :
    (State.claimRefill s).pending = s.pending ∧ (State.claimRefill s).now = s.now ∧ (State.claimRefill s).station = s.station ∧ (State.claimRefill s).boot = s.boot ∧ (State.claimRefill s).jc = s.jc ∧ (State.claimRefill s).store = s.store ∧ (State.claimRefill s).du = s.du ∧ (State.claimRefill s).ss = s.ss ∧ (State.claimRefill s).vu = s.vu ∧ (State.claimRefill s).lc.presence = s.lc.presence ∧ (State.claimRefill s).lc.foreign = s.lc.foreign ∧ (State.claimRefill s).lc.view = s.lc.view ∧ (State.claimRefill s).lc.deaf = s.lc.deaf ∧ (State.claimRefill s).cs.paused = s.cs.paused ∧ (State.claimRefill s).dp.diskin = s.dp.diskin ∧ (State.claimRefill s).dp.wprot = s.dp.wprot ∧ (State.claimRefill s).dp.trk0 = s.dp.trk0 ∧ (State.claimRefill s).pc.params = s.pc.params ∧ (State.claimRefill s).pc.directory = s.pc.directory ∧ (State.claimRefill s).pc.refusal = s.pc.refusal ∧ (State.claimRefill s).pc.flash = s.pc.flash ∧ (State.claimRefill s).pc.sequence = s.pc.sequence := by
  simp only [State.claimRefill]
  repeat' split
  all_goals simp

@[simp] theorem State.claimAgain_kept (s : State) :
    (State.claimAgain s).pending = s.pending ∧ (State.claimAgain s).now = s.now ∧ (State.claimAgain s).station = s.station ∧ (State.claimAgain s).boot = s.boot ∧ (State.claimAgain s).jc = s.jc ∧ (State.claimAgain s).store = s.store ∧ (State.claimAgain s).du = s.du ∧ (State.claimAgain s).ss = s.ss ∧ (State.claimAgain s).vu = s.vu ∧ (State.claimAgain s).lc.presence = s.lc.presence ∧ (State.claimAgain s).lc.foreign = s.lc.foreign ∧ (State.claimAgain s).lc.view = s.lc.view ∧ (State.claimAgain s).lc.deaf = s.lc.deaf ∧ (State.claimAgain s).cs.paused = s.cs.paused ∧ (State.claimAgain s).dp.diskin = s.dp.diskin ∧ (State.claimAgain s).dp.wprot = s.dp.wprot ∧ (State.claimAgain s).dp.trk0 = s.dp.trk0 ∧ (State.claimAgain s).pc.params = s.pc.params ∧ (State.claimAgain s).pc.directory = s.pc.directory ∧ (State.claimAgain s).pc.refusal = s.pc.refusal ∧ (State.claimAgain s).pc.flash = s.pc.flash ∧ (State.claimAgain s).pc.sequence = s.pc.sequence := by
  simp only [State.claimAgain]
  repeat' split
  all_goals simp

@[simp] theorem State.copySeekEnd_kept (good : Bool) (s : State) :
    (State.copySeekEnd good s).pending = s.pending ∧ (State.copySeekEnd good s).now = s.now ∧ (State.copySeekEnd good s).station = s.station ∧ (State.copySeekEnd good s).boot = s.boot ∧ (State.copySeekEnd good s).ss = s.ss ∧ (State.copySeekEnd good s).lc.presence = s.lc.presence ∧ (State.copySeekEnd good s).lc.foreign = s.lc.foreign ∧ (State.copySeekEnd good s).lc.view = s.lc.view ∧ (State.copySeekEnd good s).lc.deaf = s.lc.deaf ∧ (State.copySeekEnd good s).jc.nextBase = s.jc.nextBase ∧ (State.copySeekEnd good s).jc.seq = s.jc.seq ∧ (State.copySeekEnd good s).store.mem = s.store.mem ∧ (State.copySeekEnd good s).store.fills = s.store.fills ∧ (State.copySeekEnd good s).store.allowance = s.store.allowance ∧ (State.copySeekEnd good s).cs.paused = s.cs.paused ∧ (State.copySeekEnd good s).dp.diskin = s.dp.diskin ∧ (State.copySeekEnd good s).dp.wprot = s.dp.wprot ∧ (State.copySeekEnd good s).dp.trk0 = s.dp.trk0 ∧ (State.copySeekEnd good s).pc.params = s.pc.params ∧ (State.copySeekEnd good s).pc.directory = s.pc.directory ∧ (State.copySeekEnd good s).pc.refusal = s.pc.refusal ∧ (State.copySeekEnd good s).pc.flash = s.pc.flash ∧ (State.copySeekEnd good s).pc.sequence = s.pc.sequence ∧ (State.copySeekEnd good s).jc.record.map (·.fixed) = s.jc.record.map (·.fixed) ∧ (State.copySeekEnd good s).jc.record.map (·.account) = s.jc.record.map (·.account) ∧ (State.copySeekEnd good s).jc.record.map (·.state) = s.jc.record.map (·.state) ∧ (State.copySeekEnd good s).jc.record.map (·.mark) = s.jc.record.map (·.mark) ∧ (State.copySeekEnd good s).jc.record.map (·.departed) = s.jc.record.map (·.departed) := by
  simp only [State.copySeekEnd]
  repeat' split
  all_goals simp

@[simp] theorem State.copySeekEnd_true_kept (s : State) :
    (s.copySeekEnd true).pending = s.pending ∧ (s.copySeekEnd true).now = s.now
    ∧ (s.copySeekEnd true).station = s.station ∧ (s.copySeekEnd true).boot = s.boot
    ∧ (s.copySeekEnd true).lc = s.lc ∧ (s.copySeekEnd true).jc = s.jc ∧ (s.copySeekEnd true).store = s.store
    ∧ (s.copySeekEnd true).du = s.du ∧ (s.copySeekEnd true).ss = s.ss ∧ (s.copySeekEnd true).tb = s.tb
    ∧ (s.copySeekEnd true).vu = s.vu ∧ (s.copySeekEnd true).pc = s.pc
    ∧ (s.copySeekEnd true).cs.state = s.cs.state ∧ (s.copySeekEnd true).cs.disk = s.cs.disk
    ∧ (s.copySeekEnd true).cs.paused = s.cs.paused ∧ (s.copySeekEnd true).cs.pulled = s.cs.pulled
    ∧ (s.copySeekEnd true).dp.diskin = s.dp.diskin ∧ (s.copySeekEnd true).dp.wprot = s.dp.wprot
    ∧ (s.copySeekEnd true).dp.trk0 = s.dp.trk0 ∧ (s.copySeekEnd true).dp.wgate = s.dp.wgate
    ∧ (s.copySeekEnd true).dp.motor = s.dp.motor ∧ (s.copySeekEnd true).dp.select = s.dp.select
    ∧ (s.copySeekEnd true).dp.spindle = s.dp.spindle ∧ (s.copySeekEnd true).dp.motion = s.dp.motion := by
  simp only [State.copySeekEnd, if_true]
  split <;> simp [State.openQualify]

/-- Entry to WRITE moves the head and sets the cycle; nothing else changes. -/
@[simp] theorem State.toWrite_kept (s : State) :
    s.toWrite.pending = s.pending ∧ s.toWrite.now = s.now ∧ s.toWrite.station = s.station
    ∧ s.toWrite.boot = s.boot ∧ s.toWrite.lc = s.lc ∧ s.toWrite.jc = s.jc ∧ s.toWrite.store = s.store
    ∧ s.toWrite.du = s.du ∧ s.toWrite.ss = s.ss ∧ s.toWrite.tb = s.tb ∧ s.toWrite.vu = s.vu
    ∧ s.toWrite.pc = s.pc ∧ s.toWrite.cs.disk = s.cs.disk ∧ s.toWrite.cs.paused = s.cs.paused
    ∧ s.toWrite.cs.pulled = s.cs.pulled ∧ s.toWrite.dp.diskin = s.dp.diskin ∧ s.toWrite.dp.wprot = s.dp.wprot
    ∧ s.toWrite.dp.trk0 = s.dp.trk0 ∧ s.toWrite.dp.wgate = s.dp.wgate ∧ s.toWrite.dp.motor = s.dp.motor
    ∧ s.toWrite.dp.select = s.dp.select ∧ s.toWrite.dp.spindle = s.dp.spindle := by
  simp only [State.toWrite]
  split
  · split <;> simp
  · simp

@[simp] theorem State.fetchTry_kept (s : State) :
    (State.fetchTry s).pending = s.pending ∧ (State.fetchTry s).now = s.now ∧ (State.fetchTry s).station = s.station ∧ (State.fetchTry s).boot = s.boot ∧ (State.fetchTry s).lc = s.lc ∧ (State.fetchTry s).jc = s.jc ∧ (State.fetchTry s).du = s.du ∧ (State.fetchTry s).ss = s.ss ∧ (State.fetchTry s).tb = s.tb ∧ (State.fetchTry s).vu = s.vu ∧ (State.fetchTry s).pc = s.pc ∧ (State.fetchTry s).store.mem = s.store.mem ∧ (State.fetchTry s).store.fills = s.store.fills ∧ (State.fetchTry s).store.allowance = s.store.allowance ∧ (State.fetchTry s).store.map = s.store.map ∧ (State.fetchTry s).cs.paused = s.cs.paused ∧ (State.fetchTry s).dp.diskin = s.dp.diskin ∧ (State.fetchTry s).dp.wprot = s.dp.wprot ∧ (State.fetchTry s).dp.trk0 = s.dp.trk0 ∧ (State.fetchTry s).dp.wgate = s.dp.wgate := by
  simp only [State.fetchTry]
  repeat' split
  all_goals simp

@[simp] theorem State.toFetch_kept (s : State) :
    (State.toFetch s).pending = s.pending ∧ (State.toFetch s).now = s.now ∧ (State.toFetch s).station = s.station ∧ (State.toFetch s).boot = s.boot ∧ (State.toFetch s).lc = s.lc ∧ (State.toFetch s).jc = s.jc ∧ (State.toFetch s).du = s.du ∧ (State.toFetch s).ss = s.ss ∧ (State.toFetch s).tb = s.tb ∧ (State.toFetch s).vu = s.vu ∧ (State.toFetch s).pc = s.pc ∧ (State.toFetch s).store.mem = s.store.mem ∧ (State.toFetch s).store.fills = s.store.fills ∧ (State.toFetch s).store.allowance = s.store.allowance ∧ (State.toFetch s).store.map = s.store.map ∧ (State.toFetch s).cs.paused = s.cs.paused ∧ (State.toFetch s).dp.diskin = s.dp.diskin ∧ (State.toFetch s).dp.wprot = s.dp.wprot ∧ (State.toFetch s).dp.trk0 = s.dp.trk0 ∧ (State.toFetch s).dp.wgate = s.dp.wgate := by
  simp [State.toFetch]

@[simp] theorem State.claimEntered_kept (v : Nat) (s : State) :
    (State.claimEntered v s).pending = s.pending ∧ (State.claimEntered v s).now = s.now ∧ (State.claimEntered v s).station = s.station ∧ (State.claimEntered v s).boot = s.boot ∧ (State.claimEntered v s).jc = s.jc ∧ (State.claimEntered v s).du = s.du ∧ (State.claimEntered v s).ss = s.ss ∧ (State.claimEntered v s).tb = s.tb ∧ (State.claimEntered v s).vu = s.vu ∧ (State.claimEntered v s).pc = s.pc ∧ (State.claimEntered v s).lc.presence = s.lc.presence ∧ (State.claimEntered v s).lc.counters = s.lc.counters ∧ (State.claimEntered v s).lc.foreign = s.lc.foreign ∧ (State.claimEntered v s).lc.view = s.lc.view ∧ (State.claimEntered v s).lc.deaf = s.lc.deaf ∧ (State.claimEntered v s).store.mem = s.store.mem ∧ (State.claimEntered v s).store.fills = s.store.fills ∧ (State.claimEntered v s).store.allowance = s.store.allowance ∧ (State.claimEntered v s).store.map = s.store.map ∧ (State.claimEntered v s).cs.paused = s.cs.paused ∧ (State.claimEntered v s).dp.diskin = s.dp.diskin ∧ (State.claimEntered v s).dp.wprot = s.dp.wprot ∧ (State.claimEntered v s).dp.trk0 = s.dp.trk0 ∧ (State.claimEntered v s).dp.wgate = s.dp.wgate := by
  simp only [State.claimEntered]
  repeat' split
  all_goals simp

@[simp] theorem State.serialLost_kept (s : State) :
    (State.serialLost s).pending = s.pending ∧ (State.serialLost s).now = s.now ∧ (State.serialLost s).station = s.station ∧ (State.serialLost s).boot = s.boot ∧ (State.serialLost s).ss = s.ss ∧ (State.serialLost s).lc.presence = s.lc.presence ∧ (State.serialLost s).lc.foreign = s.lc.foreign ∧ (State.serialLost s).lc.view = s.lc.view ∧ (State.serialLost s).lc.deaf = s.lc.deaf ∧ (State.serialLost s).jc.nextBase = s.jc.nextBase ∧ (State.serialLost s).jc.seq = s.jc.seq ∧ (State.serialLost s).store.mem = s.store.mem ∧ (State.serialLost s).store.fills = s.store.fills ∧ (State.serialLost s).store.allowance = s.store.allowance ∧ (State.serialLost s).cs.paused = s.cs.paused ∧ (State.serialLost s).dp.diskin = s.dp.diskin ∧ (State.serialLost s).dp.wprot = s.dp.wprot ∧ (State.serialLost s).dp.trk0 = s.dp.trk0 ∧ (State.serialLost s).pc.params = s.pc.params ∧ (State.serialLost s).pc.directory = s.pc.directory ∧ (State.serialLost s).pc.refusal = s.pc.refusal ∧ (State.serialLost s).pc.flash = s.pc.flash ∧ (State.serialLost s).pc.sequence = s.pc.sequence ∧ (State.serialLost s).jc.record.map (·.fixed) = s.jc.record.map (·.fixed) ∧ (State.serialLost s).jc.record.map (·.account) = s.jc.record.map (·.account) ∧ (State.serialLost s).jc.record.map (·.state) = s.jc.record.map (·.state) ∧ (State.serialLost s).jc.record.map (·.mark) = s.jc.record.map (·.mark) ∧ (State.serialLost s).jc.record.map (·.departed) = s.jc.record.map (·.departed) := by
  simp only [State.serialLost]
  repeat' split
  all_goals simp

@[simp] theorem State.unobtainable_kept (s : State) :
    (State.unobtainable s).pending = s.pending ∧ (State.unobtainable s).now = s.now ∧ (State.unobtainable s).station = s.station ∧ (State.unobtainable s).boot = s.boot ∧ (State.unobtainable s).ss = s.ss ∧ (State.unobtainable s).lc.presence = s.lc.presence ∧ (State.unobtainable s).lc.foreign = s.lc.foreign ∧ (State.unobtainable s).lc.view = s.lc.view ∧ (State.unobtainable s).lc.deaf = s.lc.deaf ∧ (State.unobtainable s).jc.nextBase = s.jc.nextBase ∧ (State.unobtainable s).jc.seq = s.jc.seq ∧ (State.unobtainable s).store.mem = s.store.mem ∧ (State.unobtainable s).store.fills = s.store.fills ∧ (State.unobtainable s).store.allowance = s.store.allowance ∧ (State.unobtainable s).cs.paused = s.cs.paused ∧ (State.unobtainable s).dp.diskin = s.dp.diskin ∧ (State.unobtainable s).dp.wprot = s.dp.wprot ∧ (State.unobtainable s).dp.trk0 = s.dp.trk0 ∧ (State.unobtainable s).pc.params = s.pc.params ∧ (State.unobtainable s).pc.directory = s.pc.directory ∧ (State.unobtainable s).pc.refusal = s.pc.refusal ∧ (State.unobtainable s).pc.flash = s.pc.flash ∧ (State.unobtainable s).pc.sequence = s.pc.sequence ∧ (State.unobtainable s).jc.record.map (·.fixed) = s.jc.record.map (·.fixed) ∧ (State.unobtainable s).jc.record.map (·.account) = s.jc.record.map (·.account) ∧ (State.unobtainable s).jc.record.map (·.state) = s.jc.record.map (·.state) ∧ (State.unobtainable s).jc.record.map (·.mark) = s.jc.record.map (·.mark) ∧ (State.unobtainable s).jc.record.map (·.departed) = s.jc.record.map (·.departed) := by
  simp only [State.unobtainable]
  repeat' split
  all_goals simp

/-- Recorded faults change the disk record alone. -/
@[simp] theorem State.faults_kept (faults : List DiskFault) (s : State) :
    (faults.foldl (fun s f => State.fault f s) s).pending = s.pending
    ∧ (faults.foldl (fun s f => State.fault f s) s).now = s.now
    ∧ (faults.foldl (fun s f => State.fault f s) s).station = s.station
    ∧ (faults.foldl (fun s f => State.fault f s) s).boot = s.boot
    ∧ (faults.foldl (fun s f => State.fault f s) s).lc = s.lc
    ∧ (faults.foldl (fun s f => State.fault f s) s).jc = s.jc
    ∧ (faults.foldl (fun s f => State.fault f s) s).store = s.store
    ∧ (faults.foldl (fun s f => State.fault f s) s).du = s.du
    ∧ (faults.foldl (fun s f => State.fault f s) s).ss = s.ss
    ∧ (faults.foldl (fun s f => State.fault f s) s).tb = s.tb
    ∧ (faults.foldl (fun s f => State.fault f s) s).vu = s.vu
    ∧ (faults.foldl (fun s f => State.fault f s) s).dp = s.dp
    ∧ (faults.foldl (fun s f => State.fault f s) s).pc = s.pc
    ∧ (faults.foldl (fun s f => State.fault f s) s).cs.state = s.cs.state
    ∧ (faults.foldl (fun s f => State.fault f s) s).cs.paused = s.cs.paused
    ∧ (faults.foldl (fun s f => State.fault f s) s).cs.phase = s.cs.phase := by
  induction faults generalizing s with
  | nil => simp
  | cons f l ih =>
    have hp : (s.fault f).cs.phase = s.cs.phase := rfl
    simp only [List.foldl_cons]
    simp [ih, hp]

@[simp] theorem State.failedAttempt_kept (l : List DiskFault) (s : State) :
    (s.failedAttempt l).pending = s.pending ∧ (s.failedAttempt l).now = s.now
    ∧ (s.failedAttempt l).station = s.station ∧ (s.failedAttempt l).boot = s.boot
    ∧ (s.failedAttempt l).ss = s.ss ∧ (s.failedAttempt l).lc.presence = s.lc.presence
    ∧ (s.failedAttempt l).lc.foreign = s.lc.foreign ∧ (s.failedAttempt l).lc.view = s.lc.view
    ∧ (s.failedAttempt l).lc.deaf = s.lc.deaf ∧ (s.failedAttempt l).jc.nextBase = s.jc.nextBase
    ∧ (s.failedAttempt l).jc.seq = s.jc.seq ∧ (s.failedAttempt l).store.mem = s.store.mem
    ∧ (s.failedAttempt l).store.fills = s.store.fills ∧ (s.failedAttempt l).store.allowance = s.store.allowance
    ∧ (s.failedAttempt l).cs.paused = s.cs.paused ∧ (s.failedAttempt l).dp.diskin = s.dp.diskin
    ∧ (s.failedAttempt l).dp.wprot = s.dp.wprot ∧ (s.failedAttempt l).dp.trk0 = s.dp.trk0
    ∧ (s.failedAttempt l).pc.params = s.pc.params ∧ (s.failedAttempt l).pc.directory = s.pc.directory
    ∧ (s.failedAttempt l).pc.refusal = s.pc.refusal ∧ (s.failedAttempt l).pc.flash = s.pc.flash
    ∧ (s.failedAttempt l).pc.sequence = s.pc.sequence
    ∧ (s.failedAttempt l).jc.record.map (·.fixed) = s.jc.record.map (·.fixed)
    ∧ (s.failedAttempt l).jc.record.map (·.account) = s.jc.record.map (·.account)
    ∧ (s.failedAttempt l).jc.record.map (·.state) = s.jc.record.map (·.state)
    ∧ (s.failedAttempt l).jc.record.map (·.mark) = s.jc.record.map (·.mark)
    ∧ (s.failedAttempt l).jc.record.map (·.departed) = s.jc.record.map (·.departed) := by
  simp only [State.failedAttempt]
  split
  · split <;> simp
  · split <;> simp

@[simp] theorem State.trackVerified_kept (s : State) :
    (State.trackVerified s).pending = s.pending ∧ (State.trackVerified s).now = s.now ∧ (State.trackVerified s).station = s.station ∧ (State.trackVerified s).boot = s.boot ∧ (State.trackVerified s).ss = s.ss ∧ (State.trackVerified s).lc.presence = s.lc.presence ∧ (State.trackVerified s).lc.foreign = s.lc.foreign ∧ (State.trackVerified s).lc.view = s.lc.view ∧ (State.trackVerified s).lc.deaf = s.lc.deaf ∧ (State.trackVerified s).jc.nextBase = s.jc.nextBase ∧ (State.trackVerified s).jc.seq = s.jc.seq ∧ (State.trackVerified s).store.mem = s.store.mem ∧ (State.trackVerified s).store.fills = s.store.fills ∧ (State.trackVerified s).store.allowance = s.store.allowance ∧ (State.trackVerified s).cs.paused = s.cs.paused ∧ (State.trackVerified s).dp.diskin = s.dp.diskin ∧ (State.trackVerified s).dp.wprot = s.dp.wprot ∧ (State.trackVerified s).dp.trk0 = s.dp.trk0 ∧ (State.trackVerified s).pc.params = s.pc.params ∧ (State.trackVerified s).pc.directory = s.pc.directory ∧ (State.trackVerified s).pc.refusal = s.pc.refusal ∧ (State.trackVerified s).pc.flash = s.pc.flash ∧ (State.trackVerified s).pc.sequence = s.pc.sequence ∧ (State.trackVerified s).jc.record.map (·.fixed) = s.jc.record.map (·.fixed) ∧ (State.trackVerified s).jc.record.map (·.account) = s.jc.record.map (·.account) ∧ (State.trackVerified s).jc.record.map (·.state) = s.jc.record.map (·.state) ∧ (State.trackVerified s).jc.record.map (·.mark) = s.jc.record.map (·.mark) ∧ (State.trackVerified s).jc.record.map (·.departed) = s.jc.record.map (·.departed) := by
  simp only [State.trackVerified]
  repeat' split
  all_goals simp

@[simp] theorem State.toVerify_kept (s : State) :
    (State.toVerify s).pending = s.pending ∧ (State.toVerify s).now = s.now ∧ (State.toVerify s).station = s.station ∧ (State.toVerify s).boot = s.boot ∧ (State.toVerify s).lc = s.lc ∧ (State.toVerify s).jc = s.jc ∧ (State.toVerify s).store = s.store ∧ (State.toVerify s).du = s.du ∧ (State.toVerify s).ss = s.ss ∧ (State.toVerify s).tb = s.tb ∧ (State.toVerify s).pc = s.pc ∧ (State.toVerify s).cs.paused = s.cs.paused ∧ (State.toVerify s).dp.diskin = s.dp.diskin ∧ (State.toVerify s).dp.wprot = s.dp.wprot ∧ (State.toVerify s).dp.trk0 = s.dp.trk0 ∧ (State.toVerify s).dp.wgate = s.dp.wgate := by
  simp only [State.toVerify]
  repeat' split
  all_goals simp

@[simp] theorem State.writeGood_kept (s : State) :
    (State.writeGood s).pending = s.pending ∧ (State.writeGood s).now = s.now ∧ (State.writeGood s).station = s.station ∧ (State.writeGood s).boot = s.boot ∧ (State.writeGood s).ss = s.ss ∧ (State.writeGood s).lc.presence = s.lc.presence ∧ (State.writeGood s).lc.foreign = s.lc.foreign ∧ (State.writeGood s).lc.view = s.lc.view ∧ (State.writeGood s).lc.deaf = s.lc.deaf ∧ (State.writeGood s).jc.nextBase = s.jc.nextBase ∧ (State.writeGood s).jc.seq = s.jc.seq ∧ (State.writeGood s).store.mem = s.store.mem ∧ (State.writeGood s).store.fills = s.store.fills ∧ (State.writeGood s).store.allowance = s.store.allowance ∧ (State.writeGood s).cs.paused = s.cs.paused ∧ (State.writeGood s).dp.diskin = s.dp.diskin ∧ (State.writeGood s).dp.wprot = s.dp.wprot ∧ (State.writeGood s).dp.trk0 = s.dp.trk0 ∧ (State.writeGood s).pc.params = s.pc.params ∧ (State.writeGood s).pc.directory = s.pc.directory ∧ (State.writeGood s).pc.refusal = s.pc.refusal ∧ (State.writeGood s).pc.flash = s.pc.flash ∧ (State.writeGood s).pc.sequence = s.pc.sequence ∧ (State.writeGood s).jc.record.map (·.fixed) = s.jc.record.map (·.fixed) ∧ (State.writeGood s).jc.record.map (·.account) = s.jc.record.map (·.account) ∧ (State.writeGood s).jc.record.map (·.state) = s.jc.record.map (·.state) ∧ (State.writeGood s).jc.record.map (·.mark) = s.jc.record.map (·.mark) ∧ (State.writeGood s).jc.record.map (·.departed) = s.jc.record.map (·.departed) := by
  simp only [State.writeGood]
  repeat' split
  all_goals simp

@[simp] theorem State.applyCheck_kept (r : Recipe) (u : Upset) (s : State) :
    (State.applyCheck r u s).1.pending = s.pending ∧ (State.applyCheck r u s).1.now = s.now ∧ (State.applyCheck r u s).1.station = s.station ∧ (State.applyCheck r u s).1.boot = s.boot ∧ (State.applyCheck r u s).1.du = s.du ∧ (State.applyCheck r u s).1.cs = s.cs ∧ (State.applyCheck r u s).1.ss = s.ss ∧ (State.applyCheck r u s).1.tb = s.tb ∧ (State.applyCheck r u s).1.vu = s.vu ∧ (State.applyCheck r u s).1.dp = s.dp ∧ (State.applyCheck r u s).1.pc = s.pc ∧ (State.applyCheck r u s).1.lc.queue = s.lc.queue ∧ (State.applyCheck r u s).1.lc.presence = s.lc.presence ∧ (State.applyCheck r u s).1.lc.foreign = s.lc.foreign ∧ (State.applyCheck r u s).1.lc.view = s.lc.view ∧ (State.applyCheck r u s).1.lc.deaf = s.lc.deaf ∧ (State.applyCheck r u s).1.jc.nextBase = s.jc.nextBase ∧ (State.applyCheck r u s).1.jc.seq = s.jc.seq ∧ (State.applyCheck r u s).1.store.fills = s.store.fills ∧ (State.applyCheck r u s).1.store.allowance = s.store.allowance ∧ (State.applyCheck r u s).1.jc.record.map (·.fixed) = s.jc.record.map (·.fixed) ∧ (State.applyCheck r u s).1.jc.record.map (·.account) = s.jc.record.map (·.account) ∧ (State.applyCheck r u s).1.jc.record.map (·.state) = s.jc.record.map (·.state) ∧ (State.applyCheck r u s).1.jc.record.map (·.mark) = s.jc.record.map (·.mark) ∧ (State.applyCheck r u s).1.jc.record.map (·.departed) = s.jc.record.map (·.departed) := by
  simp only [State.applyCheck]
  repeat' split
  all_goals simp

@[simp] theorem State.verifyEnd_kept (u : Upset) (s : State) :
    (State.verifyEnd u s).pending = s.pending ∧ (State.verifyEnd u s).now = s.now ∧ (State.verifyEnd u s).station = s.station ∧ (State.verifyEnd u s).boot = s.boot ∧ (State.verifyEnd u s).ss = s.ss ∧ (State.verifyEnd u s).lc.presence = s.lc.presence ∧ (State.verifyEnd u s).lc.foreign = s.lc.foreign ∧ (State.verifyEnd u s).lc.view = s.lc.view ∧ (State.verifyEnd u s).lc.deaf = s.lc.deaf ∧ (State.verifyEnd u s).jc.nextBase = s.jc.nextBase ∧ (State.verifyEnd u s).jc.seq = s.jc.seq ∧ (State.verifyEnd u s).store.fills = s.store.fills ∧ (State.verifyEnd u s).store.allowance = s.store.allowance ∧ (State.verifyEnd u s).cs.paused = s.cs.paused ∧ (State.verifyEnd u s).dp.diskin = s.dp.diskin ∧ (State.verifyEnd u s).dp.wprot = s.dp.wprot ∧ (State.verifyEnd u s).dp.trk0 = s.dp.trk0 ∧ (State.verifyEnd u s).pc.params = s.pc.params ∧ (State.verifyEnd u s).pc.directory = s.pc.directory ∧ (State.verifyEnd u s).pc.refusal = s.pc.refusal ∧ (State.verifyEnd u s).pc.flash = s.pc.flash ∧ (State.verifyEnd u s).pc.sequence = s.pc.sequence ∧ (State.verifyEnd u s).jc.record.map (·.fixed) = s.jc.record.map (·.fixed) ∧ (State.verifyEnd u s).jc.record.map (·.account) = s.jc.record.map (·.account) ∧ (State.verifyEnd u s).jc.record.map (·.state) = s.jc.record.map (·.state) ∧ (State.verifyEnd u s).jc.record.map (·.mark) = s.jc.record.map (·.mark) ∧ (State.verifyEnd u s).jc.record.map (·.departed) = s.jc.record.map (·.departed) := by
  simp only [State.verifyEnd]
  repeat' split
  all_goals simp

@[simp] theorem State.copyHomeEnd_kept (good : Bool) (s : State) :
    (State.copyHomeEnd good s).pending = s.pending ∧ (State.copyHomeEnd good s).now = s.now ∧ (State.copyHomeEnd good s).station = s.station ∧ (State.copyHomeEnd good s).boot = s.boot ∧ (State.copyHomeEnd good s).ss = s.ss ∧ (State.copyHomeEnd good s).lc.presence = s.lc.presence ∧ (State.copyHomeEnd good s).lc.foreign = s.lc.foreign ∧ (State.copyHomeEnd good s).lc.view = s.lc.view ∧ (State.copyHomeEnd good s).lc.deaf = s.lc.deaf ∧ (State.copyHomeEnd good s).jc.nextBase = s.jc.nextBase ∧ (State.copyHomeEnd good s).jc.seq = s.jc.seq ∧ (State.copyHomeEnd good s).store.mem = s.store.mem ∧ (State.copyHomeEnd good s).store.fills = s.store.fills ∧ (State.copyHomeEnd good s).store.allowance = s.store.allowance ∧ (State.copyHomeEnd good s).cs.paused = s.cs.paused ∧ (State.copyHomeEnd good s).dp.diskin = s.dp.diskin ∧ (State.copyHomeEnd good s).dp.wprot = s.dp.wprot ∧ (State.copyHomeEnd good s).dp.trk0 = s.dp.trk0 ∧ (State.copyHomeEnd good s).pc.params = s.pc.params ∧ (State.copyHomeEnd good s).pc.directory = s.pc.directory ∧ (State.copyHomeEnd good s).pc.refusal = s.pc.refusal ∧ (State.copyHomeEnd good s).pc.flash = s.pc.flash ∧ (State.copyHomeEnd good s).pc.sequence = s.pc.sequence ∧ (State.copyHomeEnd good s).jc.record.map (·.fixed) = s.jc.record.map (·.fixed) ∧ (State.copyHomeEnd good s).jc.record.map (·.account) = s.jc.record.map (·.account) ∧ (State.copyHomeEnd good s).jc.record.map (·.state) = s.jc.record.map (·.state) ∧ (State.copyHomeEnd good s).jc.record.map (·.mark) = s.jc.record.map (·.mark) ∧ (State.copyHomeEnd good s).jc.record.map (·.departed) = s.jc.record.map (·.departed) := by
  simp only [State.copyHomeEnd]
  repeat' split
  all_goals simp

@[simp] theorem State.copyQualified_kept (s : State) :
    (State.copyQualified s).pending = s.pending ∧ (State.copyQualified s).now = s.now ∧ (State.copyQualified s).station = s.station ∧ (State.copyQualified s).boot = s.boot ∧ (State.copyQualified s).ss = s.ss ∧ (State.copyQualified s).lc.presence = s.lc.presence ∧ (State.copyQualified s).lc.foreign = s.lc.foreign ∧ (State.copyQualified s).lc.view = s.lc.view ∧ (State.copyQualified s).lc.deaf = s.lc.deaf ∧ (State.copyQualified s).jc.nextBase = s.jc.nextBase ∧ (State.copyQualified s).jc.seq = s.jc.seq ∧ (State.copyQualified s).store.mem = s.store.mem ∧ (State.copyQualified s).store.fills = s.store.fills ∧ (State.copyQualified s).store.allowance = s.store.allowance ∧ (State.copyQualified s).cs.paused = s.cs.paused ∧ (State.copyQualified s).dp.diskin = s.dp.diskin ∧ (State.copyQualified s).dp.wprot = s.dp.wprot ∧ (State.copyQualified s).dp.trk0 = s.dp.trk0 ∧ (State.copyQualified s).pc.params = s.pc.params ∧ (State.copyQualified s).pc.directory = s.pc.directory ∧ (State.copyQualified s).pc.refusal = s.pc.refusal ∧ (State.copyQualified s).pc.flash = s.pc.flash ∧ (State.copyQualified s).pc.sequence = s.pc.sequence ∧ (State.copyQualified s).jc.record.map (·.fixed) = s.jc.record.map (·.fixed) ∧ (State.copyQualified s).jc.record.map (·.account) = s.jc.record.map (·.account) ∧ (State.copyQualified s).jc.record.map (·.state) = s.jc.record.map (·.state) ∧ (State.copyQualified s).jc.record.map (·.mark) = s.jc.record.map (·.mark) ∧ (State.copyQualified s).jc.record.map (·.departed) = s.jc.record.map (·.departed) := by
  simp only [State.copyQualified]
  repeat' split
  all_goals simp

@[simp] theorem State.copyNotQualified_kept (seen : Bool) (s : State) :
    (State.copyNotQualified seen s).pending = s.pending ∧ (State.copyNotQualified seen s).now = s.now ∧ (State.copyNotQualified seen s).station = s.station ∧ (State.copyNotQualified seen s).boot = s.boot ∧ (State.copyNotQualified seen s).ss = s.ss ∧ (State.copyNotQualified seen s).lc.presence = s.lc.presence ∧ (State.copyNotQualified seen s).lc.foreign = s.lc.foreign ∧ (State.copyNotQualified seen s).lc.view = s.lc.view ∧ (State.copyNotQualified seen s).lc.deaf = s.lc.deaf ∧ (State.copyNotQualified seen s).jc.nextBase = s.jc.nextBase ∧ (State.copyNotQualified seen s).jc.seq = s.jc.seq ∧ (State.copyNotQualified seen s).store.mem = s.store.mem ∧ (State.copyNotQualified seen s).store.fills = s.store.fills ∧ (State.copyNotQualified seen s).store.allowance = s.store.allowance ∧ (State.copyNotQualified seen s).cs.paused = s.cs.paused ∧ (State.copyNotQualified seen s).dp.diskin = s.dp.diskin ∧ (State.copyNotQualified seen s).dp.wprot = s.dp.wprot ∧ (State.copyNotQualified seen s).dp.trk0 = s.dp.trk0 ∧ (State.copyNotQualified seen s).pc.params = s.pc.params ∧ (State.copyNotQualified seen s).pc.directory = s.pc.directory ∧ (State.copyNotQualified seen s).pc.refusal = s.pc.refusal ∧ (State.copyNotQualified seen s).pc.flash = s.pc.flash ∧ (State.copyNotQualified seen s).pc.sequence = s.pc.sequence ∧ (State.copyNotQualified seen s).jc.record.map (·.fixed) = s.jc.record.map (·.fixed) ∧ (State.copyNotQualified seen s).jc.record.map (·.account) = s.jc.record.map (·.account) ∧ (State.copyNotQualified seen s).jc.record.map (·.state) = s.jc.record.map (·.state) ∧ (State.copyNotQualified seen s).jc.record.map (·.mark) = s.jc.record.map (·.mark) ∧ (State.copyNotQualified seen s).jc.record.map (·.departed) = s.jc.record.map (·.departed) := by
  simp only [State.copyNotQualified]
  repeat' split
  all_goals simp

@[simp] theorem State.copyNoIndex_kept (s : State) :
    (State.copyNoIndex s).pending = s.pending ∧ (State.copyNoIndex s).now = s.now ∧ (State.copyNoIndex s).station = s.station ∧ (State.copyNoIndex s).boot = s.boot ∧ (State.copyNoIndex s).ss = s.ss ∧ (State.copyNoIndex s).lc.presence = s.lc.presence ∧ (State.copyNoIndex s).lc.foreign = s.lc.foreign ∧ (State.copyNoIndex s).lc.view = s.lc.view ∧ (State.copyNoIndex s).lc.deaf = s.lc.deaf ∧ (State.copyNoIndex s).jc.nextBase = s.jc.nextBase ∧ (State.copyNoIndex s).jc.seq = s.jc.seq ∧ (State.copyNoIndex s).store.mem = s.store.mem ∧ (State.copyNoIndex s).store.fills = s.store.fills ∧ (State.copyNoIndex s).store.allowance = s.store.allowance ∧ (State.copyNoIndex s).cs.paused = s.cs.paused ∧ (State.copyNoIndex s).dp.diskin = s.dp.diskin ∧ (State.copyNoIndex s).dp.wprot = s.dp.wprot ∧ (State.copyNoIndex s).dp.trk0 = s.dp.trk0 ∧ (State.copyNoIndex s).pc.params = s.pc.params ∧ (State.copyNoIndex s).pc.directory = s.pc.directory ∧ (State.copyNoIndex s).pc.refusal = s.pc.refusal ∧ (State.copyNoIndex s).pc.flash = s.pc.flash ∧ (State.copyNoIndex s).pc.sequence = s.pc.sequence ∧ (State.copyNoIndex s).jc.record.map (·.fixed) = s.jc.record.map (·.fixed) ∧ (State.copyNoIndex s).jc.record.map (·.account) = s.jc.record.map (·.account) ∧ (State.copyNoIndex s).jc.record.map (·.state) = s.jc.record.map (·.state) ∧ (State.copyNoIndex s).jc.record.map (·.mark) = s.jc.record.map (·.mark) ∧ (State.copyNoIndex s).jc.record.map (·.departed) = s.jc.record.map (·.departed) := by
  simp only [State.copyNoIndex]
  repeat' split
  all_goals simp

@[simp] theorem State.pullDisk_kept (s : State) :
    (State.pullDisk s).pending = s.pending ∧ (State.pullDisk s).now = s.now ∧ (State.pullDisk s).station = s.station ∧ (State.pullDisk s).boot = s.boot ∧ (State.pullDisk s).ss = s.ss ∧ (State.pullDisk s).lc.presence = s.lc.presence ∧ (State.pullDisk s).lc.foreign = s.lc.foreign ∧ (State.pullDisk s).lc.view = s.lc.view ∧ (State.pullDisk s).lc.deaf = s.lc.deaf ∧ (State.pullDisk s).jc.nextBase = s.jc.nextBase ∧ (State.pullDisk s).jc.seq = s.jc.seq ∧ (State.pullDisk s).store.mem = s.store.mem ∧ (State.pullDisk s).store.fills = s.store.fills ∧ (State.pullDisk s).store.allowance = s.store.allowance ∧ (State.pullDisk s).cs.paused = s.cs.paused ∧ (State.pullDisk s).dp.diskin = s.dp.diskin ∧ (State.pullDisk s).dp.wprot = s.dp.wprot ∧ (State.pullDisk s).dp.trk0 = s.dp.trk0 ∧ (State.pullDisk s).pc.params = s.pc.params ∧ (State.pullDisk s).pc.directory = s.pc.directory ∧ (State.pullDisk s).pc.refusal = s.pc.refusal ∧ (State.pullDisk s).pc.flash = s.pc.flash ∧ (State.pullDisk s).pc.sequence = s.pc.sequence ∧ (State.pullDisk s).jc.record.map (·.fixed) = s.jc.record.map (·.fixed) ∧ (State.pullDisk s).jc.record.map (·.account) = s.jc.record.map (·.account) ∧ (State.pullDisk s).jc.record.map (·.state) = s.jc.record.map (·.state) ∧ (State.pullDisk s).jc.record.map (·.mark) = s.jc.record.map (·.mark) ∧ (State.pullDisk s).jc.record.map (·.departed) = s.jc.record.map (·.departed) := by
  simp only [State.pullDisk]
  repeat' split
  all_goals simp

@[simp] theorem State.abandonDisk_kept (cause : EndCause) (s : State) :
    (State.abandonDisk cause s).pending = s.pending ∧ (State.abandonDisk cause s).now = s.now ∧ (State.abandonDisk cause s).station = s.station ∧ (State.abandonDisk cause s).boot = s.boot ∧ (State.abandonDisk cause s).ss = s.ss ∧ (State.abandonDisk cause s).lc.presence = s.lc.presence ∧ (State.abandonDisk cause s).lc.foreign = s.lc.foreign ∧ (State.abandonDisk cause s).lc.view = s.lc.view ∧ (State.abandonDisk cause s).lc.deaf = s.lc.deaf ∧ (State.abandonDisk cause s).jc.nextBase = s.jc.nextBase ∧ (State.abandonDisk cause s).jc.seq = s.jc.seq ∧ (State.abandonDisk cause s).store.mem = s.store.mem ∧ (State.abandonDisk cause s).store.fills = s.store.fills ∧ (State.abandonDisk cause s).store.allowance = s.store.allowance ∧ (State.abandonDisk cause s).cs.paused = s.cs.paused ∧ (State.abandonDisk cause s).dp.diskin = s.dp.diskin ∧ (State.abandonDisk cause s).dp.wprot = s.dp.wprot ∧ (State.abandonDisk cause s).dp.trk0 = s.dp.trk0 ∧ (State.abandonDisk cause s).pc.params = s.pc.params ∧ (State.abandonDisk cause s).pc.directory = s.pc.directory ∧ (State.abandonDisk cause s).pc.refusal = s.pc.refusal ∧ (State.abandonDisk cause s).pc.flash = s.pc.flash ∧ (State.abandonDisk cause s).pc.sequence = s.pc.sequence ∧ (State.abandonDisk cause s).jc.record.map (·.fixed) = s.jc.record.map (·.fixed) ∧ (State.abandonDisk cause s).jc.record.map (·.account) = s.jc.record.map (·.account) ∧ (State.abandonDisk cause s).jc.record.map (·.state) = s.jc.record.map (·.state) ∧ (State.abandonDisk cause s).jc.record.map (·.mark) = s.jc.record.map (·.mark) ∧ (State.abandonDisk cause s).jc.record.map (·.departed) = s.jc.record.map (·.departed) := by
  simp [State.abandonDisk]

@[simp] theorem State.copyJobEnd_kept (cause : EndCause) (s : State) :
    (State.copyJobEnd cause s).pending = s.pending ∧ (State.copyJobEnd cause s).now = s.now ∧ (State.copyJobEnd cause s).station = s.station ∧ (State.copyJobEnd cause s).boot = s.boot ∧ (State.copyJobEnd cause s).ss = s.ss ∧ (State.copyJobEnd cause s).lc.presence = s.lc.presence ∧ (State.copyJobEnd cause s).lc.foreign = s.lc.foreign ∧ (State.copyJobEnd cause s).lc.view = s.lc.view ∧ (State.copyJobEnd cause s).lc.deaf = s.lc.deaf ∧ (State.copyJobEnd cause s).jc.nextBase = s.jc.nextBase ∧ (State.copyJobEnd cause s).jc.seq = s.jc.seq ∧ (State.copyJobEnd cause s).store.mem = s.store.mem ∧ (State.copyJobEnd cause s).store.fills = s.store.fills ∧ (State.copyJobEnd cause s).store.allowance = s.store.allowance ∧ (State.copyJobEnd cause s).dp.diskin = s.dp.diskin ∧ (State.copyJobEnd cause s).dp.wprot = s.dp.wprot ∧ (State.copyJobEnd cause s).dp.trk0 = s.dp.trk0 ∧ (State.copyJobEnd cause s).pc.params = s.pc.params ∧ (State.copyJobEnd cause s).pc.directory = s.pc.directory ∧ (State.copyJobEnd cause s).pc.refusal = s.pc.refusal ∧ (State.copyJobEnd cause s).pc.flash = s.pc.flash ∧ (State.copyJobEnd cause s).pc.sequence = s.pc.sequence ∧ (State.copyJobEnd cause s).jc.record.map (·.fixed) = s.jc.record.map (·.fixed) ∧ (State.copyJobEnd cause s).jc.record.map (·.account) = s.jc.record.map (·.account) ∧ (State.copyJobEnd cause s).jc.record.map (·.state) = s.jc.record.map (·.state) ∧ (State.copyJobEnd cause s).jc.record.map (·.mark) = s.jc.record.map (·.mark) ∧ (State.copyJobEnd cause s).jc.record.map (·.departed) = s.jc.record.map (·.departed) := by
  simp only [State.copyJobEnd]
  repeat' split
  all_goals simp

@[simp] theorem State.tallyDone_kept (o : DiskOutcome) (s : State) :
    (State.tallyDone o s).pending = s.pending ∧ (State.tallyDone o s).now = s.now ∧ (State.tallyDone o s).station = s.station ∧ (State.tallyDone o s).boot = s.boot ∧ (State.tallyDone o s).jc = s.jc ∧ (State.tallyDone o s).store = s.store ∧ (State.tallyDone o s).du = s.du ∧ (State.tallyDone o s).ss = s.ss ∧ (State.tallyDone o s).tb = s.tb ∧ (State.tallyDone o s).vu = s.vu ∧ (State.tallyDone o s).lc.queue = s.lc.queue ∧ (State.tallyDone o s).lc.presence = s.lc.presence ∧ (State.tallyDone o s).lc.foreign = s.lc.foreign ∧ (State.tallyDone o s).lc.view = s.lc.view ∧ (State.tallyDone o s).lc.deaf = s.lc.deaf ∧ (State.tallyDone o s).cs.paused = s.cs.paused ∧ (State.tallyDone o s).dp.diskin = s.dp.diskin ∧ (State.tallyDone o s).dp.wprot = s.dp.wprot ∧ (State.tallyDone o s).dp.trk0 = s.dp.trk0 ∧ (State.tallyDone o s).dp.wgate = s.dp.wgate ∧ (State.tallyDone o s).pc.params = s.pc.params ∧ (State.tallyDone o s).pc.directory = s.pc.directory ∧ (State.tallyDone o s).pc.refusal = s.pc.refusal ∧ (State.tallyDone o s).pc.flash = s.pc.flash ∧ (State.tallyDone o s).pc.sequence = s.pc.sequence := by
  simp only [State.tallyDone]
  repeat' split
  all_goals simp

@[simp] theorem State.settleByDiskin_kept (s : State) :
    (State.settleByDiskin s).pending = s.pending ∧ (State.settleByDiskin s).now = s.now ∧ (State.settleByDiskin s).station = s.station ∧ (State.settleByDiskin s).boot = s.boot ∧ (State.settleByDiskin s).jc = s.jc ∧ (State.settleByDiskin s).store = s.store ∧ (State.settleByDiskin s).du = s.du ∧ (State.settleByDiskin s).ss = s.ss ∧ (State.settleByDiskin s).tb = s.tb ∧ (State.settleByDiskin s).vu = s.vu ∧ (State.settleByDiskin s).lc.queue = s.lc.queue ∧ (State.settleByDiskin s).lc.presence = s.lc.presence ∧ (State.settleByDiskin s).lc.foreign = s.lc.foreign ∧ (State.settleByDiskin s).lc.view = s.lc.view ∧ (State.settleByDiskin s).lc.deaf = s.lc.deaf ∧ (State.settleByDiskin s).cs.paused = s.cs.paused ∧ (State.settleByDiskin s).dp.diskin = s.dp.diskin ∧ (State.settleByDiskin s).dp.wprot = s.dp.wprot ∧ (State.settleByDiskin s).dp.trk0 = s.dp.trk0 ∧ (State.settleByDiskin s).dp.wgate = s.dp.wgate ∧ (State.settleByDiskin s).pc.params = s.pc.params ∧ (State.settleByDiskin s).pc.directory = s.pc.directory ∧ (State.settleByDiskin s).pc.refusal = s.pc.refusal ∧ (State.settleByDiskin s).pc.flash = s.pc.flash ∧ (State.settleByDiskin s).pc.sequence = s.pc.sequence := by
  simp only [State.settleByDiskin]
  repeat' split
  all_goals simp

@[simp] theorem State.removeWant_kept (t : Nat) (s : State) :
    (State.removeWant t s).pending = s.pending ∧ (State.removeWant t s).now = s.now ∧ (State.removeWant t s).station = s.station ∧ (State.removeWant t s).boot = s.boot ∧ (State.removeWant t s).jc = s.jc ∧ (State.removeWant t s).store = s.store ∧ (State.removeWant t s).cs = s.cs ∧ (State.removeWant t s).ss = s.ss ∧ (State.removeWant t s).tb = s.tb ∧ (State.removeWant t s).vu = s.vu ∧ (State.removeWant t s).dp = s.dp ∧ (State.removeWant t s).pc = s.pc ∧ (State.removeWant t s).lc.presence = s.lc.presence ∧ (State.removeWant t s).lc.counters = s.lc.counters ∧ (State.removeWant t s).lc.foreign = s.lc.foreign ∧ (State.removeWant t s).lc.view = s.lc.view ∧ (State.removeWant t s).lc.deaf = s.lc.deaf := by
  simp only [State.removeWant]
  repeat' split
  all_goals simp

@[simp] theorem State.resendWant_kept (w : Want) (jobId : JobId) (s : State) :
    (State.resendWant w jobId s).pending = s.pending ∧ (State.resendWant w jobId s).now = s.now ∧ (State.resendWant w jobId s).station = s.station ∧ (State.resendWant w jobId s).boot = s.boot ∧ (State.resendWant w jobId s).jc = s.jc ∧ (State.resendWant w jobId s).store = s.store ∧ (State.resendWant w jobId s).cs = s.cs ∧ (State.resendWant w jobId s).ss = s.ss ∧ (State.resendWant w jobId s).tb = s.tb ∧ (State.resendWant w jobId s).vu = s.vu ∧ (State.resendWant w jobId s).dp = s.dp ∧ (State.resendWant w jobId s).pc = s.pc ∧ (State.resendWant w jobId s).lc.presence = s.lc.presence ∧ (State.resendWant w jobId s).lc.counters = s.lc.counters ∧ (State.resendWant w jobId s).lc.foreign = s.lc.foreign ∧ (State.resendWant w jobId s).lc.view = s.lc.view ∧ (State.resendWant w jobId s).lc.deaf = s.lc.deaf := by
  simp [State.resendWant]

@[simp] theorem State.addNeed_kept (t : Nat) (jobId : JobId) (s : State) :
    (State.addNeed t jobId s).pending = s.pending ∧ (State.addNeed t jobId s).now = s.now ∧ (State.addNeed t jobId s).station = s.station ∧ (State.addNeed t jobId s).boot = s.boot ∧ (State.addNeed t jobId s).jc = s.jc ∧ (State.addNeed t jobId s).store = s.store ∧ (State.addNeed t jobId s).cs = s.cs ∧ (State.addNeed t jobId s).ss = s.ss ∧ (State.addNeed t jobId s).tb = s.tb ∧ (State.addNeed t jobId s).vu = s.vu ∧ (State.addNeed t jobId s).dp = s.dp ∧ (State.addNeed t jobId s).pc = s.pc ∧ (State.addNeed t jobId s).lc.presence = s.lc.presence ∧ (State.addNeed t jobId s).lc.counters = s.lc.counters ∧ (State.addNeed t jobId s).lc.foreign = s.lc.foreign ∧ (State.addNeed t jobId s).lc.view = s.lc.view ∧ (State.addNeed t jobId s).lc.deaf = s.lc.deaf := by
  simp [State.addNeed]

@[simp] theorem State.addRepair_kept (t : Nat) (jobId : JobId) (s : State) :
    (State.addRepair t jobId s).pending = s.pending ∧ (State.addRepair t jobId s).now = s.now ∧ (State.addRepair t jobId s).station = s.station ∧ (State.addRepair t jobId s).boot = s.boot ∧ (State.addRepair t jobId s).jc = s.jc ∧ (State.addRepair t jobId s).store = s.store ∧ (State.addRepair t jobId s).cs = s.cs ∧ (State.addRepair t jobId s).ss = s.ss ∧ (State.addRepair t jobId s).tb = s.tb ∧ (State.addRepair t jobId s).vu = s.vu ∧ (State.addRepair t jobId s).dp = s.dp ∧ (State.addRepair t jobId s).pc = s.pc ∧ (State.addRepair t jobId s).lc.presence = s.lc.presence ∧ (State.addRepair t jobId s).lc.counters = s.lc.counters ∧ (State.addRepair t jobId s).lc.foreign = s.lc.foreign ∧ (State.addRepair t jobId s).lc.view = s.lc.view ∧ (State.addRepair t jobId s).lc.deaf = s.lc.deaf := by
  simp [State.addRepair]

@[simp] theorem State.needTestOf_kept (u : Nat) (s : State) :
    (State.needTestOf u s).pending = s.pending ∧ (State.needTestOf u s).now = s.now ∧ (State.needTestOf u s).station = s.station ∧ (State.needTestOf u s).boot = s.boot ∧ (State.needTestOf u s).ss = s.ss ∧ (State.needTestOf u s).lc.presence = s.lc.presence ∧ (State.needTestOf u s).lc.foreign = s.lc.foreign ∧ (State.needTestOf u s).lc.view = s.lc.view ∧ (State.needTestOf u s).lc.deaf = s.lc.deaf ∧ (State.needTestOf u s).jc.nextBase = s.jc.nextBase ∧ (State.needTestOf u s).jc.seq = s.jc.seq ∧ (State.needTestOf u s).store.mem = s.store.mem ∧ (State.needTestOf u s).store.fills = s.store.fills ∧ (State.needTestOf u s).store.allowance = s.store.allowance ∧ (State.needTestOf u s).cs.paused = s.cs.paused ∧ (State.needTestOf u s).dp.diskin = s.dp.diskin ∧ (State.needTestOf u s).dp.wprot = s.dp.wprot ∧ (State.needTestOf u s).dp.trk0 = s.dp.trk0 ∧ (State.needTestOf u s).pc.params = s.pc.params ∧ (State.needTestOf u s).pc.directory = s.pc.directory ∧ (State.needTestOf u s).pc.refusal = s.pc.refusal ∧ (State.needTestOf u s).pc.flash = s.pc.flash ∧ (State.needTestOf u s).pc.sequence = s.pc.sequence ∧ (State.needTestOf u s).jc.record.map (·.fixed) = s.jc.record.map (·.fixed) ∧ (State.needTestOf u s).jc.record.map (·.account) = s.jc.record.map (·.account) ∧ (State.needTestOf u s).jc.record.map (·.state) = s.jc.record.map (·.state) ∧ (State.needTestOf u s).jc.record.map (·.mark) = s.jc.record.map (·.mark) ∧ (State.needTestOf u s).jc.record.map (·.departed) = s.jc.record.map (·.departed) := by
  simp only [State.needTestOf]
  repeat' split
  all_goals simp

@[simp] theorem State.needTests_kept (l : List Nat) (s : State) :
    (l.foldl (fun s u => State.needTestOf u s) s).pending = s.pending ∧ (l.foldl (fun s u => State.needTestOf u s) s).now = s.now ∧ (l.foldl (fun s u => State.needTestOf u s) s).station = s.station ∧ (l.foldl (fun s u => State.needTestOf u s) s).boot = s.boot ∧ (l.foldl (fun s u => State.needTestOf u s) s).ss = s.ss ∧ (l.foldl (fun s u => State.needTestOf u s) s).lc.presence = s.lc.presence ∧ (l.foldl (fun s u => State.needTestOf u s) s).lc.foreign = s.lc.foreign ∧ (l.foldl (fun s u => State.needTestOf u s) s).lc.view = s.lc.view ∧ (l.foldl (fun s u => State.needTestOf u s) s).lc.deaf = s.lc.deaf ∧ (l.foldl (fun s u => State.needTestOf u s) s).jc.nextBase = s.jc.nextBase ∧ (l.foldl (fun s u => State.needTestOf u s) s).jc.seq = s.jc.seq ∧ (l.foldl (fun s u => State.needTestOf u s) s).store.mem = s.store.mem ∧ (l.foldl (fun s u => State.needTestOf u s) s).store.fills = s.store.fills ∧ (l.foldl (fun s u => State.needTestOf u s) s).store.allowance = s.store.allowance ∧ (l.foldl (fun s u => State.needTestOf u s) s).cs.paused = s.cs.paused ∧ (l.foldl (fun s u => State.needTestOf u s) s).dp.diskin = s.dp.diskin ∧ (l.foldl (fun s u => State.needTestOf u s) s).dp.wprot = s.dp.wprot ∧ (l.foldl (fun s u => State.needTestOf u s) s).dp.trk0 = s.dp.trk0 ∧ (l.foldl (fun s u => State.needTestOf u s) s).pc.params = s.pc.params ∧ (l.foldl (fun s u => State.needTestOf u s) s).pc.directory = s.pc.directory ∧ (l.foldl (fun s u => State.needTestOf u s) s).pc.refusal = s.pc.refusal ∧ (l.foldl (fun s u => State.needTestOf u s) s).pc.flash = s.pc.flash ∧ (l.foldl (fun s u => State.needTestOf u s) s).pc.sequence = s.pc.sequence ∧ (l.foldl (fun s u => State.needTestOf u s) s).jc.record.map (·.fixed) = s.jc.record.map (·.fixed) ∧ (l.foldl (fun s u => State.needTestOf u s) s).jc.record.map (·.account) = s.jc.record.map (·.account) ∧ (l.foldl (fun s u => State.needTestOf u s) s).jc.record.map (·.state) = s.jc.record.map (·.state) ∧ (l.foldl (fun s u => State.needTestOf u s) s).jc.record.map (·.mark) = s.jc.record.map (·.mark) ∧ (l.foldl (fun s u => State.needTestOf u s) s).jc.record.map (·.departed) = s.jc.record.map (·.departed) := by
  induction l generalizing s with
  | nil => simp
  | cons u l ih => simp [ih]

@[simp] theorem State.needTest_kept (s : State) :
    (s.needTest).pending = s.pending ∧ (s.needTest).now = s.now ∧ (s.needTest).station = s.station ∧ (s.needTest).boot = s.boot ∧ (s.needTest).ss = s.ss ∧ (s.needTest).lc.presence = s.lc.presence ∧ (s.needTest).lc.foreign = s.lc.foreign ∧ (s.needTest).lc.view = s.lc.view ∧ (s.needTest).lc.deaf = s.lc.deaf ∧ (s.needTest).jc.nextBase = s.jc.nextBase ∧ (s.needTest).jc.seq = s.jc.seq ∧ (s.needTest).store.mem = s.store.mem ∧ (s.needTest).store.fills = s.store.fills ∧ (s.needTest).store.allowance = s.store.allowance ∧ (s.needTest).cs.paused = s.cs.paused ∧ (s.needTest).dp.diskin = s.dp.diskin ∧ (s.needTest).dp.wprot = s.dp.wprot ∧ (s.needTest).dp.trk0 = s.dp.trk0 ∧ (s.needTest).pc.params = s.pc.params ∧ (s.needTest).pc.directory = s.pc.directory ∧ (s.needTest).pc.refusal = s.pc.refusal ∧ (s.needTest).pc.flash = s.pc.flash ∧ (s.needTest).pc.sequence = s.pc.sequence ∧ (s.needTest).jc.record.map (·.fixed) = s.jc.record.map (·.fixed) ∧ (s.needTest).jc.record.map (·.account) = s.jc.record.map (·.account) ∧ (s.needTest).jc.record.map (·.state) = s.jc.record.map (·.state) ∧ (s.needTest).jc.record.map (·.mark) = s.jc.record.map (·.mark) ∧ (s.needTest).jc.record.map (·.departed) = s.jc.record.map (·.departed) := by
  simp [State.needTest]

@[simp] theorem State.feedOne_kept (s : State) :
    (State.feedOne s).pending = s.pending ∧ (State.feedOne s).now = s.now ∧ (State.feedOne s).station = s.station ∧ (State.feedOne s).boot = s.boot ∧ (State.feedOne s).jc = s.jc ∧ (State.feedOne s).store = s.store ∧ (State.feedOne s).cs = s.cs ∧ (State.feedOne s).ss = s.ss ∧ (State.feedOne s).tb = s.tb ∧ (State.feedOne s).vu = s.vu ∧ (State.feedOne s).dp = s.dp ∧ (State.feedOne s).pc = s.pc ∧ (State.feedOne s).lc.presence = s.lc.presence ∧ (State.feedOne s).lc.counters = s.lc.counters ∧ (State.feedOne s).lc.foreign = s.lc.foreign ∧ (State.feedOne s).lc.view = s.lc.view ∧ (State.feedOne s).lc.deaf = s.lc.deaf := by
  simp only [State.feedOne]
  repeat' split
  all_goals simp

@[simp] theorem State.repairFeed_kept (s : State) :
    (State.repairFeed s).pending = s.pending ∧ (State.repairFeed s).now = s.now ∧ (State.repairFeed s).station = s.station ∧ (State.repairFeed s).boot = s.boot ∧ (State.repairFeed s).jc = s.jc ∧ (State.repairFeed s).store = s.store ∧ (State.repairFeed s).cs = s.cs ∧ (State.repairFeed s).ss = s.ss ∧ (State.repairFeed s).tb = s.tb ∧ (State.repairFeed s).vu = s.vu ∧ (State.repairFeed s).dp = s.dp ∧ (State.repairFeed s).pc = s.pc ∧ (State.repairFeed s).lc.presence = s.lc.presence ∧ (State.repairFeed s).lc.counters = s.lc.counters ∧ (State.repairFeed s).lc.foreign = s.lc.foreign ∧ (State.repairFeed s).lc.view = s.lc.view ∧ (State.repairFeed s).lc.deaf = s.lc.deaf := by
  simp [State.repairFeed]

@[simp] theorem State.settle_kept (s before : State) :
    (State.settle s before).pending = s.pending ∧ (State.settle s before).now = s.now ∧ (State.settle s before).station = s.station ∧ (State.settle s before).boot = s.boot ∧ (State.settle s before).ss = s.ss ∧ (State.settle s before).lc.presence = s.lc.presence ∧ (State.settle s before).lc.foreign = s.lc.foreign ∧ (State.settle s before).lc.view = s.lc.view ∧ (State.settle s before).lc.deaf = s.lc.deaf ∧ (State.settle s before).jc.nextBase = s.jc.nextBase ∧ (State.settle s before).jc.seq = s.jc.seq ∧ (State.settle s before).store.mem = s.store.mem ∧ (State.settle s before).store.fills = s.store.fills ∧ (State.settle s before).store.allowance = s.store.allowance ∧ (State.settle s before).cs.paused = s.cs.paused ∧ (State.settle s before).dp.diskin = s.dp.diskin ∧ (State.settle s before).dp.wprot = s.dp.wprot ∧ (State.settle s before).dp.trk0 = s.dp.trk0 ∧ (State.settle s before).pc.params = s.pc.params ∧ (State.settle s before).pc.directory = s.pc.directory ∧ (State.settle s before).pc.refusal = s.pc.refusal ∧ (State.settle s before).pc.flash = s.pc.flash ∧ (State.settle s before).pc.sequence = s.pc.sequence ∧ (State.settle s before).jc.record.map (·.fixed) = s.jc.record.map (·.fixed) ∧ (State.settle s before).jc.record.map (·.account) = s.jc.record.map (·.account) ∧ (State.settle s before).jc.record.map (·.state) = s.jc.record.map (·.state) ∧ (State.settle s before).jc.record.map (·.mark) = s.jc.record.map (·.mark) ∧ (State.settle s before).jc.record.map (·.departed) = s.jc.record.map (·.departed) := by
  simp only [State.settle]
  repeat' split
  all_goals simp

@[simp] theorem State.raiseMark_kept (m : Nat) (s : State) :
    (State.raiseMark m s).pending = s.pending ∧ (State.raiseMark m s).now = s.now ∧ (State.raiseMark m s).station = s.station ∧ (State.raiseMark m s).boot = s.boot ∧ (State.raiseMark m s).lc = s.lc ∧ (State.raiseMark m s).store = s.store ∧ (State.raiseMark m s).du = s.du ∧ (State.raiseMark m s).cs = s.cs ∧ (State.raiseMark m s).ss = s.ss ∧ (State.raiseMark m s).tb = s.tb ∧ (State.raiseMark m s).vu = s.vu ∧ (State.raiseMark m s).dp = s.dp ∧ (State.raiseMark m s).pc = s.pc ∧ (State.raiseMark m s).jc.nextBase = s.jc.nextBase ∧ (State.raiseMark m s).jc.seq = s.jc.seq ∧ (State.raiseMark m s).jc.record.map (·.fixed) = s.jc.record.map (·.fixed) ∧ (State.raiseMark m s).jc.record.map (·.account) = s.jc.record.map (·.account) ∧ (State.raiseMark m s).jc.record.map (·.state) = s.jc.record.map (·.state) ∧ (State.raiseMark m s).jc.record.map (·.departed) = s.jc.record.map (·.departed) := by
  simp only [State.raiseMark]
  repeat' split
  all_goals first | (simp; done) | (simp [State.fixed, State.account, State.jobState, State.mark, State.departed, JobRecord.fixed, JobRecord.account, Option.map_map, Function.comp_def]; done) | (simp [State.fixed, State.account, State.jobState, State.mark, State.departed, JobRecord.fixed, JobRecord.account, Option.map_map, Function.comp_def, apply_ite]; done)

@[simp] theorem State.markRelease_kept (b : ReleaseBody) (s : State) :
    (State.markRelease b s).pending = s.pending ∧ (State.markRelease b s).now = s.now ∧ (State.markRelease b s).station = s.station ∧ (State.markRelease b s).boot = s.boot ∧ (State.markRelease b s).lc = s.lc ∧ (State.markRelease b s).store = s.store ∧ (State.markRelease b s).du = s.du ∧ (State.markRelease b s).cs = s.cs ∧ (State.markRelease b s).ss = s.ss ∧ (State.markRelease b s).tb = s.tb ∧ (State.markRelease b s).vu = s.vu ∧ (State.markRelease b s).dp = s.dp ∧ (State.markRelease b s).pc = s.pc ∧ (State.markRelease b s).jc.nextBase = s.jc.nextBase ∧ (State.markRelease b s).jc.seq = s.jc.seq ∧ (State.markRelease b s).jc.record.map (·.fixed) = s.jc.record.map (·.fixed) ∧ (State.markRelease b s).jc.record.map (·.account) = s.jc.record.map (·.account) ∧ (State.markRelease b s).jc.record.map (·.state) = s.jc.record.map (·.state) ∧ (State.markRelease b s).jc.record.map (·.departed) = s.jc.record.map (·.departed) := by
  simp only [State.markRelease]
  repeat' split
  all_goals simp

@[simp] theorem State.lostRelease_kept (t : Nat) (s : State) :
    (State.lostRelease t s).pending = s.pending ∧ (State.lostRelease t s).now = s.now ∧ (State.lostRelease t s).station = s.station ∧ (State.lostRelease t s).boot = s.boot ∧ (State.lostRelease t s).ss = s.ss ∧ (State.lostRelease t s).lc.presence = s.lc.presence ∧ (State.lostRelease t s).lc.foreign = s.lc.foreign ∧ (State.lostRelease t s).lc.view = s.lc.view ∧ (State.lostRelease t s).lc.deaf = s.lc.deaf ∧ (State.lostRelease t s).jc.nextBase = s.jc.nextBase ∧ (State.lostRelease t s).jc.seq = s.jc.seq ∧ (State.lostRelease t s).store.mem = s.store.mem ∧ (State.lostRelease t s).store.fills = s.store.fills ∧ (State.lostRelease t s).store.allowance = s.store.allowance ∧ (State.lostRelease t s).cs.paused = s.cs.paused ∧ (State.lostRelease t s).dp.diskin = s.dp.diskin ∧ (State.lostRelease t s).dp.wprot = s.dp.wprot ∧ (State.lostRelease t s).dp.trk0 = s.dp.trk0 ∧ (State.lostRelease t s).pc.params = s.pc.params ∧ (State.lostRelease t s).pc.directory = s.pc.directory ∧ (State.lostRelease t s).pc.refusal = s.pc.refusal ∧ (State.lostRelease t s).pc.flash = s.pc.flash ∧ (State.lostRelease t s).pc.sequence = s.pc.sequence ∧ (State.lostRelease t s).jc.record.map (·.fixed) = s.jc.record.map (·.fixed) ∧ (State.lostRelease t s).jc.record.map (·.account) = s.jc.record.map (·.account) ∧ (State.lostRelease t s).jc.record.map (·.state) = s.jc.record.map (·.state) ∧ (State.lostRelease t s).jc.record.map (·.mark) = s.jc.record.map (·.mark) ∧ (State.lostRelease t s).jc.record.map (·.departed) = s.jc.record.map (·.departed) := by
  simp only [State.lostRelease]
  repeat' split
  all_goals simp

@[simp] theorem State.giveUp_kept (t : Nat) (s : State) :
    (State.giveUp t s).pending = s.pending ∧ (State.giveUp t s).now = s.now ∧ (State.giveUp t s).station = s.station ∧ (State.giveUp t s).boot = s.boot ∧ (State.giveUp t s).ss = s.ss ∧ (State.giveUp t s).lc.presence = s.lc.presence ∧ (State.giveUp t s).lc.foreign = s.lc.foreign ∧ (State.giveUp t s).lc.view = s.lc.view ∧ (State.giveUp t s).lc.deaf = s.lc.deaf ∧ (State.giveUp t s).jc.nextBase = s.jc.nextBase ∧ (State.giveUp t s).jc.seq = s.jc.seq ∧ (State.giveUp t s).store.mem = s.store.mem ∧ (State.giveUp t s).store.fills = s.store.fills ∧ (State.giveUp t s).cs.paused = s.cs.paused ∧ (State.giveUp t s).dp.diskin = s.dp.diskin ∧ (State.giveUp t s).dp.wprot = s.dp.wprot ∧ (State.giveUp t s).dp.trk0 = s.dp.trk0 ∧ (State.giveUp t s).pc.params = s.pc.params ∧ (State.giveUp t s).pc.directory = s.pc.directory ∧ (State.giveUp t s).pc.refusal = s.pc.refusal ∧ (State.giveUp t s).pc.flash = s.pc.flash ∧ (State.giveUp t s).pc.sequence = s.pc.sequence ∧ (State.giveUp t s).jc.record.map (·.fixed) = s.jc.record.map (·.fixed) ∧ (State.giveUp t s).jc.record.map (·.account) = s.jc.record.map (·.account) ∧ (State.giveUp t s).jc.record.map (·.state) = s.jc.record.map (·.state) ∧ (State.giveUp t s).jc.record.map (·.mark) = s.jc.record.map (·.mark) ∧ (State.giveUp t s).jc.record.map (·.departed) = s.jc.record.map (·.departed) := by
  simp only [State.giveUp]
  repeat' split
  all_goals first | (simp; done) | (simp [State.fixed, State.account, State.jobState, State.mark, State.departed, JobRecord.fixed, JobRecord.account, Option.map_map, Function.comp_def]; done) | (simp [State.fixed, State.account, State.jobState, State.mark, State.departed, JobRecord.fixed, JobRecord.account, Option.map_map, Function.comp_def, apply_ite]; done)

@[simp] theorem State.wantExpired_kept (w : Want) (jobId : JobId) (s : State) :
    (State.wantExpired w jobId s).pending = s.pending ∧ (State.wantExpired w jobId s).now = s.now ∧ (State.wantExpired w jobId s).station = s.station ∧ (State.wantExpired w jobId s).boot = s.boot ∧ (State.wantExpired w jobId s).ss = s.ss ∧ (State.wantExpired w jobId s).lc.presence = s.lc.presence ∧ (State.wantExpired w jobId s).lc.foreign = s.lc.foreign ∧ (State.wantExpired w jobId s).lc.view = s.lc.view ∧ (State.wantExpired w jobId s).lc.deaf = s.lc.deaf ∧ (State.wantExpired w jobId s).jc.nextBase = s.jc.nextBase ∧ (State.wantExpired w jobId s).jc.seq = s.jc.seq ∧ (State.wantExpired w jobId s).store.mem = s.store.mem ∧ (State.wantExpired w jobId s).store.fills = s.store.fills ∧ (State.wantExpired w jobId s).cs.paused = s.cs.paused ∧ (State.wantExpired w jobId s).dp.diskin = s.dp.diskin ∧ (State.wantExpired w jobId s).dp.wprot = s.dp.wprot ∧ (State.wantExpired w jobId s).dp.trk0 = s.dp.trk0 ∧ (State.wantExpired w jobId s).pc.params = s.pc.params ∧ (State.wantExpired w jobId s).pc.directory = s.pc.directory ∧ (State.wantExpired w jobId s).pc.refusal = s.pc.refusal ∧ (State.wantExpired w jobId s).pc.flash = s.pc.flash ∧ (State.wantExpired w jobId s).pc.sequence = s.pc.sequence ∧ (State.wantExpired w jobId s).jc.record.map (·.fixed) = s.jc.record.map (·.fixed) ∧ (State.wantExpired w jobId s).jc.record.map (·.account) = s.jc.record.map (·.account) ∧ (State.wantExpired w jobId s).jc.record.map (·.state) = s.jc.record.map (·.state) ∧ (State.wantExpired w jobId s).jc.record.map (·.mark) = s.jc.record.map (·.mark) ∧ (State.wantExpired w jobId s).jc.record.map (·.departed) = s.jc.record.map (·.departed) := by
  simp only [State.wantExpired]
  repeat' split
  all_goals simp

@[simp] theorem State.wantHeard_kept (t : Nat) (s : State) :
    (State.wantHeard t s).pending = s.pending ∧ (State.wantHeard t s).now = s.now ∧ (State.wantHeard t s).station = s.station ∧ (State.wantHeard t s).boot = s.boot ∧ (State.wantHeard t s).lc = s.lc ∧ (State.wantHeard t s).jc = s.jc ∧ (State.wantHeard t s).store = s.store ∧ (State.wantHeard t s).cs = s.cs ∧ (State.wantHeard t s).ss = s.ss ∧ (State.wantHeard t s).tb = s.tb ∧ (State.wantHeard t s).vu = s.vu ∧ (State.wantHeard t s).dp = s.dp ∧ (State.wantHeard t s).pc = s.pc := by
  simp [State.wantHeard]

@[simp] theorem State.shareWant_kept (b : WantBody) (s : State) :
    (State.shareWant b s).pending = s.pending ∧ (State.shareWant b s).now = s.now ∧ (State.shareWant b s).station = s.station ∧ (State.shareWant b s).boot = s.boot ∧ (State.shareWant b s).jc = s.jc ∧ (State.shareWant b s).store = s.store ∧ (State.shareWant b s).cs = s.cs ∧ (State.shareWant b s).ss = s.ss ∧ (State.shareWant b s).tb = s.tb ∧ (State.shareWant b s).vu = s.vu ∧ (State.shareWant b s).dp = s.dp ∧ (State.shareWant b s).pc = s.pc ∧ (State.shareWant b s).lc.presence = s.lc.presence ∧ (State.shareWant b s).lc.counters = s.lc.counters ∧ (State.shareWant b s).lc.foreign = s.lc.foreign ∧ (State.shareWant b s).lc.view = s.lc.view ∧ (State.shareWant b s).lc.deaf = s.lc.deaf := by
  simp only [State.shareWant]
  repeat' split
  all_goals simp

@[simp] theorem State.answerWant_kept (t : Nat) (s : State) :
    (State.answerWant t s).pending = s.pending ∧ (State.answerWant t s).now = s.now ∧ (State.answerWant t s).station = s.station ∧ (State.answerWant t s).boot = s.boot ∧ (State.answerWant t s).jc = s.jc ∧ (State.answerWant t s).store = s.store ∧ (State.answerWant t s).du = s.du ∧ (State.answerWant t s).cs = s.cs ∧ (State.answerWant t s).ss = s.ss ∧ (State.answerWant t s).tb = s.tb ∧ (State.answerWant t s).vu = s.vu ∧ (State.answerWant t s).dp = s.dp ∧ (State.answerWant t s).pc = s.pc ∧ (State.answerWant t s).lc.presence = s.lc.presence ∧ (State.answerWant t s).lc.counters = s.lc.counters ∧ (State.answerWant t s).lc.foreign = s.lc.foreign ∧ (State.answerWant t s).lc.view = s.lc.view ∧ (State.answerWant t s).lc.deaf = s.lc.deaf := by
  simp only [State.answerWant]
  repeat' split
  all_goals simp

@[simp] theorem State.queueRestore_kept (t : Nat) (s : State) :
    (State.queueRestore t s).pending = s.pending ∧ (State.queueRestore t s).now = s.now ∧ (State.queueRestore t s).station = s.station ∧ (State.queueRestore t s).boot = s.boot ∧ (State.queueRestore t s).lc = s.lc ∧ (State.queueRestore t s).jc = s.jc ∧ (State.queueRestore t s).store = s.store ∧ (State.queueRestore t s).cs = s.cs ∧ (State.queueRestore t s).ss = s.ss ∧ (State.queueRestore t s).tb = s.tb ∧ (State.queueRestore t s).vu = s.vu ∧ (State.queueRestore t s).dp = s.dp ∧ (State.queueRestore t s).pc = s.pc := by
  simp only [State.queueRestore]
  repeat' split
  all_goals simp

@[simp] theorem State.restoreRequest_kept (t : Nat) (s : State) :
    (State.restoreRequest t s).pending = s.pending ∧ (State.restoreRequest t s).now = s.now ∧ (State.restoreRequest t s).station = s.station ∧ (State.restoreRequest t s).boot = s.boot ∧ (State.restoreRequest t s).jc = s.jc ∧ (State.restoreRequest t s).store = s.store ∧ (State.restoreRequest t s).cs = s.cs ∧ (State.restoreRequest t s).ss = s.ss ∧ (State.restoreRequest t s).tb = s.tb ∧ (State.restoreRequest t s).vu = s.vu ∧ (State.restoreRequest t s).dp = s.dp ∧ (State.restoreRequest t s).pc = s.pc ∧ (State.restoreRequest t s).lc.presence = s.lc.presence ∧ (State.restoreRequest t s).lc.counters = s.lc.counters ∧ (State.restoreRequest t s).lc.foreign = s.lc.foreign ∧ (State.restoreRequest t s).lc.view = s.lc.view ∧ (State.restoreRequest t s).lc.deaf = s.lc.deaf := by
  simp only [State.restoreRequest]
  repeat' split
  all_goals simp

@[simp] theorem State.suppressAnswers_kept (t : Nat) (s : State) :
    (State.suppressAnswers t s).pending = s.pending ∧ (State.suppressAnswers t s).now = s.now ∧ (State.suppressAnswers t s).station = s.station ∧ (State.suppressAnswers t s).boot = s.boot ∧ (State.suppressAnswers t s).jc = s.jc ∧ (State.suppressAnswers t s).store = s.store ∧ (State.suppressAnswers t s).du = s.du ∧ (State.suppressAnswers t s).cs = s.cs ∧ (State.suppressAnswers t s).ss = s.ss ∧ (State.suppressAnswers t s).tb = s.tb ∧ (State.suppressAnswers t s).vu = s.vu ∧ (State.suppressAnswers t s).dp = s.dp ∧ (State.suppressAnswers t s).pc = s.pc ∧ (State.suppressAnswers t s).lc.presence = s.lc.presence ∧ (State.suppressAnswers t s).lc.counters = s.lc.counters ∧ (State.suppressAnswers t s).lc.foreign = s.lc.foreign ∧ (State.suppressAnswers t s).lc.view = s.lc.view ∧ (State.suppressAnswers t s).lc.deaf = s.lc.deaf := by
  simp [State.suppressAnswers]

@[simp] theorem State.beginFill_kept (h : ReleaseHead) (s : State) :
    (State.beginFill h s).pending = s.pending ∧ (State.beginFill h s).now = s.now ∧ (State.beginFill h s).station = s.station ∧ (State.beginFill h s).boot = s.boot ∧ (State.beginFill h s).jc = s.jc ∧ (State.beginFill h s).du = s.du ∧ (State.beginFill h s).cs = s.cs ∧ (State.beginFill h s).ss = s.ss ∧ (State.beginFill h s).tb = s.tb ∧ (State.beginFill h s).vu = s.vu ∧ (State.beginFill h s).dp = s.dp ∧ (State.beginFill h s).pc = s.pc ∧ (State.beginFill h s).lc.queue = s.lc.queue ∧ (State.beginFill h s).lc.presence = s.lc.presence ∧ (State.beginFill h s).lc.foreign = s.lc.foreign ∧ (State.beginFill h s).lc.view = s.lc.view ∧ (State.beginFill h s).lc.deaf = s.lc.deaf ∧ (State.beginFill h s).store.mem = s.store.mem ∧ (State.beginFill h s).store.allowance = s.store.allowance := by
  simp only [State.beginFill]
  repeat' split
  all_goals simp

@[simp] theorem State.endFill_kept (i : Nat) (s : State) :
    (State.endFill i s).pending = s.pending ∧ (State.endFill i s).now = s.now ∧ (State.endFill i s).station = s.station ∧ (State.endFill i s).boot = s.boot ∧ (State.endFill i s).lc = s.lc ∧ (State.endFill i s).jc = s.jc ∧ (State.endFill i s).du = s.du ∧ (State.endFill i s).cs = s.cs ∧ (State.endFill i s).ss = s.ss ∧ (State.endFill i s).tb = s.tb ∧ (State.endFill i s).vu = s.vu ∧ (State.endFill i s).dp = s.dp ∧ (State.endFill i s).pc = s.pc ∧ (State.endFill i s).store.mem = s.store.mem ∧ (State.endFill i s).store.allowance = s.store.allowance := by
  simp only [State.endFill]
  repeat' split
  all_goals simp

@[simp] theorem State.breakFill_kept (body : List Byte) (s : State) :
    (State.breakFill body s).pending = s.pending ∧ (State.breakFill body s).now = s.now ∧ (State.breakFill body s).station = s.station ∧ (State.breakFill body s).boot = s.boot ∧ (State.breakFill body s).lc = s.lc ∧ (State.breakFill body s).jc = s.jc ∧ (State.breakFill body s).du = s.du ∧ (State.breakFill body s).cs = s.cs ∧ (State.breakFill body s).ss = s.ss ∧ (State.breakFill body s).tb = s.tb ∧ (State.breakFill body s).vu = s.vu ∧ (State.breakFill body s).dp = s.dp ∧ (State.breakFill body s).pc = s.pc ∧ (State.breakFill body s).store.allowance = s.store.allowance := by
  simp only [State.breakFill]
  repeat' split
  all_goals simp

@[simp] theorem State.settleFill_kept (b : ReleaseBody) (s : State) :
    (State.settleFill b s).pending = s.pending ∧ (State.settleFill b s).now = s.now ∧ (State.settleFill b s).station = s.station ∧ (State.settleFill b s).boot = s.boot ∧ (State.settleFill b s).cs = s.cs ∧ (State.settleFill b s).ss = s.ss ∧ (State.settleFill b s).tb = s.tb ∧ (State.settleFill b s).vu = s.vu ∧ (State.settleFill b s).dp = s.dp ∧ (State.settleFill b s).pc = s.pc ∧ (State.settleFill b s).lc.presence = s.lc.presence ∧ (State.settleFill b s).lc.foreign = s.lc.foreign ∧ (State.settleFill b s).lc.view = s.lc.view ∧ (State.settleFill b s).lc.deaf = s.lc.deaf ∧ (State.settleFill b s).jc.nextBase = s.jc.nextBase ∧ (State.settleFill b s).jc.seq = s.jc.seq ∧ (State.settleFill b s).store.allowance = s.store.allowance ∧ (State.settleFill b s).jc.record.map (·.fixed) = s.jc.record.map (·.fixed) ∧ (State.settleFill b s).jc.record.map (·.account) = s.jc.record.map (·.account) ∧ (State.settleFill b s).jc.record.map (·.state) = s.jc.record.map (·.state) ∧ (State.settleFill b s).jc.record.map (·.mark) = s.jc.record.map (·.mark) ∧ (State.settleFill b s).jc.record.map (·.departed) = s.jc.record.map (·.departed) := by
  simp only [State.settleFill]
  repeat' split
  all_goals simp

@[simp] theorem State.endRead_kept (s : State) :
    (State.endRead s).pending = s.pending ∧ (State.endRead s).now = s.now ∧ (State.endRead s).station = s.station ∧ (State.endRead s).boot = s.boot ∧ (State.endRead s).lc = s.lc ∧ (State.endRead s).jc = s.jc ∧ (State.endRead s).du = s.du ∧ (State.endRead s).cs = s.cs ∧ (State.endRead s).tb = s.tb ∧ (State.endRead s).vu = s.vu ∧ (State.endRead s).pc = s.pc ∧ (State.endRead s).store.mem = s.store.mem ∧ (State.endRead s).store.fills = s.store.fills ∧ (State.endRead s).store.allowance = s.store.allowance ∧ (State.endRead s).ss.state = s.ss.state ∧ (State.endRead s).ss.present = s.ss.present ∧ (State.endRead s).dp.diskin = s.dp.diskin ∧ (State.endRead s).dp.wprot = s.dp.wprot ∧ (State.endRead s).dp.trk0 = s.dp.trk0 ∧ (State.endRead s).dp.wgate = s.dp.wgate := by
  simp only [State.endRead]
  repeat' split
  all_goals simp

@[simp] theorem State.giveUpRelease_kept (s : State) :
    (State.giveUpRelease s).pending = s.pending ∧ (State.giveUpRelease s).now = s.now ∧ (State.giveUpRelease s).station = s.station ∧ (State.giveUpRelease s).boot = s.boot ∧ (State.giveUpRelease s).lc = s.lc ∧ (State.giveUpRelease s).du = s.du ∧ (State.giveUpRelease s).cs = s.cs ∧ (State.giveUpRelease s).tb = s.tb ∧ (State.giveUpRelease s).vu = s.vu ∧ (State.giveUpRelease s).dp = s.dp ∧ (State.giveUpRelease s).pc = s.pc ∧ (State.giveUpRelease s).jc.nextBase = s.jc.nextBase ∧ (State.giveUpRelease s).jc.seq = s.jc.seq ∧ (State.giveUpRelease s).store.mem = s.store.mem ∧ (State.giveUpRelease s).store.fills = s.store.fills ∧ (State.giveUpRelease s).store.allowance = s.store.allowance ∧ (State.giveUpRelease s).jc.record.map (·.fixed) = s.jc.record.map (·.fixed) ∧ (State.giveUpRelease s).jc.record.map (·.account) = s.jc.record.map (·.account) ∧ (State.giveUpRelease s).jc.record.map (·.state) = s.jc.record.map (·.state) ∧ (State.giveUpRelease s).jc.record.map (·.mark) = s.jc.record.map (·.mark) ∧ (State.giveUpRelease s).jc.record.map (·.departed) = s.jc.record.map (·.departed) ∧ (State.giveUpRelease s).ss.state = s.ss.state ∧ (State.giveUpRelease s).ss.present = s.ss.present ∧ (State.giveUpRelease s).ss.abandon = s.ss.abandon ∧ (State.giveUpRelease s).ss.read = s.ss.read ∧ (State.giveUpRelease s).ss.restoring = s.ss.restoring ∧ (State.giveUpRelease s).ss.firstTrack = s.ss.firstTrack := by
  simp [State.giveUpRelease, State.mapSource]

@[simp] theorem State.sourceAbandon_kept (reason : AbandonReason) (s : State) :
    (State.sourceAbandon reason s).pending = s.pending ∧ (State.sourceAbandon reason s).now = s.now ∧ (State.sourceAbandon reason s).station = s.station ∧ (State.sourceAbandon reason s).boot = s.boot ∧ (State.sourceAbandon reason s).du = s.du ∧ (State.sourceAbandon reason s).cs = s.cs ∧ (State.sourceAbandon reason s).tb = s.tb ∧ (State.sourceAbandon reason s).vu = s.vu ∧ (State.sourceAbandon reason s).pc = s.pc ∧ (State.sourceAbandon reason s).lc.presence = s.lc.presence ∧ (State.sourceAbandon reason s).lc.counters = s.lc.counters ∧ (State.sourceAbandon reason s).lc.foreign = s.lc.foreign ∧ (State.sourceAbandon reason s).lc.view = s.lc.view ∧ (State.sourceAbandon reason s).lc.deaf = s.lc.deaf ∧ (State.sourceAbandon reason s).jc.record.map (·.fixed) = s.jc.record.map (·.fixed) ∧ (State.sourceAbandon reason s).jc.record.map (·.account) = s.jc.record.map (·.account) ∧ (State.sourceAbandon reason s).jc.record.map (·.state) = s.jc.record.map (·.state) ∧ (State.sourceAbandon reason s).jc.record.map (·.mark) = s.jc.record.map (·.mark) ∧ (State.sourceAbandon reason s).jc.record.map (·.departed) = s.jc.record.map (·.departed) ∧ (State.sourceAbandon reason s).jc.nextBase = s.jc.nextBase ∧ (State.sourceAbandon reason s).jc.seq = s.jc.seq ∧ (State.sourceAbandon reason s).store.mem = s.store.mem ∧ (State.sourceAbandon reason s).store.fills = s.store.fills ∧ (State.sourceAbandon reason s).store.allowance = s.store.allowance ∧ (State.sourceAbandon reason s).ss.state = s.ss.state ∧ (State.sourceAbandon reason s).ss.present = s.ss.present ∧ (State.sourceAbandon reason s).dp.diskin = s.dp.diskin ∧ (State.sourceAbandon reason s).dp.wprot = s.dp.wprot ∧ (State.sourceAbandon reason s).dp.trk0 = s.dp.trk0 ∧ (State.sourceAbandon reason s).dp.wgate = s.dp.wgate := by
  simp only [State.sourceAbandon]
  repeat' split
  all_goals simp

@[simp] theorem State.enterRelease_kept (v : Reserve) (s : State) :
    (State.enterRelease v s).pending = s.pending ∧ (State.enterRelease v s).now = s.now ∧ (State.enterRelease v s).station = s.station ∧ (State.enterRelease v s).boot = s.boot ∧ (State.enterRelease v s).jc.nextBase = s.jc.nextBase ∧ (State.enterRelease v s).jc.seq = s.jc.seq ∧ (State.enterRelease v s).jc.record.map (·.fixed) = s.jc.record.map (·.fixed) ∧ (State.enterRelease v s).jc.record.map (·.account) = s.jc.record.map (·.account) ∧ (State.enterRelease v s).jc.record.map (·.state) = s.jc.record.map (·.state) ∧ (State.enterRelease v s).jc.record.map (·.mark) = s.jc.record.map (·.mark) ∧ (State.enterRelease v s).jc.record.map (·.departed) = s.jc.record.map (·.departed) ∧ (State.enterRelease v s).store.mem = s.store.mem ∧ (State.enterRelease v s).store.fills = s.store.fills ∧ (State.enterRelease v s).store.allowance = s.store.allowance ∧ (State.enterRelease v s).du = s.du ∧ (State.enterRelease v s).cs = s.cs ∧ (State.enterRelease v s).tb = s.tb ∧ (State.enterRelease v s).vu = s.vu ∧ (State.enterRelease v s).dp = s.dp ∧ (State.enterRelease v s).pc = s.pc ∧ (State.enterRelease v s).lc.presence = s.lc.presence ∧ (State.enterRelease v s).lc.counters = s.lc.counters ∧ (State.enterRelease v s).lc.foreign = s.lc.foreign ∧ (State.enterRelease v s).lc.view = s.lc.view ∧ (State.enterRelease v s).lc.deaf = s.lc.deaf ∧ (State.enterRelease v s).ss.state = s.ss.state ∧ (State.enterRelease v s).ss.present = s.ss.present := by
  simp only [State.enterRelease]
  repeat' split
  all_goals simp

@[simp] theorem State.releaseFromReserve_kept (s : State) :
    (State.releaseFromReserve s).pending = s.pending ∧ (State.releaseFromReserve s).now = s.now ∧ (State.releaseFromReserve s).station = s.station ∧ (State.releaseFromReserve s).boot = s.boot ∧ (State.releaseFromReserve s).jc.nextBase = s.jc.nextBase ∧ (State.releaseFromReserve s).jc.seq = s.jc.seq ∧ (State.releaseFromReserve s).jc.record.map (·.fixed) = s.jc.record.map (·.fixed) ∧ (State.releaseFromReserve s).jc.record.map (·.account) = s.jc.record.map (·.account) ∧ (State.releaseFromReserve s).jc.record.map (·.state) = s.jc.record.map (·.state) ∧ (State.releaseFromReserve s).jc.record.map (·.mark) = s.jc.record.map (·.mark) ∧ (State.releaseFromReserve s).jc.record.map (·.departed) = s.jc.record.map (·.departed) ∧ (State.releaseFromReserve s).store.mem = s.store.mem ∧ (State.releaseFromReserve s).store.fills = s.store.fills ∧ (State.releaseFromReserve s).store.allowance = s.store.allowance ∧ (State.releaseFromReserve s).du = s.du ∧ (State.releaseFromReserve s).cs = s.cs ∧ (State.releaseFromReserve s).tb = s.tb ∧ (State.releaseFromReserve s).vu = s.vu ∧ (State.releaseFromReserve s).dp = s.dp ∧ (State.releaseFromReserve s).pc = s.pc ∧ (State.releaseFromReserve s).lc.presence = s.lc.presence ∧ (State.releaseFromReserve s).lc.counters = s.lc.counters ∧ (State.releaseFromReserve s).lc.foreign = s.lc.foreign ∧ (State.releaseFromReserve s).lc.view = s.lc.view ∧ (State.releaseFromReserve s).lc.deaf = s.lc.deaf ∧ (State.releaseFromReserve s).ss.state = s.ss.state ∧ (State.releaseFromReserve s).ss.present = s.ss.present := by
  simp only [State.releaseFromReserve]
  repeat' split
  all_goals simp

@[simp] theorem State.releaseTrack_kept (t : Nat) (s : State) :
    (State.releaseTrack t s).pending = s.pending ∧ (State.releaseTrack t s).now = s.now ∧ (State.releaseTrack t s).station = s.station ∧ (State.releaseTrack t s).boot = s.boot ∧ (State.releaseTrack t s).jc.nextBase = s.jc.nextBase ∧ (State.releaseTrack t s).jc.seq = s.jc.seq ∧ (State.releaseTrack t s).jc.record.map (·.fixed) = s.jc.record.map (·.fixed) ∧ (State.releaseTrack t s).jc.record.map (·.account) = s.jc.record.map (·.account) ∧ (State.releaseTrack t s).jc.record.map (·.state) = s.jc.record.map (·.state) ∧ (State.releaseTrack t s).jc.record.map (·.mark) = s.jc.record.map (·.mark) ∧ (State.releaseTrack t s).jc.record.map (·.departed) = s.jc.record.map (·.departed) ∧ (State.releaseTrack t s).du = s.du ∧ (State.releaseTrack t s).cs = s.cs ∧ (State.releaseTrack t s).tb = s.tb ∧ (State.releaseTrack t s).vu = s.vu ∧ (State.releaseTrack t s).dp = s.dp ∧ (State.releaseTrack t s).pc = s.pc ∧ (State.releaseTrack t s).lc.presence = s.lc.presence ∧ (State.releaseTrack t s).lc.counters = s.lc.counters ∧ (State.releaseTrack t s).lc.foreign = s.lc.foreign ∧ (State.releaseTrack t s).lc.view = s.lc.view ∧ (State.releaseTrack t s).lc.deaf = s.lc.deaf ∧ (State.releaseTrack t s).store.mem = s.store.mem ∧ (State.releaseTrack t s).store.fills = s.store.fills ∧ (State.releaseTrack t s).store.allowance = s.store.allowance ∧ (State.releaseTrack t s).ss.present = s.ss.present := by
  simp only [State.releaseTrack]
  repeat' split
  all_goals simp

@[simp] theorem State.startSearch_kept (s : State) :
    (State.startSearch s).pending = s.pending ∧ (State.startSearch s).now = s.now ∧ (State.startSearch s).station = s.station ∧ (State.startSearch s).boot = s.boot ∧ (State.startSearch s).lc = s.lc ∧ (State.startSearch s).jc = s.jc ∧ (State.startSearch s).store = s.store ∧ (State.startSearch s).du = s.du ∧ (State.startSearch s).cs = s.cs ∧ (State.startSearch s).tb = s.tb ∧ (State.startSearch s).vu = s.vu ∧ (State.startSearch s).pc = s.pc ∧ (State.startSearch s).ss.state = s.ss.state ∧ (State.startSearch s).ss.present = s.ss.present ∧ (State.startSearch s).dp.diskin = s.dp.diskin ∧ (State.startSearch s).dp.wprot = s.dp.wprot ∧ (State.startSearch s).dp.trk0 = s.dp.trk0 ∧ (State.startSearch s).dp.wgate = s.dp.wgate := by
  simp only [State.startSearch]
  repeat' split
  all_goals simp

@[simp] theorem State.mapRead_kept (g : MasterRead → MasterRead) (s : State) :
    (State.mapRead g s).pending = s.pending ∧ (State.mapRead g s).now = s.now ∧ (State.mapRead g s).station = s.station ∧ (State.mapRead g s).boot = s.boot ∧ (State.mapRead g s).lc = s.lc ∧ (State.mapRead g s).jc = s.jc ∧ (State.mapRead g s).store = s.store ∧ (State.mapRead g s).du = s.du ∧ (State.mapRead g s).cs = s.cs ∧ (State.mapRead g s).tb = s.tb ∧ (State.mapRead g s).vu = s.vu ∧ (State.mapRead g s).dp = s.dp ∧ (State.mapRead g s).pc = s.pc ∧ (State.mapRead g s).ss.state = s.ss.state ∧ (State.mapRead g s).ss.present = s.ss.present := by
  simp [State.mapRead]

@[simp] theorem State.readFailed_kept (reason : AbandonReason) (s : State) :
    (State.readFailed reason s).pending = s.pending ∧ (State.readFailed reason s).now = s.now ∧ (State.readFailed reason s).station = s.station ∧ (State.readFailed reason s).boot = s.boot ∧ (State.readFailed reason s).du = s.du ∧ (State.readFailed reason s).cs = s.cs ∧ (State.readFailed reason s).tb = s.tb ∧ (State.readFailed reason s).vu = s.vu ∧ (State.readFailed reason s).pc = s.pc ∧ (State.readFailed reason s).lc.presence = s.lc.presence ∧ (State.readFailed reason s).lc.counters = s.lc.counters ∧ (State.readFailed reason s).lc.foreign = s.lc.foreign ∧ (State.readFailed reason s).lc.view = s.lc.view ∧ (State.readFailed reason s).lc.deaf = s.lc.deaf ∧ (State.readFailed reason s).jc.record.map (·.fixed) = s.jc.record.map (·.fixed) ∧ (State.readFailed reason s).jc.record.map (·.account) = s.jc.record.map (·.account) ∧ (State.readFailed reason s).jc.record.map (·.state) = s.jc.record.map (·.state) ∧ (State.readFailed reason s).jc.record.map (·.mark) = s.jc.record.map (·.mark) ∧ (State.readFailed reason s).jc.record.map (·.departed) = s.jc.record.map (·.departed) ∧ (State.readFailed reason s).jc.nextBase = s.jc.nextBase ∧ (State.readFailed reason s).jc.seq = s.jc.seq ∧ (State.readFailed reason s).store.mem = s.store.mem ∧ (State.readFailed reason s).store.fills = s.store.fills ∧ (State.readFailed reason s).store.allowance = s.store.allowance ∧ (State.readFailed reason s).ss.state = s.ss.state ∧ (State.readFailed reason s).ss.present = s.ss.present ∧ (State.readFailed reason s).dp.diskin = s.dp.diskin ∧ (State.readFailed reason s).dp.wprot = s.dp.wprot ∧ (State.readFailed reason s).dp.trk0 = s.dp.trk0 ∧ (State.readFailed reason s).dp.wgate = s.dp.wgate := by
  simp only [State.readFailed]
  repeat' split
  all_goals simp

@[simp] theorem State.sourceSeekEnd_kept (good : Bool) (s : State) :
    (State.sourceSeekEnd good s).pending = s.pending ∧ (State.sourceSeekEnd good s).now = s.now ∧ (State.sourceSeekEnd good s).station = s.station ∧ (State.sourceSeekEnd good s).boot = s.boot ∧ (State.sourceSeekEnd good s).du = s.du ∧ (State.sourceSeekEnd good s).cs = s.cs ∧ (State.sourceSeekEnd good s).tb = s.tb ∧ (State.sourceSeekEnd good s).vu = s.vu ∧ (State.sourceSeekEnd good s).pc = s.pc ∧ (State.sourceSeekEnd good s).lc.presence = s.lc.presence ∧ (State.sourceSeekEnd good s).lc.counters = s.lc.counters ∧ (State.sourceSeekEnd good s).lc.foreign = s.lc.foreign ∧ (State.sourceSeekEnd good s).lc.view = s.lc.view ∧ (State.sourceSeekEnd good s).lc.deaf = s.lc.deaf ∧ (State.sourceSeekEnd good s).jc.record.map (·.fixed) = s.jc.record.map (·.fixed) ∧ (State.sourceSeekEnd good s).jc.record.map (·.account) = s.jc.record.map (·.account) ∧ (State.sourceSeekEnd good s).jc.record.map (·.state) = s.jc.record.map (·.state) ∧ (State.sourceSeekEnd good s).jc.record.map (·.mark) = s.jc.record.map (·.mark) ∧ (State.sourceSeekEnd good s).jc.record.map (·.departed) = s.jc.record.map (·.departed) ∧ (State.sourceSeekEnd good s).jc.nextBase = s.jc.nextBase ∧ (State.sourceSeekEnd good s).jc.seq = s.jc.seq ∧ (State.sourceSeekEnd good s).store.mem = s.store.mem ∧ (State.sourceSeekEnd good s).store.fills = s.store.fills ∧ (State.sourceSeekEnd good s).store.allowance = s.store.allowance ∧ (State.sourceSeekEnd good s).ss.state = s.ss.state ∧ (State.sourceSeekEnd good s).ss.present = s.ss.present ∧ (State.sourceSeekEnd good s).dp.diskin = s.dp.diskin ∧ (State.sourceSeekEnd good s).dp.wprot = s.dp.wprot ∧ (State.sourceSeekEnd good s).dp.trk0 = s.dp.trk0 ∧ (State.sourceSeekEnd good s).dp.wgate = s.dp.wgate := by
  simp only [State.sourceSeekEnd]
  repeat' split
  all_goals simp

@[simp] theorem State.trySlot_kept (s : State) :
    (State.trySlot s).pending = s.pending ∧ (State.trySlot s).now = s.now ∧ (State.trySlot s).station = s.station ∧ (State.trySlot s).boot = s.boot ∧ (State.trySlot s).du = s.du ∧ (State.trySlot s).cs = s.cs ∧ (State.trySlot s).tb = s.tb ∧ (State.trySlot s).vu = s.vu ∧ (State.trySlot s).pc = s.pc ∧ (State.trySlot s).lc.presence = s.lc.presence ∧ (State.trySlot s).lc.counters = s.lc.counters ∧ (State.trySlot s).lc.foreign = s.lc.foreign ∧ (State.trySlot s).lc.view = s.lc.view ∧ (State.trySlot s).lc.deaf = s.lc.deaf ∧ (State.trySlot s).jc.record.map (·.fixed) = s.jc.record.map (·.fixed) ∧ (State.trySlot s).jc.record.map (·.account) = s.jc.record.map (·.account) ∧ (State.trySlot s).jc.record.map (·.state) = s.jc.record.map (·.state) ∧ (State.trySlot s).jc.record.map (·.mark) = s.jc.record.map (·.mark) ∧ (State.trySlot s).jc.record.map (·.departed) = s.jc.record.map (·.departed) ∧ (State.trySlot s).jc.nextBase = s.jc.nextBase ∧ (State.trySlot s).jc.seq = s.jc.seq ∧ (State.trySlot s).store.mem = s.store.mem ∧ (State.trySlot s).store.fills = s.store.fills ∧ (State.trySlot s).store.allowance = s.store.allowance ∧ (State.trySlot s).ss.present = s.ss.present ∧ (State.trySlot s).dp.diskin = s.dp.diskin ∧ (State.trySlot s).dp.wprot = s.dp.wprot ∧ (State.trySlot s).dp.trk0 = s.dp.trk0 ∧ (State.trySlot s).dp.wgate = s.dp.wgate := by
  simp only [State.trySlot]
  repeat' split
  all_goals simp

@[simp] theorem State.startRead_kept (t : Nat) (s : State) :
    (State.startRead t s).pending = s.pending ∧ (State.startRead t s).now = s.now ∧ (State.startRead t s).station = s.station ∧ (State.startRead t s).boot = s.boot ∧ (State.startRead t s).du = s.du ∧ (State.startRead t s).cs = s.cs ∧ (State.startRead t s).tb = s.tb ∧ (State.startRead t s).vu = s.vu ∧ (State.startRead t s).pc = s.pc ∧ (State.startRead t s).lc.presence = s.lc.presence ∧ (State.startRead t s).lc.counters = s.lc.counters ∧ (State.startRead t s).lc.foreign = s.lc.foreign ∧ (State.startRead t s).lc.view = s.lc.view ∧ (State.startRead t s).lc.deaf = s.lc.deaf ∧ (State.startRead t s).jc.record.map (·.fixed) = s.jc.record.map (·.fixed) ∧ (State.startRead t s).jc.record.map (·.account) = s.jc.record.map (·.account) ∧ (State.startRead t s).jc.record.map (·.state) = s.jc.record.map (·.state) ∧ (State.startRead t s).jc.record.map (·.mark) = s.jc.record.map (·.mark) ∧ (State.startRead t s).jc.record.map (·.departed) = s.jc.record.map (·.departed) ∧ (State.startRead t s).jc.nextBase = s.jc.nextBase ∧ (State.startRead t s).jc.seq = s.jc.seq ∧ (State.startRead t s).store.mem = s.store.mem ∧ (State.startRead t s).store.fills = s.store.fills ∧ (State.startRead t s).store.allowance = s.store.allowance ∧ (State.startRead t s).ss.present = s.ss.present ∧ (State.startRead t s).dp.diskin = s.dp.diskin ∧ (State.startRead t s).dp.wprot = s.dp.wprot ∧ (State.startRead t s).dp.trk0 = s.dp.trk0 ∧ (State.startRead t s).dp.wgate = s.dp.wgate := by
  simp [State.startRead]

@[simp] theorem State.readGood_kept (r : Recipe) (m : MasterRead) (i : Nat) (s : State) :
    (State.readGood r m i s).pending = s.pending ∧ (State.readGood r m i s).now = s.now ∧ (State.readGood r m i s).station = s.station ∧ (State.readGood r m i s).boot = s.boot ∧ (State.readGood r m i s).cs = s.cs ∧ (State.readGood r m i s).tb = s.tb ∧ (State.readGood r m i s).vu = s.vu ∧ (State.readGood r m i s).pc = s.pc ∧ (State.readGood r m i s).lc.presence = s.lc.presence ∧ (State.readGood r m i s).lc.counters = s.lc.counters ∧ (State.readGood r m i s).lc.foreign = s.lc.foreign ∧ (State.readGood r m i s).lc.view = s.lc.view ∧ (State.readGood r m i s).lc.deaf = s.lc.deaf ∧ (State.readGood r m i s).jc.nextBase = s.jc.nextBase ∧ (State.readGood r m i s).jc.seq = s.jc.seq ∧ (State.readGood r m i s).store.mem = s.store.mem ∧ (State.readGood r m i s).store.fills = s.store.fills ∧ (State.readGood r m i s).store.allowance = s.store.allowance ∧ (State.readGood r m i s).ss.present = s.ss.present ∧ (State.readGood r m i s).dp.diskin = s.dp.diskin ∧ (State.readGood r m i s).dp.wprot = s.dp.wprot ∧ (State.readGood r m i s).dp.trk0 = s.dp.trk0 ∧ (State.readGood r m i s).dp.wgate = s.dp.wgate ∧ (State.readGood r m i s).jc.record.map (·.fixed) = s.jc.record.map (·.fixed) ∧ (State.readGood r m i s).jc.record.map (·.account) = s.jc.record.map (·.account) ∧ (State.readGood r m i s).jc.record.map (·.state) = s.jc.record.map (·.state) ∧ (State.readGood r m i s).jc.record.map (·.mark) = s.jc.record.map (·.mark) ∧ (State.readGood r m i s).jc.record.map (·.departed) = s.jc.record.map (·.departed) := by
  simp [State.readGood]

@[simp] theorem State.serve_kept (t : Nat) (s : State) :
    (State.serve t s).pending = s.pending ∧ (State.serve t s).now = s.now ∧ (State.serve t s).station = s.station ∧ (State.serve t s).boot = s.boot ∧ (State.serve t s).du = s.du ∧ (State.serve t s).cs = s.cs ∧ (State.serve t s).tb = s.tb ∧ (State.serve t s).vu = s.vu ∧ (State.serve t s).pc = s.pc ∧ (State.serve t s).lc.presence = s.lc.presence ∧ (State.serve t s).lc.counters = s.lc.counters ∧ (State.serve t s).lc.foreign = s.lc.foreign ∧ (State.serve t s).lc.view = s.lc.view ∧ (State.serve t s).lc.deaf = s.lc.deaf ∧ (State.serve t s).jc.record.map (·.fixed) = s.jc.record.map (·.fixed) ∧ (State.serve t s).jc.record.map (·.account) = s.jc.record.map (·.account) ∧ (State.serve t s).jc.record.map (·.state) = s.jc.record.map (·.state) ∧ (State.serve t s).jc.record.map (·.mark) = s.jc.record.map (·.mark) ∧ (State.serve t s).jc.record.map (·.departed) = s.jc.record.map (·.departed) ∧ (State.serve t s).jc.nextBase = s.jc.nextBase ∧ (State.serve t s).jc.seq = s.jc.seq ∧ (State.serve t s).store.mem = s.store.mem ∧ (State.serve t s).store.fills = s.store.fills ∧ (State.serve t s).store.allowance = s.store.allowance ∧ (State.serve t s).ss.present = s.ss.present ∧ (State.serve t s).dp.diskin = s.dp.diskin ∧ (State.serve t s).dp.wprot = s.dp.wprot ∧ (State.serve t s).dp.trk0 = s.dp.trk0 ∧ (State.serve t s).dp.wgate = s.dp.wgate := by
  simp only [State.serve]
  repeat' split
  all_goals simp

@[simp] theorem State.decision_kept (s : State) :
    (State.decision s).pending = s.pending ∧ (State.decision s).now = s.now ∧ (State.decision s).station = s.station ∧ (State.decision s).boot = s.boot ∧ (State.decision s).cs = s.cs ∧ (State.decision s).tb = s.tb ∧ (State.decision s).vu = s.vu ∧ (State.decision s).pc = s.pc ∧ (State.decision s).lc.presence = s.lc.presence ∧ (State.decision s).lc.counters = s.lc.counters ∧ (State.decision s).lc.foreign = s.lc.foreign ∧ (State.decision s).lc.view = s.lc.view ∧ (State.decision s).lc.deaf = s.lc.deaf ∧ (State.decision s).jc.record.map (·.fixed) = s.jc.record.map (·.fixed) ∧ (State.decision s).jc.record.map (·.account) = s.jc.record.map (·.account) ∧ (State.decision s).jc.record.map (·.state) = s.jc.record.map (·.state) ∧ (State.decision s).jc.record.map (·.mark) = s.jc.record.map (·.mark) ∧ (State.decision s).jc.record.map (·.departed) = s.jc.record.map (·.departed) ∧ (State.decision s).jc.nextBase = s.jc.nextBase ∧ (State.decision s).jc.seq = s.jc.seq ∧ (State.decision s).store.mem = s.store.mem ∧ (State.decision s).store.fills = s.store.fills ∧ (State.decision s).store.allowance = s.store.allowance ∧ (State.decision s).ss.present = s.ss.present ∧ (State.decision s).dp.diskin = s.dp.diskin ∧ (State.decision s).dp.wprot = s.dp.wprot ∧ (State.decision s).dp.trk0 = s.dp.trk0 ∧ (State.decision s).dp.wgate = s.dp.wgate := by
  simp only [State.decision]
  repeat' split
  all_goals simp

@[simp] theorem State.serveAppended_kept (s : State) :
    (State.serveAppended s).pending = s.pending ∧ (State.serveAppended s).now = s.now ∧ (State.serveAppended s).station = s.station ∧ (State.serveAppended s).boot = s.boot ∧ (State.serveAppended s).cs = s.cs ∧ (State.serveAppended s).tb = s.tb ∧ (State.serveAppended s).vu = s.vu ∧ (State.serveAppended s).pc = s.pc ∧ (State.serveAppended s).lc.presence = s.lc.presence ∧ (State.serveAppended s).lc.counters = s.lc.counters ∧ (State.serveAppended s).lc.foreign = s.lc.foreign ∧ (State.serveAppended s).lc.view = s.lc.view ∧ (State.serveAppended s).lc.deaf = s.lc.deaf ∧ (State.serveAppended s).jc.record.map (·.fixed) = s.jc.record.map (·.fixed) ∧ (State.serveAppended s).jc.record.map (·.account) = s.jc.record.map (·.account) ∧ (State.serveAppended s).jc.record.map (·.state) = s.jc.record.map (·.state) ∧ (State.serveAppended s).jc.record.map (·.mark) = s.jc.record.map (·.mark) ∧ (State.serveAppended s).jc.record.map (·.departed) = s.jc.record.map (·.departed) ∧ (State.serveAppended s).jc.nextBase = s.jc.nextBase ∧ (State.serveAppended s).jc.seq = s.jc.seq ∧ (State.serveAppended s).store.mem = s.store.mem ∧ (State.serveAppended s).store.fills = s.store.fills ∧ (State.serveAppended s).store.allowance = s.store.allowance ∧ (State.serveAppended s).ss.present = s.ss.present ∧ (State.serveAppended s).dp.diskin = s.dp.diskin ∧ (State.serveAppended s).dp.wprot = s.dp.wprot ∧ (State.serveAppended s).dp.trk0 = s.dp.trk0 ∧ (State.serveAppended s).dp.wgate = s.dp.wgate := by
  simp only [State.serveAppended]
  repeat' split
  all_goals simp

@[simp] theorem State.restoreEnds_kept (s : State) :
    (State.restoreEnds s).pending = s.pending ∧ (State.restoreEnds s).now = s.now ∧ (State.restoreEnds s).station = s.station ∧ (State.restoreEnds s).boot = s.boot ∧ (State.restoreEnds s).jc = s.jc ∧ (State.restoreEnds s).store = s.store ∧ (State.restoreEnds s).du = s.du ∧ (State.restoreEnds s).cs = s.cs ∧ (State.restoreEnds s).tb = s.tb ∧ (State.restoreEnds s).vu = s.vu ∧ (State.restoreEnds s).dp = s.dp ∧ (State.restoreEnds s).pc = s.pc ∧ (State.restoreEnds s).lc.presence = s.lc.presence ∧ (State.restoreEnds s).lc.counters = s.lc.counters ∧ (State.restoreEnds s).lc.foreign = s.lc.foreign ∧ (State.restoreEnds s).lc.view = s.lc.view ∧ (State.restoreEnds s).lc.deaf = s.lc.deaf ∧ (State.restoreEnds s).ss.state = s.ss.state ∧ (State.restoreEnds s).ss.present = s.ss.present := by
  simp [State.restoreEnds]

@[simp] theorem State.freeReleased_kept (t : Nat) (s : State) :
    (State.freeReleased t s).pending = s.pending ∧ (State.freeReleased t s).now = s.now ∧ (State.freeReleased t s).station = s.station ∧ (State.freeReleased t s).boot = s.boot ∧ (State.freeReleased t s).lc = s.lc ∧ (State.freeReleased t s).du = s.du ∧ (State.freeReleased t s).cs = s.cs ∧ (State.freeReleased t s).ss = s.ss ∧ (State.freeReleased t s).tb = s.tb ∧ (State.freeReleased t s).vu = s.vu ∧ (State.freeReleased t s).dp = s.dp ∧ (State.freeReleased t s).pc = s.pc ∧ (State.freeReleased t s).jc.nextBase = s.jc.nextBase ∧ (State.freeReleased t s).jc.seq = s.jc.seq ∧ (State.freeReleased t s).store.mem = s.store.mem ∧ (State.freeReleased t s).store.fills = s.store.fills ∧ (State.freeReleased t s).store.allowance = s.store.allowance ∧ (State.freeReleased t s).jc.record.map (·.fixed) = s.jc.record.map (·.fixed) ∧ (State.freeReleased t s).jc.record.map (·.account) = s.jc.record.map (·.account) ∧ (State.freeReleased t s).jc.record.map (·.state) = s.jc.record.map (·.state) ∧ (State.freeReleased t s).jc.record.map (·.mark) = s.jc.record.map (·.mark) ∧ (State.freeReleased t s).jc.record.map (·.departed) = s.jc.record.map (·.departed) := by
  simp only [State.freeReleased]
  repeat' split
  all_goals simp

@[simp] theorem State.clearReread_kept (t : Nat) (s : State) :
    (State.clearReread t s).pending = s.pending ∧ (State.clearReread t s).now = s.now ∧ (State.clearReread t s).station = s.station ∧ (State.clearReread t s).boot = s.boot ∧ (State.clearReread t s).lc = s.lc ∧ (State.clearReread t s).jc = s.jc ∧ (State.clearReread t s).store = s.store ∧ (State.clearReread t s).du = s.du ∧ (State.clearReread t s).cs = s.cs ∧ (State.clearReread t s).tb = s.tb ∧ (State.clearReread t s).vu = s.vu ∧ (State.clearReread t s).dp = s.dp ∧ (State.clearReread t s).pc = s.pc ∧ (State.clearReread t s).ss.state = s.ss.state ∧ (State.clearReread t s).ss.present = s.ss.present := by
  simp [State.clearReread]

@[simp] theorem State.sourceReleased_kept (t : Nat) (status : ReleaseStatus) (reason : ReleaseReason) (s : State) :
    (State.sourceReleased t status reason s).pending = s.pending ∧ (State.sourceReleased t status reason s).now = s.now ∧ (State.sourceReleased t status reason s).station = s.station ∧ (State.sourceReleased t status reason s).boot = s.boot ∧ (State.sourceReleased t status reason s).cs = s.cs ∧ (State.sourceReleased t status reason s).tb = s.tb ∧ (State.sourceReleased t status reason s).vu = s.vu ∧ (State.sourceReleased t status reason s).pc = s.pc ∧ (State.sourceReleased t status reason s).lc.presence = s.lc.presence ∧ (State.sourceReleased t status reason s).lc.counters = s.lc.counters ∧ (State.sourceReleased t status reason s).lc.foreign = s.lc.foreign ∧ (State.sourceReleased t status reason s).lc.view = s.lc.view ∧ (State.sourceReleased t status reason s).lc.deaf = s.lc.deaf ∧ (State.sourceReleased t status reason s).jc.nextBase = s.jc.nextBase ∧ (State.sourceReleased t status reason s).jc.seq = s.jc.seq ∧ (State.sourceReleased t status reason s).store.mem = s.store.mem ∧ (State.sourceReleased t status reason s).store.fills = s.store.fills ∧ (State.sourceReleased t status reason s).store.allowance = s.store.allowance ∧ (State.sourceReleased t status reason s).ss.present = s.ss.present ∧ (State.sourceReleased t status reason s).dp.diskin = s.dp.diskin ∧ (State.sourceReleased t status reason s).dp.wprot = s.dp.wprot ∧ (State.sourceReleased t status reason s).dp.trk0 = s.dp.trk0 ∧ (State.sourceReleased t status reason s).dp.wgate = s.dp.wgate ∧ (State.sourceReleased t status reason s).jc.record.map (·.fixed) = s.jc.record.map (·.fixed) ∧ (State.sourceReleased t status reason s).jc.record.map (·.account) = s.jc.record.map (·.account) ∧ (State.sourceReleased t status reason s).jc.record.map (·.state) = s.jc.record.map (·.state) ∧ (State.sourceReleased t status reason s).jc.record.map (·.mark) = s.jc.record.map (·.mark) ∧ (State.sourceReleased t status reason s).jc.record.map (·.departed) = s.jc.record.map (·.departed) := by
  simp only [State.sourceReleased]
  repeat' split
  all_goals simp

@[simp] theorem State.sourceWithdrawn_kept (t : Nat) (reason : ReleaseReason) (s : State) :
    (State.sourceWithdrawn t reason s).pending = s.pending ∧ (State.sourceWithdrawn t reason s).now = s.now ∧ (State.sourceWithdrawn t reason s).station = s.station ∧ (State.sourceWithdrawn t reason s).boot = s.boot ∧ (State.sourceWithdrawn t reason s).du = s.du ∧ (State.sourceWithdrawn t reason s).cs = s.cs ∧ (State.sourceWithdrawn t reason s).tb = s.tb ∧ (State.sourceWithdrawn t reason s).vu = s.vu ∧ (State.sourceWithdrawn t reason s).pc = s.pc ∧ (State.sourceWithdrawn t reason s).lc.presence = s.lc.presence ∧ (State.sourceWithdrawn t reason s).lc.counters = s.lc.counters ∧ (State.sourceWithdrawn t reason s).lc.foreign = s.lc.foreign ∧ (State.sourceWithdrawn t reason s).lc.view = s.lc.view ∧ (State.sourceWithdrawn t reason s).lc.deaf = s.lc.deaf ∧ (State.sourceWithdrawn t reason s).jc.nextBase = s.jc.nextBase ∧ (State.sourceWithdrawn t reason s).jc.seq = s.jc.seq ∧ (State.sourceWithdrawn t reason s).store.mem = s.store.mem ∧ (State.sourceWithdrawn t reason s).store.fills = s.store.fills ∧ (State.sourceWithdrawn t reason s).store.allowance = s.store.allowance ∧ (State.sourceWithdrawn t reason s).ss.present = s.ss.present ∧ (State.sourceWithdrawn t reason s).dp.diskin = s.dp.diskin ∧ (State.sourceWithdrawn t reason s).dp.wprot = s.dp.wprot ∧ (State.sourceWithdrawn t reason s).dp.trk0 = s.dp.trk0 ∧ (State.sourceWithdrawn t reason s).dp.wgate = s.dp.wgate ∧ (State.sourceWithdrawn t reason s).jc.record.map (·.fixed) = s.jc.record.map (·.fixed) ∧ (State.sourceWithdrawn t reason s).jc.record.map (·.account) = s.jc.record.map (·.account) ∧ (State.sourceWithdrawn t reason s).jc.record.map (·.state) = s.jc.record.map (·.state) ∧ (State.sourceWithdrawn t reason s).jc.record.map (·.mark) = s.jc.record.map (·.mark) ∧ (State.sourceWithdrawn t reason s).jc.record.map (·.departed) = s.jc.record.map (·.departed) := by
  simp only [State.sourceWithdrawn]
  repeat' split
  all_goals simp

@[simp] theorem State.sourceCutOff_kept (t : Nat) (reason : ReleaseReason) (s : State) :
    (State.sourceCutOff t reason s).pending = s.pending ∧ (State.sourceCutOff t reason s).now = s.now ∧ (State.sourceCutOff t reason s).station = s.station ∧ (State.sourceCutOff t reason s).boot = s.boot ∧ (State.sourceCutOff t reason s).du = s.du ∧ (State.sourceCutOff t reason s).cs = s.cs ∧ (State.sourceCutOff t reason s).tb = s.tb ∧ (State.sourceCutOff t reason s).vu = s.vu ∧ (State.sourceCutOff t reason s).pc = s.pc ∧ (State.sourceCutOff t reason s).lc.presence = s.lc.presence ∧ (State.sourceCutOff t reason s).lc.counters = s.lc.counters ∧ (State.sourceCutOff t reason s).lc.foreign = s.lc.foreign ∧ (State.sourceCutOff t reason s).lc.view = s.lc.view ∧ (State.sourceCutOff t reason s).lc.deaf = s.lc.deaf ∧ (State.sourceCutOff t reason s).jc.nextBase = s.jc.nextBase ∧ (State.sourceCutOff t reason s).jc.seq = s.jc.seq ∧ (State.sourceCutOff t reason s).store.mem = s.store.mem ∧ (State.sourceCutOff t reason s).store.fills = s.store.fills ∧ (State.sourceCutOff t reason s).store.allowance = s.store.allowance ∧ (State.sourceCutOff t reason s).ss.present = s.ss.present ∧ (State.sourceCutOff t reason s).dp.diskin = s.dp.diskin ∧ (State.sourceCutOff t reason s).dp.wprot = s.dp.wprot ∧ (State.sourceCutOff t reason s).dp.trk0 = s.dp.trk0 ∧ (State.sourceCutOff t reason s).dp.wgate = s.dp.wgate ∧ (State.sourceCutOff t reason s).jc.record.map (·.fixed) = s.jc.record.map (·.fixed) ∧ (State.sourceCutOff t reason s).jc.record.map (·.account) = s.jc.record.map (·.account) ∧ (State.sourceCutOff t reason s).jc.record.map (·.state) = s.jc.record.map (·.state) ∧ (State.sourceCutOff t reason s).jc.record.map (·.mark) = s.jc.record.map (·.mark) ∧ (State.sourceCutOff t reason s).jc.record.map (·.departed) = s.jc.record.map (·.departed) := by
  simp only [State.sourceCutOff]
  repeat' split
  all_goals simp

@[simp] theorem State.sourceHomeEnd_kept (good : Bool) (s : State) :
    (State.sourceHomeEnd good s).pending = s.pending ∧ (State.sourceHomeEnd good s).now = s.now ∧ (State.sourceHomeEnd good s).station = s.station ∧ (State.sourceHomeEnd good s).boot = s.boot ∧ (State.sourceHomeEnd good s).cs = s.cs ∧ (State.sourceHomeEnd good s).tb = s.tb ∧ (State.sourceHomeEnd good s).vu = s.vu ∧ (State.sourceHomeEnd good s).pc = s.pc ∧ (State.sourceHomeEnd good s).lc.presence = s.lc.presence ∧ (State.sourceHomeEnd good s).lc.counters = s.lc.counters ∧ (State.sourceHomeEnd good s).lc.foreign = s.lc.foreign ∧ (State.sourceHomeEnd good s).lc.view = s.lc.view ∧ (State.sourceHomeEnd good s).lc.deaf = s.lc.deaf ∧ (State.sourceHomeEnd good s).jc.record.map (·.fixed) = s.jc.record.map (·.fixed) ∧ (State.sourceHomeEnd good s).jc.record.map (·.account) = s.jc.record.map (·.account) ∧ (State.sourceHomeEnd good s).jc.record.map (·.state) = s.jc.record.map (·.state) ∧ (State.sourceHomeEnd good s).jc.record.map (·.mark) = s.jc.record.map (·.mark) ∧ (State.sourceHomeEnd good s).jc.record.map (·.departed) = s.jc.record.map (·.departed) ∧ (State.sourceHomeEnd good s).jc.nextBase = s.jc.nextBase ∧ (State.sourceHomeEnd good s).jc.seq = s.jc.seq ∧ (State.sourceHomeEnd good s).store.mem = s.store.mem ∧ (State.sourceHomeEnd good s).store.fills = s.store.fills ∧ (State.sourceHomeEnd good s).store.allowance = s.store.allowance ∧ (State.sourceHomeEnd good s).ss.present = s.ss.present ∧ (State.sourceHomeEnd good s).dp.diskin = s.dp.diskin ∧ (State.sourceHomeEnd good s).dp.wprot = s.dp.wprot ∧ (State.sourceHomeEnd good s).dp.trk0 = s.dp.trk0 ∧ (State.sourceHomeEnd good s).dp.wgate = s.dp.wgate := by
  simp only [State.sourceHomeEnd]
  repeat' split
  all_goals simp

@[simp] theorem State.sourceQualified_kept (s : State) :
    (State.sourceQualified s).pending = s.pending ∧ (State.sourceQualified s).now = s.now ∧ (State.sourceQualified s).station = s.station ∧ (State.sourceQualified s).boot = s.boot ∧ (State.sourceQualified s).cs = s.cs ∧ (State.sourceQualified s).tb = s.tb ∧ (State.sourceQualified s).vu = s.vu ∧ (State.sourceQualified s).pc = s.pc ∧ (State.sourceQualified s).lc.presence = s.lc.presence ∧ (State.sourceQualified s).lc.counters = s.lc.counters ∧ (State.sourceQualified s).lc.foreign = s.lc.foreign ∧ (State.sourceQualified s).lc.view = s.lc.view ∧ (State.sourceQualified s).lc.deaf = s.lc.deaf ∧ (State.sourceQualified s).jc.record.map (·.fixed) = s.jc.record.map (·.fixed) ∧ (State.sourceQualified s).jc.record.map (·.account) = s.jc.record.map (·.account) ∧ (State.sourceQualified s).jc.record.map (·.state) = s.jc.record.map (·.state) ∧ (State.sourceQualified s).jc.record.map (·.mark) = s.jc.record.map (·.mark) ∧ (State.sourceQualified s).jc.record.map (·.departed) = s.jc.record.map (·.departed) ∧ (State.sourceQualified s).jc.nextBase = s.jc.nextBase ∧ (State.sourceQualified s).jc.seq = s.jc.seq ∧ (State.sourceQualified s).store.mem = s.store.mem ∧ (State.sourceQualified s).store.fills = s.store.fills ∧ (State.sourceQualified s).store.allowance = s.store.allowance ∧ (State.sourceQualified s).ss.present = s.ss.present ∧ (State.sourceQualified s).dp.diskin = s.dp.diskin ∧ (State.sourceQualified s).dp.wprot = s.dp.wprot ∧ (State.sourceQualified s).dp.trk0 = s.dp.trk0 ∧ (State.sourceQualified s).dp.wgate = s.dp.wgate := by
  simp only [State.sourceQualified]
  repeat' split
  all_goals simp

@[simp] theorem State.sourceNotQualified_kept (s : State) :
    (State.sourceNotQualified s).pending = s.pending ∧ (State.sourceNotQualified s).now = s.now ∧ (State.sourceNotQualified s).station = s.station ∧ (State.sourceNotQualified s).boot = s.boot ∧ (State.sourceNotQualified s).du = s.du ∧ (State.sourceNotQualified s).cs = s.cs ∧ (State.sourceNotQualified s).tb = s.tb ∧ (State.sourceNotQualified s).vu = s.vu ∧ (State.sourceNotQualified s).pc = s.pc ∧ (State.sourceNotQualified s).lc.presence = s.lc.presence ∧ (State.sourceNotQualified s).lc.counters = s.lc.counters ∧ (State.sourceNotQualified s).lc.foreign = s.lc.foreign ∧ (State.sourceNotQualified s).lc.view = s.lc.view ∧ (State.sourceNotQualified s).lc.deaf = s.lc.deaf ∧ (State.sourceNotQualified s).jc.record.map (·.fixed) = s.jc.record.map (·.fixed) ∧ (State.sourceNotQualified s).jc.record.map (·.account) = s.jc.record.map (·.account) ∧ (State.sourceNotQualified s).jc.record.map (·.state) = s.jc.record.map (·.state) ∧ (State.sourceNotQualified s).jc.record.map (·.mark) = s.jc.record.map (·.mark) ∧ (State.sourceNotQualified s).jc.record.map (·.departed) = s.jc.record.map (·.departed) ∧ (State.sourceNotQualified s).jc.nextBase = s.jc.nextBase ∧ (State.sourceNotQualified s).jc.seq = s.jc.seq ∧ (State.sourceNotQualified s).store.mem = s.store.mem ∧ (State.sourceNotQualified s).store.fills = s.store.fills ∧ (State.sourceNotQualified s).store.allowance = s.store.allowance ∧ (State.sourceNotQualified s).ss.state = s.ss.state ∧ (State.sourceNotQualified s).ss.present = s.ss.present ∧ (State.sourceNotQualified s).dp.diskin = s.dp.diskin ∧ (State.sourceNotQualified s).dp.wprot = s.dp.wprot ∧ (State.sourceNotQualified s).dp.trk0 = s.dp.trk0 ∧ (State.sourceNotQualified s).dp.wgate = s.dp.wgate := by
  simp only [State.sourceNotQualified]
  repeat' split
  all_goals simp

@[simp] theorem State.sourceNoIndex_kept (s : State) :
    (State.sourceNoIndex s).pending = s.pending ∧ (State.sourceNoIndex s).now = s.now ∧ (State.sourceNoIndex s).station = s.station ∧ (State.sourceNoIndex s).boot = s.boot ∧ (State.sourceNoIndex s).du = s.du ∧ (State.sourceNoIndex s).cs = s.cs ∧ (State.sourceNoIndex s).tb = s.tb ∧ (State.sourceNoIndex s).vu = s.vu ∧ (State.sourceNoIndex s).pc = s.pc ∧ (State.sourceNoIndex s).lc.presence = s.lc.presence ∧ (State.sourceNoIndex s).lc.counters = s.lc.counters ∧ (State.sourceNoIndex s).lc.foreign = s.lc.foreign ∧ (State.sourceNoIndex s).lc.view = s.lc.view ∧ (State.sourceNoIndex s).lc.deaf = s.lc.deaf ∧ (State.sourceNoIndex s).jc.record.map (·.fixed) = s.jc.record.map (·.fixed) ∧ (State.sourceNoIndex s).jc.record.map (·.account) = s.jc.record.map (·.account) ∧ (State.sourceNoIndex s).jc.record.map (·.state) = s.jc.record.map (·.state) ∧ (State.sourceNoIndex s).jc.record.map (·.mark) = s.jc.record.map (·.mark) ∧ (State.sourceNoIndex s).jc.record.map (·.departed) = s.jc.record.map (·.departed) ∧ (State.sourceNoIndex s).jc.nextBase = s.jc.nextBase ∧ (State.sourceNoIndex s).jc.seq = s.jc.seq ∧ (State.sourceNoIndex s).store.mem = s.store.mem ∧ (State.sourceNoIndex s).store.fills = s.store.fills ∧ (State.sourceNoIndex s).store.allowance = s.store.allowance ∧ (State.sourceNoIndex s).ss.state = s.ss.state ∧ (State.sourceNoIndex s).ss.present = s.ss.present ∧ (State.sourceNoIndex s).dp.diskin = s.dp.diskin ∧ (State.sourceNoIndex s).dp.wprot = s.dp.wprot ∧ (State.sourceNoIndex s).dp.trk0 = s.dp.trk0 ∧ (State.sourceNoIndex s).dp.wgate = s.dp.wgate := by
  simp only [State.sourceNoIndex]
  repeat' split
  all_goals simp

@[simp] theorem State.masterRemoved_kept (s : State) :
    (State.masterRemoved s).pending = s.pending ∧ (State.masterRemoved s).now = s.now ∧ (State.masterRemoved s).station = s.station ∧ (State.masterRemoved s).boot = s.boot ∧ (State.masterRemoved s).du = s.du ∧ (State.masterRemoved s).cs = s.cs ∧ (State.masterRemoved s).vu = s.vu ∧ (State.masterRemoved s).pc = s.pc ∧ (State.masterRemoved s).lc.presence = s.lc.presence ∧ (State.masterRemoved s).lc.counters = s.lc.counters ∧ (State.masterRemoved s).lc.foreign = s.lc.foreign ∧ (State.masterRemoved s).lc.view = s.lc.view ∧ (State.masterRemoved s).lc.deaf = s.lc.deaf ∧ (State.masterRemoved s).jc.record.map (·.fixed) = s.jc.record.map (·.fixed) ∧ (State.masterRemoved s).jc.record.map (·.account) = s.jc.record.map (·.account) ∧ (State.masterRemoved s).jc.record.map (·.state) = s.jc.record.map (·.state) ∧ (State.masterRemoved s).jc.record.map (·.mark) = s.jc.record.map (·.mark) ∧ (State.masterRemoved s).jc.record.map (·.departed) = s.jc.record.map (·.departed) ∧ (State.masterRemoved s).jc.nextBase = s.jc.nextBase ∧ (State.masterRemoved s).jc.seq = s.jc.seq ∧ (State.masterRemoved s).store.mem = s.store.mem ∧ (State.masterRemoved s).store.fills = s.store.fills ∧ (State.masterRemoved s).store.allowance = s.store.allowance ∧ (State.masterRemoved s).ss.state = s.ss.state ∧ (State.masterRemoved s).dp.diskin = s.dp.diskin ∧ (State.masterRemoved s).dp.wprot = s.dp.wprot ∧ (State.masterRemoved s).dp.trk0 = s.dp.trk0 := by
  simp only [State.masterRemoved]
  repeat' split
  all_goals simp

@[simp] theorem State.sourceOpen_kept (s : State) :
    (State.sourceOpen s).pending = s.pending ∧ (State.sourceOpen s).now = s.now ∧ (State.sourceOpen s).station = s.station ∧ (State.sourceOpen s).boot = s.boot ∧ (State.sourceOpen s).du = s.du ∧ (State.sourceOpen s).cs = s.cs ∧ (State.sourceOpen s).tb = s.tb ∧ (State.sourceOpen s).vu = s.vu ∧ (State.sourceOpen s).pc = s.pc ∧ (State.sourceOpen s).lc.presence = s.lc.presence ∧ (State.sourceOpen s).lc.counters = s.lc.counters ∧ (State.sourceOpen s).lc.foreign = s.lc.foreign ∧ (State.sourceOpen s).lc.view = s.lc.view ∧ (State.sourceOpen s).lc.deaf = s.lc.deaf ∧ (State.sourceOpen s).jc.record.map (·.fixed) = s.jc.record.map (·.fixed) ∧ (State.sourceOpen s).jc.record.map (·.account) = s.jc.record.map (·.account) ∧ (State.sourceOpen s).jc.record.map (·.state) = s.jc.record.map (·.state) ∧ (State.sourceOpen s).jc.record.map (·.mark) = s.jc.record.map (·.mark) ∧ (State.sourceOpen s).jc.record.map (·.departed) = s.jc.record.map (·.departed) ∧ (State.sourceOpen s).jc.nextBase = s.jc.nextBase ∧ (State.sourceOpen s).jc.seq = s.jc.seq ∧ (State.sourceOpen s).store.mem = s.store.mem ∧ (State.sourceOpen s).store.fills = s.store.fills ∧ (State.sourceOpen s).store.allowance = s.store.allowance ∧ (State.sourceOpen s).dp.diskin = s.dp.diskin ∧ (State.sourceOpen s).dp.wprot = s.dp.wprot ∧ (State.sourceOpen s).dp.trk0 = s.dp.trk0 ∧ (State.sourceOpen s).dp.wgate = s.dp.wgate := by
  simp only [State.sourceOpen]
  repeat' split
  all_goals simp

@[simp] theorem State.sourceEnding_kept (s : State) :
    (State.sourceEnding s).pending = s.pending ∧ (State.sourceEnding s).now = s.now ∧ (State.sourceEnding s).station = s.station ∧ (State.sourceEnding s).boot = s.boot ∧ (State.sourceEnding s).lc = s.lc ∧ (State.sourceEnding s).du = s.du ∧ (State.sourceEnding s).cs = s.cs ∧ (State.sourceEnding s).vu = s.vu ∧ (State.sourceEnding s).pc = s.pc ∧ (State.sourceEnding s).jc.nextBase = s.jc.nextBase ∧ (State.sourceEnding s).jc.seq = s.jc.seq ∧ (State.sourceEnding s).store.mem = s.store.mem ∧ (State.sourceEnding s).store.fills = s.store.fills ∧ (State.sourceEnding s).store.allowance = s.store.allowance ∧ (State.sourceEnding s).dp.diskin = s.dp.diskin ∧ (State.sourceEnding s).dp.wprot = s.dp.wprot ∧ (State.sourceEnding s).dp.trk0 = s.dp.trk0 ∧ (State.sourceEnding s).jc.record.map (·.fixed) = s.jc.record.map (·.fixed) ∧ (State.sourceEnding s).jc.record.map (·.account) = s.jc.record.map (·.account) ∧ (State.sourceEnding s).jc.record.map (·.state) = s.jc.record.map (·.state) ∧ (State.sourceEnding s).jc.record.map (·.mark) = s.jc.record.map (·.mark) ∧ (State.sourceEnding s).jc.record.map (·.departed) = s.jc.record.map (·.departed) := by
  simp only [State.sourceEnding]
  repeat' split
  all_goals simp

@[simp] theorem JobRecord.voidEntry_kept (i : StationId) (r : JobRecord) :
    (JobRecord.voidEntry i r).fixed = r.fixed ∧ (JobRecord.voidEntry i r).departed = r.departed ∧ (JobRecord.voidEntry i r).state = r.state ∧ (JobRecord.voidEntry i r).mark = r.mark ∧ (JobRecord.voidEntry i r).markAt = r.markAt ∧ (JobRecord.voidEntry i r).lastRun = r.lastRun ∧ (JobRecord.voidEntry i r).high = r.high ∧ (JobRecord.voidEntry i r).noneHeard = r.noneHeard ∧ (JobRecord.voidEntry i r).heard = r.heard ∧ (JobRecord.voidEntry i r).accepted = r.accepted ∧ (JobRecord.voidEntry i r).withdrawn = r.withdrawn ∧ (JobRecord.voidEntry i r).repair = r.repair ∧ (JobRecord.voidEntry i r).homeShort = r.homeShort := by
  simp only [JobRecord.voidEntry]
  repeat' split
  all_goals simp [State.fixed, State.account, State.jobState, State.mark, State.departed, JobRecord.fixed, JobRecord.account, Option.map_map, Function.comp_def]

@[simp] theorem JobRecord.withdrawEntry_kept (i : StationId) (r : JobRecord) :
    (JobRecord.withdrawEntry i r).fixed = r.fixed ∧ (JobRecord.withdrawEntry i r).departed = r.departed ∧ (JobRecord.withdrawEntry i r).state = r.state ∧ (JobRecord.withdrawEntry i r).mark = r.mark ∧ (JobRecord.withdrawEntry i r).markAt = r.markAt ∧ (JobRecord.withdrawEntry i r).lastRun = r.lastRun ∧ (JobRecord.withdrawEntry i r).high = r.high ∧ (JobRecord.withdrawEntry i r).noneHeard = r.noneHeard ∧ (JobRecord.withdrawEntry i r).heard = r.heard ∧ (JobRecord.withdrawEntry i r).accepted = r.accepted ∧ (JobRecord.withdrawEntry i r).void = r.void ∧ (JobRecord.withdrawEntry i r).repair = r.repair ∧ (JobRecord.withdrawEntry i r).homeShort = r.homeShort := by
  simp only [JobRecord.withdrawEntry]
  repeat' split
  all_goals simp [State.fixed, State.account, State.jobState, State.mark, State.departed, JobRecord.fixed, JobRecord.account, Option.map_map, Function.comp_def]

@[simp] theorem JobRecord.raiseHigh_kept (v carried : Nat) (r : JobRecord) :
    (JobRecord.raiseHigh v carried r).fixed = r.fixed ∧ (JobRecord.raiseHigh v carried r).departed = r.departed ∧ (JobRecord.raiseHigh v carried r).state = r.state ∧ (JobRecord.raiseHigh v carried r).mark = r.mark ∧ (JobRecord.raiseHigh v carried r).markAt = r.markAt ∧ (JobRecord.raiseHigh v carried r).lastRun = r.lastRun ∧ (JobRecord.raiseHigh v carried r).heard = r.heard ∧ (JobRecord.raiseHigh v carried r).accepted = r.accepted ∧ (JobRecord.raiseHigh v carried r).void = r.void ∧ (JobRecord.raiseHigh v carried r).withdrawn = r.withdrawn ∧ (JobRecord.raiseHigh v carried r).claims = r.claims ∧ (JobRecord.raiseHigh v carried r).repair = r.repair ∧ (JobRecord.raiseHigh v carried r).homeShort = r.homeShort := by
  simp [JobRecord.raiseHigh, State.fixed, State.account, State.jobState, State.mark, State.departed, JobRecord.fixed, JobRecord.account, Option.map_map, Function.comp_def]

@[simp] theorem JobRecord.tallyHigh_kept (v : Nat) (r : JobRecord) :
    (JobRecord.tallyHigh v r).fixed = r.fixed ∧ (JobRecord.tallyHigh v r).departed = r.departed ∧ (JobRecord.tallyHigh v r).state = r.state ∧ (JobRecord.tallyHigh v r).mark = r.mark ∧ (JobRecord.tallyHigh v r).markAt = r.markAt ∧ (JobRecord.tallyHigh v r).lastRun = r.lastRun ∧ (JobRecord.tallyHigh v r).heard = r.heard ∧ (JobRecord.tallyHigh v r).accepted = r.accepted ∧ (JobRecord.tallyHigh v r).void = r.void ∧ (JobRecord.tallyHigh v r).withdrawn = r.withdrawn ∧ (JobRecord.tallyHigh v r).claims = r.claims ∧ (JobRecord.tallyHigh v r).repair = r.repair ∧ (JobRecord.tallyHigh v r).homeShort = r.homeShort := by
  simp only [JobRecord.tallyHigh]
  repeat' split
  all_goals simp [State.fixed, State.account, State.jobState, State.mark, State.departed, JobRecord.fixed, JobRecord.account, Option.map_map, Function.comp_def]

@[simp] theorem JobRecord.enterClaim_kept (i : StationId) (v : Nat) (r : JobRecord) :
    (JobRecord.enterClaim i v r).1.fixed = r.fixed ∧ (JobRecord.enterClaim i v r).1.departed = r.departed ∧ (JobRecord.enterClaim i v r).1.state = r.state ∧ (JobRecord.enterClaim i v r).1.mark = r.mark ∧ (JobRecord.enterClaim i v r).1.markAt = r.markAt ∧ (JobRecord.enterClaim i v r).1.lastRun = r.lastRun ∧ (JobRecord.enterClaim i v r).1.high = r.high ∧ (JobRecord.enterClaim i v r).1.noneHeard = r.noneHeard ∧ (JobRecord.enterClaim i v r).1.heard = r.heard ∧ (JobRecord.enterClaim i v r).1.accepted = r.accepted ∧ (JobRecord.enterClaim i v r).1.void = r.void ∧ (JobRecord.enterClaim i v r).1.repair = r.repair ∧ (JobRecord.enterClaim i v r).1.homeShort = r.homeShort := by
  simp only [JobRecord.enterClaim]
  repeat' split
  all_goals simp [State.fixed, State.account, State.jobState, State.mark, State.departed, JobRecord.fixed, JobRecord.account, Option.map_map, Function.comp_def]

@[simp] theorem JobRecord.applyClaim_kept (i : StationId) (v carried : Nat) (r : JobRecord) :
    (JobRecord.applyClaim i v carried r).1.departed = r.departed ∧ (JobRecord.applyClaim i v carried r).1.state = r.state ∧ (JobRecord.applyClaim i v carried r).1.mark = r.mark ∧ (JobRecord.applyClaim i v carried r).1.markAt = r.markAt ∧ (JobRecord.applyClaim i v carried r).1.lastRun = r.lastRun ∧ (JobRecord.applyClaim i v carried r).1.accepted = r.accepted ∧ (JobRecord.applyClaim i v carried r).1.repair = r.repair ∧ (JobRecord.applyClaim i v carried r).1.homeShort = r.homeShort := by
  simp only [JobRecord.applyClaim]
  repeat' split
  all_goals simp

@[simp] theorem JobRecord.settleEntry_kept (i : StationId) (v : Nat) (r : JobRecord) :
    (JobRecord.settleEntry i v r).1.departed = r.departed ∧ (JobRecord.settleEntry i v r).1.state = r.state ∧ (JobRecord.settleEntry i v r).1.mark = r.mark ∧ (JobRecord.settleEntry i v r).1.markAt = r.markAt ∧ (JobRecord.settleEntry i v r).1.lastRun = r.lastRun ∧ (JobRecord.settleEntry i v r).1.high = r.high ∧ (JobRecord.settleEntry i v r).1.noneHeard = r.noneHeard ∧ (JobRecord.settleEntry i v r).1.accepted = r.accepted ∧ (JobRecord.settleEntry i v r).1.repair = r.repair ∧ (JobRecord.settleEntry i v r).1.homeShort = r.homeShort := by
  simp only [JobRecord.settleEntry]
  repeat' split
  all_goals simp

@[simp] theorem JobRecord.countTally_kept (o : DiskOutcome) (v : Nat) (r : JobRecord) :
    (JobRecord.countTally o v r).departed = r.departed ∧ (JobRecord.countTally o v r).state = r.state ∧ (JobRecord.countTally o v r).mark = r.mark ∧ (JobRecord.countTally o v r).markAt = r.markAt ∧ (JobRecord.countTally o v r).lastRun = r.lastRun ∧ (JobRecord.countTally o v r).heard = r.heard ∧ (JobRecord.countTally o v r).withdrawn = r.withdrawn ∧ (JobRecord.countTally o v r).claims = r.claims ∧ (JobRecord.countTally o v r).repair = r.repair ∧ (JobRecord.countTally o v r).homeShort = r.homeShort := by
  simp only [JobRecord.countTally]
  repeat' split
  all_goals simp

@[simp] theorem JobRecord.applyTally_kept (i : StationId) (b : TallyBody) (r : JobRecord) :
    (JobRecord.applyTally i b r).1.departed = r.departed ∧ (JobRecord.applyTally i b r).1.state = r.state ∧ (JobRecord.applyTally i b r).1.mark = r.mark ∧ (JobRecord.applyTally i b r).1.markAt = r.markAt ∧ (JobRecord.applyTally i b r).1.lastRun = r.lastRun ∧ (JobRecord.applyTally i b r).1.repair = r.repair ∧ (JobRecord.applyTally i b r).1.homeShort = r.homeShort := by
  simp only [JobRecord.applyTally]
  repeat' split
  all_goals simp

@[simp] theorem State.setNextBase_kept (g : JobRecord → Nat) (s : State) :
    (State.setNextBase g s).pending = s.pending ∧ (State.setNextBase g s).now = s.now ∧ (State.setNextBase g s).station = s.station ∧ (State.setNextBase g s).boot = s.boot ∧ (State.setNextBase g s).lc = s.lc ∧ (State.setNextBase g s).store = s.store ∧ (State.setNextBase g s).du = s.du ∧ (State.setNextBase g s).cs = s.cs ∧ (State.setNextBase g s).ss = s.ss ∧ (State.setNextBase g s).tb = s.tb ∧ (State.setNextBase g s).vu = s.vu ∧ (State.setNextBase g s).dp = s.dp ∧ (State.setNextBase g s).pc = s.pc ∧ (State.setNextBase g s).jc.record = s.jc.record ∧ (State.setNextBase g s).jc.seq = s.jc.seq := by
  simp only [State.setNextBase]
  repeat' split
  all_goals simp

@[simp] theorem State.tellClaim_kept (v : Nat) (fate : ClaimFate) (s : State) :
    (State.tellClaim v fate s).pending = s.pending ∧ (State.tellClaim v fate s).now = s.now ∧ (State.tellClaim v fate s).station = s.station ∧ (State.tellClaim v fate s).boot = s.boot ∧ (State.tellClaim v fate s).ss = s.ss ∧ (State.tellClaim v fate s).lc.presence = s.lc.presence ∧ (State.tellClaim v fate s).lc.foreign = s.lc.foreign ∧ (State.tellClaim v fate s).lc.view = s.lc.view ∧ (State.tellClaim v fate s).lc.deaf = s.lc.deaf ∧ (State.tellClaim v fate s).jc.nextBase = s.jc.nextBase ∧ (State.tellClaim v fate s).jc.seq = s.jc.seq ∧ (State.tellClaim v fate s).store.mem = s.store.mem ∧ (State.tellClaim v fate s).store.fills = s.store.fills ∧ (State.tellClaim v fate s).store.allowance = s.store.allowance ∧ (State.tellClaim v fate s).cs.paused = s.cs.paused ∧ (State.tellClaim v fate s).dp.diskin = s.dp.diskin ∧ (State.tellClaim v fate s).dp.wprot = s.dp.wprot ∧ (State.tellClaim v fate s).dp.trk0 = s.dp.trk0 ∧ (State.tellClaim v fate s).pc.params = s.pc.params ∧ (State.tellClaim v fate s).pc.directory = s.pc.directory ∧ (State.tellClaim v fate s).pc.refusal = s.pc.refusal ∧ (State.tellClaim v fate s).pc.flash = s.pc.flash ∧ (State.tellClaim v fate s).pc.sequence = s.pc.sequence ∧ (State.tellClaim v fate s).jc.record.map (·.fixed) = s.jc.record.map (·.fixed) ∧ (State.tellClaim v fate s).jc.record.map (·.account) = s.jc.record.map (·.account) ∧ (State.tellClaim v fate s).jc.record.map (·.state) = s.jc.record.map (·.state) ∧ (State.tellClaim v fate s).jc.record.map (·.mark) = s.jc.record.map (·.mark) ∧ (State.tellClaim v fate s).jc.record.map (·.departed) = s.jc.record.map (·.departed) := by
  simp only [State.tellClaim]
  repeat' split
  all_goals simp

@[simp] theorem State.enterOpen_kept (terms : JobTerms) (s : State) :
    (State.enterOpen terms s).pending = s.pending ∧ (State.enterOpen terms s).now = s.now ∧ (State.enterOpen terms s).station = s.station ∧ (State.enterOpen terms s).boot = s.boot ∧ (State.enterOpen terms s).store = s.store ∧ (State.enterOpen terms s).du = s.du ∧ (State.enterOpen terms s).cs = s.cs ∧ (State.enterOpen terms s).ss = s.ss ∧ (State.enterOpen terms s).tb = s.tb ∧ (State.enterOpen terms s).vu = s.vu ∧ (State.enterOpen terms s).dp = s.dp ∧ (State.enterOpen terms s).pc = s.pc ∧ (State.enterOpen terms s).lc.presence = s.lc.presence ∧ (State.enterOpen terms s).lc.counters = s.lc.counters ∧ (State.enterOpen terms s).lc.foreign = s.lc.foreign ∧ (State.enterOpen terms s).lc.view = s.lc.view ∧ (State.enterOpen terms s).lc.deaf = s.lc.deaf ∧ (State.enterOpen terms s).jc.record = s.jc.record ∧ (State.enterOpen terms s).jc.nextBase = s.jc.nextBase := by
  simp [State.enterOpen]

@[simp] theorem State.load_kept (selector : Fin 8) (s : State) :
    (State.load selector s).pending = s.pending ∧ (State.load selector s).now = s.now ∧ (State.load selector s).station = s.station ∧ (State.load selector s).boot = s.boot ∧ (State.load selector s).store = s.store ∧ (State.load selector s).du = s.du ∧ (State.load selector s).cs = s.cs ∧ (State.load selector s).ss = s.ss ∧ (State.load selector s).tb = s.tb ∧ (State.load selector s).vu = s.vu ∧ (State.load selector s).dp = s.dp ∧ (State.load selector s).lc.presence = s.lc.presence ∧ (State.load selector s).lc.counters = s.lc.counters ∧ (State.load selector s).lc.foreign = s.lc.foreign ∧ (State.load selector s).lc.view = s.lc.view ∧ (State.load selector s).lc.deaf = s.lc.deaf ∧ (State.load selector s).jc.record = s.jc.record ∧ (State.load selector s).jc.nextBase = s.jc.nextBase ∧ (State.load selector s).pc.params = s.pc.params ∧ (State.load selector s).pc.directory = s.pc.directory ∧ (State.load selector s).pc.history = s.pc.history ∧ (State.load selector s).pc.sequence = s.pc.sequence := by
  simp only [State.load]
  repeat' split
  all_goals simp

@[simp] theorem State.overtakenOpen_kept (s : State) :
    (State.overtakenOpen s).pending = s.pending ∧ (State.overtakenOpen s).now = s.now ∧ (State.overtakenOpen s).station = s.station ∧ (State.overtakenOpen s).boot = s.boot ∧ (State.overtakenOpen s).jc = s.jc ∧ (State.overtakenOpen s).store = s.store ∧ (State.overtakenOpen s).du = s.du ∧ (State.overtakenOpen s).cs = s.cs ∧ (State.overtakenOpen s).ss = s.ss ∧ (State.overtakenOpen s).tb = s.tb ∧ (State.overtakenOpen s).vu = s.vu ∧ (State.overtakenOpen s).dp = s.dp ∧ (State.overtakenOpen s).lc.presence = s.lc.presence ∧ (State.overtakenOpen s).lc.counters = s.lc.counters ∧ (State.overtakenOpen s).lc.foreign = s.lc.foreign ∧ (State.overtakenOpen s).lc.view = s.lc.view ∧ (State.overtakenOpen s).lc.deaf = s.lc.deaf ∧ (State.overtakenOpen s).pc.params = s.pc.params ∧ (State.overtakenOpen s).pc.directory = s.pc.directory ∧ (State.overtakenOpen s).pc.history = s.pc.history ∧ (State.overtakenOpen s).pc.sequence = s.pc.sequence := by
  simp only [State.overtakenOpen]
  repeat' split
  all_goals simp

@[simp] theorem State.createRecord_kept (f : Rx) (b : OpenBody) (recipe : Recipe) (s : State) :
    (State.createRecord f b recipe s).pending = s.pending ∧ (State.createRecord f b recipe s).now = s.now ∧ (State.createRecord f b recipe s).station = s.station ∧ (State.createRecord f b recipe s).boot = s.boot ∧ (State.createRecord f b recipe s).tb = s.tb ∧ (State.createRecord f b recipe s).vu = s.vu ∧ (State.createRecord f b recipe s).lc.presence = s.lc.presence ∧ (State.createRecord f b recipe s).lc.view = s.lc.view ∧ (State.createRecord f b recipe s).lc.deaf = s.lc.deaf ∧ (State.createRecord f b recipe s).jc.nextBase = s.jc.nextBase ∧ (State.createRecord f b recipe s).jc.seq = s.jc.seq ∧ (State.createRecord f b recipe s).store.mem = s.store.mem ∧ (State.createRecord f b recipe s).store.fills = s.store.fills ∧ (State.createRecord f b recipe s).cs.paused = s.cs.paused ∧ (State.createRecord f b recipe s).dp.diskin = s.dp.diskin ∧ (State.createRecord f b recipe s).dp.wprot = s.dp.wprot ∧ (State.createRecord f b recipe s).dp.trk0 = s.dp.trk0 ∧ (State.createRecord f b recipe s).dp.wgate = s.dp.wgate ∧ (State.createRecord f b recipe s).pc.params = s.pc.params ∧ (State.createRecord f b recipe s).pc.directory = s.pc.directory ∧ (State.createRecord f b recipe s).pc.sequence = s.pc.sequence := by
  simp only [State.createRecord]
  repeat' split
  all_goals simp

@[simp] theorem State.discardOpen_kept (f : Rx) (s : State) :
    (State.discardOpen f s).pending = s.pending ∧ (State.discardOpen f s).now = s.now ∧ (State.discardOpen f s).station = s.station ∧ (State.discardOpen f s).boot = s.boot ∧ (State.discardOpen f s).jc = s.jc ∧ (State.discardOpen f s).store = s.store ∧ (State.discardOpen f s).du = s.du ∧ (State.discardOpen f s).cs = s.cs ∧ (State.discardOpen f s).ss = s.ss ∧ (State.discardOpen f s).tb = s.tb ∧ (State.discardOpen f s).vu = s.vu ∧ (State.discardOpen f s).dp = s.dp ∧ (State.discardOpen f s).pc = s.pc ∧ (State.discardOpen f s).lc.queue = s.lc.queue ∧ (State.discardOpen f s).lc.presence = s.lc.presence ∧ (State.discardOpen f s).lc.view = s.lc.view ∧ (State.discardOpen f s).lc.deaf = s.lc.deaf := by
  simp [State.discardOpen]

@[simp] theorem State.endJob_kept (cause : EndCause) (s : State) :
    (State.endJob cause s).pending = s.pending ∧ (State.endJob cause s).now = s.now ∧ (State.endJob cause s).station = s.station ∧ (State.endJob cause s).boot = s.boot ∧ (State.endJob cause s).lc.presence = s.lc.presence ∧ (State.endJob cause s).lc.foreign = s.lc.foreign ∧ (State.endJob cause s).lc.view = s.lc.view ∧ (State.endJob cause s).lc.deaf = s.lc.deaf ∧ (State.endJob cause s).jc.nextBase = s.jc.nextBase ∧ (State.endJob cause s).jc.seq = s.jc.seq ∧ (State.endJob cause s).store.mem = s.store.mem ∧ (State.endJob cause s).dp.diskin = s.dp.diskin ∧ (State.endJob cause s).dp.wprot = s.dp.wprot ∧ (State.endJob cause s).dp.trk0 = s.dp.trk0 ∧ (State.endJob cause s).pc.params = s.pc.params ∧ (State.endJob cause s).pc.directory = s.pc.directory ∧ (State.endJob cause s).pc.refusal = s.pc.refusal ∧ (State.endJob cause s).pc.flash = s.pc.flash ∧ (State.endJob cause s).pc.sequence = s.pc.sequence := by
  simp only [State.endJob]
  repeat' split
  all_goals simp

@[simp] theorem State.ownLeaves_kept (k : Option FrameKey) (sender : StationId) (s : State) :
    (State.ownLeaves k sender s).pending = s.pending ∧ (State.ownLeaves k sender s).now = s.now ∧ (State.ownLeaves k sender s).station = s.station ∧ (State.ownLeaves k sender s).boot = s.boot ∧ (State.ownLeaves k sender s).du = s.du ∧ (State.ownLeaves k sender s).cs = s.cs ∧ (State.ownLeaves k sender s).ss = s.ss ∧ (State.ownLeaves k sender s).tb = s.tb ∧ (State.ownLeaves k sender s).vu = s.vu ∧ (State.ownLeaves k sender s).dp = s.dp ∧ (State.ownLeaves k sender s).pc = s.pc ∧ (State.ownLeaves k sender s).lc.presence = s.lc.presence ∧ (State.ownLeaves k sender s).lc.counters = s.lc.counters ∧ (State.ownLeaves k sender s).lc.foreign = s.lc.foreign ∧ (State.ownLeaves k sender s).lc.view = s.lc.view ∧ (State.ownLeaves k sender s).lc.deaf = s.lc.deaf ∧ (State.ownLeaves k sender s).jc.nextBase = s.jc.nextBase ∧ (State.ownLeaves k sender s).jc.seq = s.jc.seq ∧ (State.ownLeaves k sender s).store.mem = s.store.mem ∧ (State.ownLeaves k sender s).store.fills = s.store.fills ∧ (State.ownLeaves k sender s).store.allowance = s.store.allowance ∧ (State.ownLeaves k sender s).jc.record.map (·.fixed) = s.jc.record.map (·.fixed) ∧ (State.ownLeaves k sender s).jc.record.map (·.account) = s.jc.record.map (·.account) ∧ (State.ownLeaves k sender s).jc.record.map (·.state) = s.jc.record.map (·.state) ∧ (State.ownLeaves k sender s).jc.record.map (·.mark) = s.jc.record.map (·.mark) ∧ (State.ownLeaves k sender s).jc.record.map (·.departed) = s.jc.record.map (·.departed) := by
  simp only [State.ownLeaves]
  repeat' split
  all_goals simp

@[simp] theorem State.discardFrame_kept (raw : List Byte) (s : State) :
    (State.discardFrame raw s).pending = s.pending ∧ (State.discardFrame raw s).now = s.now ∧ (State.discardFrame raw s).station = s.station ∧ (State.discardFrame raw s).boot = s.boot ∧ (State.discardFrame raw s).jc = s.jc ∧ (State.discardFrame raw s).du = s.du ∧ (State.discardFrame raw s).cs = s.cs ∧ (State.discardFrame raw s).ss = s.ss ∧ (State.discardFrame raw s).tb = s.tb ∧ (State.discardFrame raw s).vu = s.vu ∧ (State.discardFrame raw s).dp = s.dp ∧ (State.discardFrame raw s).pc = s.pc ∧ (State.discardFrame raw s).lc.queue = s.lc.queue ∧ (State.discardFrame raw s).lc.presence = s.lc.presence ∧ (State.discardFrame raw s).lc.foreign = s.lc.foreign ∧ (State.discardFrame raw s).lc.view = s.lc.view ∧ (State.discardFrame raw s).lc.deaf = s.lc.deaf ∧ (State.discardFrame raw s).store.allowance = s.store.allowance := by
  simp [State.discardFrame]

@[simp] theorem State.setNote_kept (jobId : JobId) (s : State) :
    (State.setNote jobId s).pending = s.pending ∧ (State.setNote jobId s).now = s.now ∧ (State.setNote jobId s).station = s.station ∧ (State.setNote jobId s).boot = s.boot ∧ (State.setNote jobId s).jc = s.jc ∧ (State.setNote jobId s).store = s.store ∧ (State.setNote jobId s).du = s.du ∧ (State.setNote jobId s).cs = s.cs ∧ (State.setNote jobId s).ss = s.ss ∧ (State.setNote jobId s).tb = s.tb ∧ (State.setNote jobId s).vu = s.vu ∧ (State.setNote jobId s).dp = s.dp ∧ (State.setNote jobId s).pc = s.pc ∧ (State.setNote jobId s).lc.queue = s.lc.queue ∧ (State.setNote jobId s).lc.presence = s.lc.presence ∧ (State.setNote jobId s).lc.counters = s.lc.counters ∧ (State.setNote jobId s).lc.view = s.lc.view ∧ (State.setNote jobId s).lc.deaf = s.lc.deaf := by
  simp [State.setNote]

@[simp] theorem State.clearNote_kept (jobId : JobId) (s : State) :
    (State.clearNote jobId s).pending = s.pending ∧ (State.clearNote jobId s).now = s.now ∧ (State.clearNote jobId s).station = s.station ∧ (State.clearNote jobId s).boot = s.boot ∧ (State.clearNote jobId s).jc = s.jc ∧ (State.clearNote jobId s).store = s.store ∧ (State.clearNote jobId s).du = s.du ∧ (State.clearNote jobId s).cs = s.cs ∧ (State.clearNote jobId s).ss = s.ss ∧ (State.clearNote jobId s).tb = s.tb ∧ (State.clearNote jobId s).vu = s.vu ∧ (State.clearNote jobId s).dp = s.dp ∧ (State.clearNote jobId s).pc = s.pc ∧ (State.clearNote jobId s).lc.queue = s.lc.queue ∧ (State.clearNote jobId s).lc.presence = s.lc.presence ∧ (State.clearNote jobId s).lc.counters = s.lc.counters ∧ (State.clearNote jobId s).lc.view = s.lc.view ∧ (State.clearNote jobId s).lc.deaf = s.lc.deaf := by
  simp only [State.clearNote]
  repeat' split
  all_goals simp

@[simp] theorem State.withdrawnAtOffer_kept (t : Nat) (reason : ReleaseReason) (o : ReleaseOrigin) (s : State) :
    (State.withdrawnAtOffer t reason o s).pending = s.pending ∧ (State.withdrawnAtOffer t reason o s).now = s.now ∧ (State.withdrawnAtOffer t reason o s).station = s.station ∧ (State.withdrawnAtOffer t reason o s).boot = s.boot ∧ (State.withdrawnAtOffer t reason o s).cs = s.cs ∧ (State.withdrawnAtOffer t reason o s).tb = s.tb ∧ (State.withdrawnAtOffer t reason o s).vu = s.vu ∧ (State.withdrawnAtOffer t reason o s).pc = s.pc ∧ (State.withdrawnAtOffer t reason o s).lc.presence = s.lc.presence ∧ (State.withdrawnAtOffer t reason o s).lc.counters = s.lc.counters ∧ (State.withdrawnAtOffer t reason o s).lc.foreign = s.lc.foreign ∧ (State.withdrawnAtOffer t reason o s).lc.view = s.lc.view ∧ (State.withdrawnAtOffer t reason o s).lc.deaf = s.lc.deaf ∧ (State.withdrawnAtOffer t reason o s).jc.nextBase = s.jc.nextBase ∧ (State.withdrawnAtOffer t reason o s).jc.seq = s.jc.seq ∧ (State.withdrawnAtOffer t reason o s).store.mem = s.store.mem ∧ (State.withdrawnAtOffer t reason o s).store.fills = s.store.fills ∧ (State.withdrawnAtOffer t reason o s).store.allowance = s.store.allowance ∧ (State.withdrawnAtOffer t reason o s).ss.present = s.ss.present ∧ (State.withdrawnAtOffer t reason o s).dp.diskin = s.dp.diskin ∧ (State.withdrawnAtOffer t reason o s).dp.wprot = s.dp.wprot ∧ (State.withdrawnAtOffer t reason o s).dp.trk0 = s.dp.trk0 ∧ (State.withdrawnAtOffer t reason o s).dp.wgate = s.dp.wgate ∧ (State.withdrawnAtOffer t reason o s).jc.record.map (·.fixed) = s.jc.record.map (·.fixed) ∧ (State.withdrawnAtOffer t reason o s).jc.record.map (·.account) = s.jc.record.map (·.account) ∧ (State.withdrawnAtOffer t reason o s).jc.record.map (·.state) = s.jc.record.map (·.state) ∧ (State.withdrawnAtOffer t reason o s).jc.record.map (·.mark) = s.jc.record.map (·.mark) ∧ (State.withdrawnAtOffer t reason o s).jc.record.map (·.departed) = s.jc.record.map (·.departed) := by
  simp only [State.withdrawnAtOffer]
  repeat' split
  all_goals simp

@[simp] theorem State.wantDropped_kept (t : Nat) (s : State) :
    (State.wantDropped t s).pending = s.pending ∧ (State.wantDropped t s).now = s.now ∧ (State.wantDropped t s).station = s.station ∧ (State.wantDropped t s).boot = s.boot ∧ (State.wantDropped t s).lc = s.lc ∧ (State.wantDropped t s).jc = s.jc ∧ (State.wantDropped t s).store = s.store ∧ (State.wantDropped t s).cs = s.cs ∧ (State.wantDropped t s).ss = s.ss ∧ (State.wantDropped t s).tb = s.tb ∧ (State.wantDropped t s).vu = s.vu ∧ (State.wantDropped t s).dp = s.dp ∧ (State.wantDropped t s).pc = s.pc := by
  simp [State.wantDropped]

@[simp] theorem State.dropped_kept (b : Body) (s : State) :
    (State.dropped b s).pending = s.pending ∧ (State.dropped b s).now = s.now ∧ (State.dropped b s).station = s.station ∧ (State.dropped b s).boot = s.boot ∧ (State.dropped b s).store.mem = s.store.mem ∧ (State.dropped b s).store.fills = s.store.fills ∧ (State.dropped b s).store.allowance = s.store.allowance ∧ (State.dropped b s).tb = s.tb ∧ (State.dropped b s).vu = s.vu ∧ (State.dropped b s).dp = s.dp ∧ (State.dropped b s).lc.presence = s.lc.presence ∧ (State.dropped b s).lc.foreign = s.lc.foreign ∧ (State.dropped b s).lc.view = s.lc.view ∧ (State.dropped b s).lc.deaf = s.lc.deaf ∧ (State.dropped b s).jc.record.map (·.fixed) = s.jc.record.map (·.fixed) ∧ (State.dropped b s).jc.record.map (·.account) = s.jc.record.map (·.account) ∧ (State.dropped b s).jc.record.map (·.state) = s.jc.record.map (·.state) ∧ (State.dropped b s).jc.record.map (·.mark) = s.jc.record.map (·.mark) ∧ (State.dropped b s).jc.record.map (·.departed) = s.jc.record.map (·.departed) ∧ (State.dropped b s).jc.nextBase = s.jc.nextBase ∧ (State.dropped b s).jc.seq = s.jc.seq ∧ (State.dropped b s).cs.paused = s.cs.paused ∧ (State.dropped b s).ss.state = s.ss.state ∧ (State.dropped b s).ss.present = s.ss.present ∧ (State.dropped b s).pc.params = s.pc.params ∧ (State.dropped b s).pc.directory = s.pc.directory ∧ (State.dropped b s).pc.sequence = s.pc.sequence := by
  simp only [State.dropped]
  repeat' split
  all_goals simp

@[simp] theorem State.faultFrame_kept (f : Frame) (s : State) :
    (State.faultFrame f s).pending = s.pending ∧ (State.faultFrame f s).now = s.now ∧ (State.faultFrame f s).station = s.station ∧ (State.faultFrame f s).boot = s.boot ∧ (State.faultFrame f s).tb = s.tb ∧ (State.faultFrame f s).vu = s.vu ∧ (State.faultFrame f s).dp = s.dp ∧ (State.faultFrame f s).lc.presence = s.lc.presence ∧ (State.faultFrame f s).lc.foreign = s.lc.foreign ∧ (State.faultFrame f s).lc.view = s.lc.view ∧ (State.faultFrame f s).lc.deaf = s.lc.deaf ∧ (State.faultFrame f s).jc.nextBase = s.jc.nextBase ∧ (State.faultFrame f s).jc.seq = s.jc.seq ∧ (State.faultFrame f s).store.mem = s.store.mem ∧ (State.faultFrame f s).store.fills = s.store.fills ∧ (State.faultFrame f s).store.allowance = s.store.allowance ∧ (State.faultFrame f s).cs.paused = s.cs.paused ∧ (State.faultFrame f s).ss.state = s.ss.state ∧ (State.faultFrame f s).ss.present = s.ss.present ∧ (State.faultFrame f s).pc.params = s.pc.params ∧ (State.faultFrame f s).pc.directory = s.pc.directory ∧ (State.faultFrame f s).pc.sequence = s.pc.sequence ∧ (State.faultFrame f s).jc.record.map (·.fixed) = s.jc.record.map (·.fixed) ∧ (State.faultFrame f s).jc.record.map (·.account) = s.jc.record.map (·.account) ∧ (State.faultFrame f s).jc.record.map (·.state) = s.jc.record.map (·.state) ∧ (State.faultFrame f s).jc.record.map (·.mark) = s.jc.record.map (·.mark) ∧ (State.faultFrame f s).jc.record.map (·.departed) = s.jc.record.map (·.departed) := by
  simp only [State.faultFrame]
  repeat' split
  all_goals simp

@[simp] theorem State.loseFrame_kept (f : Frame) (s : State) :
    (State.loseFrame f s).pending = s.pending ∧ (State.loseFrame f s).now = s.now ∧ (State.loseFrame f s).station = s.station ∧ (State.loseFrame f s).boot = s.boot ∧ (State.loseFrame f s).du = s.du ∧ (State.loseFrame f s).ss = s.ss ∧ (State.loseFrame f s).vu = s.vu ∧ (State.loseFrame f s).lc.presence = s.lc.presence ∧ (State.loseFrame f s).lc.foreign = s.lc.foreign ∧ (State.loseFrame f s).lc.view = s.lc.view ∧ (State.loseFrame f s).lc.deaf = s.lc.deaf ∧ (State.loseFrame f s).jc.nextBase = s.jc.nextBase ∧ (State.loseFrame f s).jc.seq = s.jc.seq ∧ (State.loseFrame f s).store.mem = s.store.mem ∧ (State.loseFrame f s).store.fills = s.store.fills ∧ (State.loseFrame f s).store.allowance = s.store.allowance ∧ (State.loseFrame f s).cs.paused = s.cs.paused ∧ (State.loseFrame f s).dp.diskin = s.dp.diskin ∧ (State.loseFrame f s).dp.wprot = s.dp.wprot ∧ (State.loseFrame f s).dp.trk0 = s.dp.trk0 ∧ (State.loseFrame f s).pc.params = s.pc.params ∧ (State.loseFrame f s).pc.directory = s.pc.directory ∧ (State.loseFrame f s).pc.refusal = s.pc.refusal ∧ (State.loseFrame f s).pc.flash = s.pc.flash ∧ (State.loseFrame f s).pc.sequence = s.pc.sequence ∧ (State.loseFrame f s).jc.record.map (·.fixed) = s.jc.record.map (·.fixed) ∧ (State.loseFrame f s).jc.record.map (·.account) = s.jc.record.map (·.account) ∧ (State.loseFrame f s).jc.record.map (·.state) = s.jc.record.map (·.state) ∧ (State.loseFrame f s).jc.record.map (·.mark) = s.jc.record.map (·.mark) ∧ (State.loseFrame f s).jc.record.map (·.departed) = s.jc.record.map (·.departed) := by
  simp only [State.loseFrame]
  repeat' split
  all_goals simp

@[simp] theorem State.cutFrame_kept (f : Frame) (i : Nat) (s : State) :
    (State.cutFrame f i s).pending = s.pending ∧ (State.cutFrame f i s).now = s.now ∧ (State.cutFrame f i s).station = s.station ∧ (State.cutFrame f i s).boot = s.boot ∧ (State.cutFrame f i s).cs = s.cs ∧ (State.cutFrame f i s).tb = s.tb ∧ (State.cutFrame f i s).vu = s.vu ∧ (State.cutFrame f i s).pc = s.pc ∧ (State.cutFrame f i s).lc.presence = s.lc.presence ∧ (State.cutFrame f i s).lc.foreign = s.lc.foreign ∧ (State.cutFrame f i s).lc.view = s.lc.view ∧ (State.cutFrame f i s).lc.deaf = s.lc.deaf ∧ (State.cutFrame f i s).jc.nextBase = s.jc.nextBase ∧ (State.cutFrame f i s).jc.seq = s.jc.seq ∧ (State.cutFrame f i s).store.fills = s.store.fills ∧ (State.cutFrame f i s).store.allowance = s.store.allowance ∧ (State.cutFrame f i s).ss.present = s.ss.present ∧ (State.cutFrame f i s).dp.diskin = s.dp.diskin ∧ (State.cutFrame f i s).dp.wprot = s.dp.wprot ∧ (State.cutFrame f i s).dp.trk0 = s.dp.trk0 ∧ (State.cutFrame f i s).dp.wgate = s.dp.wgate ∧ (State.cutFrame f i s).jc.record.map (·.fixed) = s.jc.record.map (·.fixed) ∧ (State.cutFrame f i s).jc.record.map (·.account) = s.jc.record.map (·.account) ∧ (State.cutFrame f i s).jc.record.map (·.state) = s.jc.record.map (·.state) ∧ (State.cutFrame f i s).jc.record.map (·.mark) = s.jc.record.map (·.mark) ∧ (State.cutFrame f i s).jc.record.map (·.departed) = s.jc.record.map (·.departed) ∧ (State.cutFrame f i s).store.mem = s.store.mem := by
  simp only [State.cutFrame]
  repeat' split
  all_goals simp

@[simp] theorem State.cutOff_kept (f : Frame) (u : Upset) (s : State) :
    (State.cutOff f u s).pending = s.pending ∧ (State.cutOff f u s).now = s.now ∧ (State.cutOff f u s).station = s.station ∧ (State.cutOff f u s).boot = s.boot ∧ (State.cutOff f u s).cs = s.cs ∧ (State.cutOff f u s).tb = s.tb ∧ (State.cutOff f u s).vu = s.vu ∧ (State.cutOff f u s).pc = s.pc ∧ (State.cutOff f u s).lc.presence = s.lc.presence ∧ (State.cutOff f u s).lc.foreign = s.lc.foreign ∧ (State.cutOff f u s).lc.view = s.lc.view ∧ (State.cutOff f u s).lc.deaf = s.lc.deaf ∧ (State.cutOff f u s).jc.nextBase = s.jc.nextBase ∧ (State.cutOff f u s).jc.seq = s.jc.seq ∧ (State.cutOff f u s).store.fills = s.store.fills ∧ (State.cutOff f u s).store.allowance = s.store.allowance ∧ (State.cutOff f u s).ss.present = s.ss.present ∧ (State.cutOff f u s).dp.diskin = s.dp.diskin ∧ (State.cutOff f u s).dp.wprot = s.dp.wprot ∧ (State.cutOff f u s).dp.trk0 = s.dp.trk0 ∧ (State.cutOff f u s).dp.wgate = s.dp.wgate ∧ (State.cutOff f u s).jc.record.map (·.fixed) = s.jc.record.map (·.fixed) ∧ (State.cutOff f u s).jc.record.map (·.account) = s.jc.record.map (·.account) ∧ (State.cutOff f u s).jc.record.map (·.state) = s.jc.record.map (·.state) ∧ (State.cutOff f u s).jc.record.map (·.mark) = s.jc.record.map (·.mark) ∧ (State.cutOff f u s).jc.record.map (·.departed) = s.jc.record.map (·.departed) := by
  simp only [State.cutOff]
  repeat' split
  all_goals simp

@[simp] theorem State.poweredOn_kept (straps : StationId) (diskin wprot trk0 : Bool) (s : State) :
    (State.poweredOn straps diskin wprot trk0 s).pending = s.pending := by
  simp [State.poweredOn]

@[simp] theorem State.ready_kept (midFrame : Bool) (s : State) :
    (State.ready midFrame s).pending = s.pending ∧ (State.ready midFrame s).now = s.now ∧ (State.ready midFrame s).station = s.station ∧ (State.ready midFrame s).jc = s.jc ∧ (State.ready midFrame s).store = s.store ∧ (State.ready midFrame s).du = s.du ∧ (State.ready midFrame s).ss = s.ss ∧ (State.ready midFrame s).tb = s.tb ∧ (State.ready midFrame s).vu = s.vu ∧ (State.ready midFrame s).lc.presence = s.lc.presence ∧ (State.ready midFrame s).lc.foreign = s.lc.foreign ∧ (State.ready midFrame s).lc.view = s.lc.view ∧ (State.ready midFrame s).cs.paused = s.cs.paused ∧ (State.ready midFrame s).dp.diskin = s.dp.diskin ∧ (State.ready midFrame s).dp.wprot = s.dp.wprot ∧ (State.ready midFrame s).dp.trk0 = s.dp.trk0 ∧ (State.ready midFrame s).dp.wgate = s.dp.wgate ∧ (State.ready midFrame s).pc.params = s.pc.params ∧ (State.ready midFrame s).pc.directory = s.pc.directory ∧ (State.ready midFrame s).pc.refusal = s.pc.refusal ∧ (State.ready midFrame s).pc.flash = s.pc.flash ∧ (State.ready midFrame s).pc.sequence = s.pc.sequence := by
  simp [State.ready]

@[simp] theorem State.storeClearEnds_kept (midFrame : Bool) (s : State) :
    (State.storeClearEnds midFrame s).pending = s.pending ∧ (State.storeClearEnds midFrame s).now = s.now ∧ (State.storeClearEnds midFrame s).station = s.station ∧ (State.storeClearEnds midFrame s).jc = s.jc ∧ (State.storeClearEnds midFrame s).du = s.du ∧ (State.storeClearEnds midFrame s).ss = s.ss ∧ (State.storeClearEnds midFrame s).tb = s.tb ∧ (State.storeClearEnds midFrame s).vu = s.vu ∧ (State.storeClearEnds midFrame s).lc.presence = s.lc.presence ∧ (State.storeClearEnds midFrame s).lc.foreign = s.lc.foreign ∧ (State.storeClearEnds midFrame s).lc.view = s.lc.view ∧ (State.storeClearEnds midFrame s).store.mem = s.store.mem ∧ (State.storeClearEnds midFrame s).cs.paused = s.cs.paused ∧ (State.storeClearEnds midFrame s).dp.diskin = s.dp.diskin ∧ (State.storeClearEnds midFrame s).dp.wprot = s.dp.wprot ∧ (State.storeClearEnds midFrame s).dp.trk0 = s.dp.trk0 ∧ (State.storeClearEnds midFrame s).dp.wgate = s.dp.wgate ∧ (State.storeClearEnds midFrame s).pc.params = s.pc.params ∧ (State.storeClearEnds midFrame s).pc.directory = s.pc.directory ∧ (State.storeClearEnds midFrame s).pc.refusal = s.pc.refusal ∧ (State.storeClearEnds midFrame s).pc.flash = s.pc.flash ∧ (State.storeClearEnds midFrame s).pc.sequence = s.pc.sequence := by
  simp only [State.storeClearEnds]
  repeat' split
  all_goals simp

@[simp] theorem State.configLoadEnds_kept (bytes : List Byte) (midFrame : Bool) (s : State) :
    (State.configLoadEnds bytes midFrame s).pending = s.pending ∧ (State.configLoadEnds bytes midFrame s).now = s.now ∧ (State.configLoadEnds bytes midFrame s).station = s.station ∧ (State.configLoadEnds bytes midFrame s).store = s.store ∧ (State.configLoadEnds bytes midFrame s).du = s.du ∧ (State.configLoadEnds bytes midFrame s).ss = s.ss ∧ (State.configLoadEnds bytes midFrame s).tb = s.tb ∧ (State.configLoadEnds bytes midFrame s).vu = s.vu ∧ (State.configLoadEnds bytes midFrame s).lc.presence = s.lc.presence ∧ (State.configLoadEnds bytes midFrame s).lc.foreign = s.lc.foreign ∧ (State.configLoadEnds bytes midFrame s).lc.view = s.lc.view ∧ (State.configLoadEnds bytes midFrame s).jc.record = s.jc.record ∧ (State.configLoadEnds bytes midFrame s).jc.seq = s.jc.seq ∧ (State.configLoadEnds bytes midFrame s).cs.paused = s.cs.paused ∧ (State.configLoadEnds bytes midFrame s).dp.diskin = s.dp.diskin ∧ (State.configLoadEnds bytes midFrame s).dp.wprot = s.dp.wprot ∧ (State.configLoadEnds bytes midFrame s).dp.trk0 = s.dp.trk0 ∧ (State.configLoadEnds bytes midFrame s).dp.wgate = s.dp.wgate ∧ (State.configLoadEnds bytes midFrame s).pc.refusal = s.pc.refusal ∧ (State.configLoadEnds bytes midFrame s).pc.flash = s.pc.flash ∧ (State.configLoadEnds bytes midFrame s).pc.sequence = s.pc.sequence := by
  simp only [State.configLoadEnds]
  repeat' split
  all_goals simp

@[simp] theorem State.restarted_kept (s : State) :
    (State.restarted s).pending = s.pending ∧ (State.restarted s).now = s.now ∧ (State.restarted s).station = s.station ∧ (State.restarted s).jc.seq = s.jc.seq ∧ (State.restarted s).store.mem = s.store.mem ∧ (State.restarted s).store.allowance = s.store.allowance ∧ (State.restarted s).dp.diskin = s.dp.diskin ∧ (State.restarted s).dp.wprot = s.dp.wprot ∧ (State.restarted s).dp.trk0 = s.dp.trk0 ∧ (State.restarted s).pc.params = s.pc.params ∧ (State.restarted s).pc.directory = s.pc.directory ∧ (State.restarted s).pc.refusal = s.pc.refusal := by
  simp [State.restarted]

@[simp] theorem State.loadPressed_kept (selector : Fin 8) (s : State) :
    (State.loadPressed selector s).pending = s.pending ∧ (State.loadPressed selector s).now = s.now ∧ (State.loadPressed selector s).station = s.station ∧ (State.loadPressed selector s).boot = s.boot ∧ (State.loadPressed selector s).store = s.store ∧ (State.loadPressed selector s).du = s.du ∧ (State.loadPressed selector s).ss = s.ss ∧ (State.loadPressed selector s).tb = s.tb ∧ (State.loadPressed selector s).vu = s.vu ∧ (State.loadPressed selector s).lc.presence = s.lc.presence ∧ (State.loadPressed selector s).lc.foreign = s.lc.foreign ∧ (State.loadPressed selector s).lc.view = s.lc.view ∧ (State.loadPressed selector s).lc.deaf = s.lc.deaf ∧ (State.loadPressed selector s).jc.record = s.jc.record ∧ (State.loadPressed selector s).jc.nextBase = s.jc.nextBase ∧ (State.loadPressed selector s).dp.diskin = s.dp.diskin ∧ (State.loadPressed selector s).dp.wprot = s.dp.wprot ∧ (State.loadPressed selector s).dp.trk0 = s.dp.trk0 ∧ (State.loadPressed selector s).dp.wgate = s.dp.wgate ∧ (State.loadPressed selector s).pc.params = s.pc.params ∧ (State.loadPressed selector s).pc.directory = s.pc.directory ∧ (State.loadPressed selector s).pc.sequence = s.pc.sequence := by
  simp only [State.loadPressed]
  repeat' split
  all_goals simp

@[simp] theorem State.stopPressed_kept (s : State) :
    (State.stopPressed s).pending = s.pending ∧ (State.stopPressed s).now = s.now ∧ (State.stopPressed s).station = s.station ∧ (State.stopPressed s).boot = s.boot ∧ (State.stopPressed s).store = s.store ∧ (State.stopPressed s).du = s.du ∧ (State.stopPressed s).ss = s.ss ∧ (State.stopPressed s).vu = s.vu ∧ (State.stopPressed s).lc.presence = s.lc.presence ∧ (State.stopPressed s).lc.foreign = s.lc.foreign ∧ (State.stopPressed s).lc.view = s.lc.view ∧ (State.stopPressed s).lc.deaf = s.lc.deaf ∧ (State.stopPressed s).jc.record = s.jc.record ∧ (State.stopPressed s).jc.nextBase = s.jc.nextBase ∧ (State.stopPressed s).jc.seq = s.jc.seq ∧ (State.stopPressed s).dp.diskin = s.dp.diskin ∧ (State.stopPressed s).dp.wprot = s.dp.wprot ∧ (State.stopPressed s).dp.trk0 = s.dp.trk0 ∧ (State.stopPressed s).pc.params = s.pc.params ∧ (State.stopPressed s).pc.directory = s.pc.directory ∧ (State.stopPressed s).pc.refusal = s.pc.refusal ∧ (State.stopPressed s).pc.flash = s.pc.flash ∧ (State.stopPressed s).pc.sequence = s.pc.sequence := by
  simp only [State.stopPressed]
  repeat' split
  all_goals simp

@[simp] theorem State.stopHeld_kept (s : State) :
    (State.stopHeld s).pending = s.pending ∧ (State.stopHeld s).now = s.now ∧ (State.stopHeld s).station = s.station ∧ (State.stopHeld s).boot = s.boot ∧ (State.stopHeld s).store = s.store ∧ (State.stopHeld s).du = s.du ∧ (State.stopHeld s).cs = s.cs ∧ (State.stopHeld s).ss = s.ss ∧ (State.stopHeld s).tb = s.tb ∧ (State.stopHeld s).vu = s.vu ∧ (State.stopHeld s).dp = s.dp ∧ (State.stopHeld s).pc = s.pc ∧ (State.stopHeld s).lc.presence = s.lc.presence ∧ (State.stopHeld s).lc.counters = s.lc.counters ∧ (State.stopHeld s).lc.foreign = s.lc.foreign ∧ (State.stopHeld s).lc.view = s.lc.view ∧ (State.stopHeld s).lc.deaf = s.lc.deaf ∧ (State.stopHeld s).jc.record = s.jc.record ∧ (State.stopHeld s).jc.nextBase = s.jc.nextBase ∧ (State.stopHeld s).jc.seq = s.jc.seq := by
  simp only [State.stopHeld]
  repeat' split
  all_goals simp

@[simp] theorem State.flashEnds_kept (s : State) :
    (State.flashEnds s).pending = s.pending ∧ (State.flashEnds s).station = s.station ∧ (State.flashEnds s).boot = s.boot ∧ (State.flashEnds s).lc = s.lc ∧ (State.flashEnds s).jc = s.jc ∧ (State.flashEnds s).store = s.store ∧ (State.flashEnds s).du = s.du ∧ (State.flashEnds s).cs = s.cs ∧ (State.flashEnds s).ss = s.ss ∧ (State.flashEnds s).tb = s.tb ∧ (State.flashEnds s).vu = s.vu ∧ (State.flashEnds s).dp = s.dp ∧ (State.flashEnds s).pc.params = s.pc.params ∧ (State.flashEnds s).pc.directory = s.pc.directory ∧ (State.flashEnds s).pc.history = s.pc.history ∧ (State.flashEnds s).pc.refusal = s.pc.refusal ∧ (State.flashEnds s).pc.sequence = s.pc.sequence := by
  simp only [State.flashEnds]
  repeat' split
  all_goals simp

@[simp] theorem State.sequenceEnds_kept (s : State) :
    (State.sequenceEnds s).pending = s.pending ∧ (State.sequenceEnds s).station = s.station ∧ (State.sequenceEnds s).boot = s.boot ∧ (State.sequenceEnds s).lc = s.lc ∧ (State.sequenceEnds s).jc = s.jc ∧ (State.sequenceEnds s).store = s.store ∧ (State.sequenceEnds s).du = s.du ∧ (State.sequenceEnds s).cs = s.cs ∧ (State.sequenceEnds s).ss = s.ss ∧ (State.sequenceEnds s).tb = s.tb ∧ (State.sequenceEnds s).vu = s.vu ∧ (State.sequenceEnds s).dp = s.dp ∧ (State.sequenceEnds s).pc.params = s.pc.params ∧ (State.sequenceEnds s).pc.directory = s.pc.directory ∧ (State.sequenceEnds s).pc.history = s.pc.history ∧ (State.sequenceEnds s).pc.refusal = s.pc.refusal ∧ (State.sequenceEnds s).pc.flash = s.pc.flash := by
  simp only [State.sequenceEnds]
  repeat' split
  all_goals simp

@[simp] theorem State.frameBroken_kept (cls : Fin 8) (bytes : List Byte) (broke : Bool) (s : State) :
    (State.frameBroken cls bytes broke s).pending = s.pending ∧ (State.frameBroken cls bytes broke s).now = s.now ∧ (State.frameBroken cls bytes broke s).station = s.station ∧ (State.frameBroken cls bytes broke s).boot = s.boot ∧ (State.frameBroken cls bytes broke s).ss = s.ss ∧ (State.frameBroken cls bytes broke s).lc.presence = s.lc.presence ∧ (State.frameBroken cls bytes broke s).lc.foreign = s.lc.foreign ∧ (State.frameBroken cls bytes broke s).lc.view = s.lc.view ∧ (State.frameBroken cls bytes broke s).jc.nextBase = s.jc.nextBase ∧ (State.frameBroken cls bytes broke s).jc.seq = s.jc.seq ∧ (State.frameBroken cls bytes broke s).store.allowance = s.store.allowance ∧ (State.frameBroken cls bytes broke s).cs.paused = s.cs.paused ∧ (State.frameBroken cls bytes broke s).dp.diskin = s.dp.diskin ∧ (State.frameBroken cls bytes broke s).dp.wprot = s.dp.wprot ∧ (State.frameBroken cls bytes broke s).dp.trk0 = s.dp.trk0 ∧ (State.frameBroken cls bytes broke s).pc.params = s.pc.params ∧ (State.frameBroken cls bytes broke s).pc.directory = s.pc.directory ∧ (State.frameBroken cls bytes broke s).pc.refusal = s.pc.refusal ∧ (State.frameBroken cls bytes broke s).pc.flash = s.pc.flash ∧ (State.frameBroken cls bytes broke s).pc.sequence = s.pc.sequence ∧ (State.frameBroken cls bytes broke s).jc.record.map (·.fixed) = s.jc.record.map (·.fixed) ∧ (State.frameBroken cls bytes broke s).jc.record.map (·.account) = s.jc.record.map (·.account) ∧ (State.frameBroken cls bytes broke s).jc.record.map (·.state) = s.jc.record.map (·.state) ∧ (State.frameBroken cls bytes broke s).jc.record.map (·.mark) = s.jc.record.map (·.mark) ∧ (State.frameBroken cls bytes broke s).jc.record.map (·.departed) = s.jc.record.map (·.departed) := by
  simp only [State.frameBroken]
  repeat' split
  all_goals simp

@[simp] theorem State.placeFreed_kept (s : State) :
    (State.placeFreed s).pending = s.pending ∧ (State.placeFreed s).now = s.now ∧ (State.placeFreed s).station = s.station ∧ (State.placeFreed s).boot = s.boot ∧ (State.placeFreed s).store.mem = s.store.mem ∧ (State.placeFreed s).store.fills = s.store.fills ∧ (State.placeFreed s).store.allowance = s.store.allowance ∧ (State.placeFreed s).du = s.du ∧ (State.placeFreed s).vu = s.vu ∧ (State.placeFreed s).lc.presence = s.lc.presence ∧ (State.placeFreed s).lc.foreign = s.lc.foreign ∧ (State.placeFreed s).lc.view = s.lc.view ∧ (State.placeFreed s).lc.deaf = s.lc.deaf ∧ (State.placeFreed s).jc.record.map (·.fixed) = s.jc.record.map (·.fixed) ∧ (State.placeFreed s).jc.record.map (·.account) = s.jc.record.map (·.account) ∧ (State.placeFreed s).jc.record.map (·.state) = s.jc.record.map (·.state) ∧ (State.placeFreed s).jc.record.map (·.mark) = s.jc.record.map (·.mark) ∧ (State.placeFreed s).jc.record.map (·.departed) = s.jc.record.map (·.departed) ∧ (State.placeFreed s).jc.nextBase = s.jc.nextBase ∧ (State.placeFreed s).jc.seq = s.jc.seq ∧ (State.placeFreed s).cs.paused = s.cs.paused ∧ (State.placeFreed s).ss.state = s.ss.state ∧ (State.placeFreed s).ss.present = s.ss.present ∧ (State.placeFreed s).dp.diskin = s.dp.diskin ∧ (State.placeFreed s).dp.wprot = s.dp.wprot ∧ (State.placeFreed s).dp.trk0 = s.dp.trk0 ∧ (State.placeFreed s).pc.params = s.pc.params ∧ (State.placeFreed s).pc.directory = s.pc.directory ∧ (State.placeFreed s).pc.refusal = s.pc.refusal ∧ (State.placeFreed s).pc.flash = s.pc.flash ∧ (State.placeFreed s).pc.sequence = s.pc.sequence := by
  simp [State.placeFreed]

@[simp] theorem State.holdOffExpires_kept (s : State) :
    (State.holdOffExpires s).pending = s.pending ∧ (State.holdOffExpires s).station = s.station ∧ (State.holdOffExpires s).boot = s.boot ∧ (State.holdOffExpires s).jc = s.jc ∧ (State.holdOffExpires s).store = s.store ∧ (State.holdOffExpires s).du = s.du ∧ (State.holdOffExpires s).cs = s.cs ∧ (State.holdOffExpires s).ss = s.ss ∧ (State.holdOffExpires s).tb = s.tb ∧ (State.holdOffExpires s).vu = s.vu ∧ (State.holdOffExpires s).dp = s.dp ∧ (State.holdOffExpires s).pc = s.pc ∧ (State.holdOffExpires s).lc.presence = s.lc.presence ∧ (State.holdOffExpires s).lc.counters = s.lc.counters ∧ (State.holdOffExpires s).lc.foreign = s.lc.foreign ∧ (State.holdOffExpires s).lc.deaf = s.lc.deaf := by
  simp only [State.holdOffExpires]
  repeat' split
  all_goals simp

@[simp] theorem State.holdOffHeard_kept (sender : StationId) (s : State) :
    (State.holdOffHeard sender s).pending = s.pending ∧ (State.holdOffHeard sender s).now = s.now ∧ (State.holdOffHeard sender s).station = s.station ∧ (State.holdOffHeard sender s).boot = s.boot ∧ (State.holdOffHeard sender s).jc = s.jc ∧ (State.holdOffHeard sender s).store = s.store ∧ (State.holdOffHeard sender s).du = s.du ∧ (State.holdOffHeard sender s).cs = s.cs ∧ (State.holdOffHeard sender s).ss = s.ss ∧ (State.holdOffHeard sender s).tb = s.tb ∧ (State.holdOffHeard sender s).vu = s.vu ∧ (State.holdOffHeard sender s).dp = s.dp ∧ (State.holdOffHeard sender s).pc = s.pc ∧ (State.holdOffHeard sender s).lc.queue = s.lc.queue ∧ (State.holdOffHeard sender s).lc.presence = s.lc.presence ∧ (State.holdOffHeard sender s).lc.foreign = s.lc.foreign ∧ (State.holdOffHeard sender s).lc.deaf = s.lc.deaf := by
  simp only [State.holdOffHeard]
  repeat' split
  all_goals simp

@[simp] theorem State.present_kept (sender : StationId) (b : CallBody) (s : State) :
    (State.present sender b s).pending = s.pending ∧ (State.present sender b s).now = s.now ∧ (State.present sender b s).station = s.station ∧ (State.present sender b s).boot = s.boot ∧ (State.present sender b s).jc = s.jc ∧ (State.present sender b s).store = s.store ∧ (State.present sender b s).du = s.du ∧ (State.present sender b s).cs = s.cs ∧ (State.present sender b s).ss = s.ss ∧ (State.present sender b s).tb = s.tb ∧ (State.present sender b s).vu = s.vu ∧ (State.present sender b s).dp = s.dp ∧ (State.present sender b s).pc = s.pc ∧ (State.present sender b s).lc.queue = s.lc.queue ∧ (State.present sender b s).lc.counters = s.lc.counters ∧ (State.present sender b s).lc.foreign = s.lc.foreign ∧ (State.present sender b s).lc.view = s.lc.view ∧ (State.present sender b s).lc.deaf = s.lc.deaf := by
  simp [State.present]

@[simp] theorem State.queried_kept (q : QueryBody) (s : State) :
    (State.queried q s).pending = s.pending ∧ (State.queried q s).now = s.now ∧ (State.queried q s).station = s.station ∧ (State.queried q s).boot = s.boot ∧ (State.queried q s).jc = s.jc ∧ (State.queried q s).store = s.store ∧ (State.queried q s).du = s.du ∧ (State.queried q s).cs = s.cs ∧ (State.queried q s).ss = s.ss ∧ (State.queried q s).tb = s.tb ∧ (State.queried q s).vu = s.vu ∧ (State.queried q s).dp = s.dp ∧ (State.queried q s).pc = s.pc ∧ (State.queried q s).lc.presence = s.lc.presence ∧ (State.queried q s).lc.foreign = s.lc.foreign ∧ (State.queried q s).lc.view = s.lc.view ∧ (State.queried q s).lc.deaf = s.lc.deaf := by
  simp only [State.queried]
  repeat' split
  all_goals simp

@[simp] theorem State.openHeard_kept (f : Rx) (b : OpenBody) (s : State) :
    (State.openHeard f b s).pending = s.pending ∧ (State.openHeard f b s).now = s.now ∧ (State.openHeard f b s).station = s.station ∧ (State.openHeard f b s).boot = s.boot ∧ (State.openHeard f b s).tb = s.tb ∧ (State.openHeard f b s).vu = s.vu ∧ (State.openHeard f b s).lc.presence = s.lc.presence ∧ (State.openHeard f b s).lc.view = s.lc.view ∧ (State.openHeard f b s).lc.deaf = s.lc.deaf ∧ (State.openHeard f b s).jc.nextBase = s.jc.nextBase ∧ (State.openHeard f b s).jc.seq = s.jc.seq ∧ (State.openHeard f b s).store.mem = s.store.mem ∧ (State.openHeard f b s).store.fills = s.store.fills ∧ (State.openHeard f b s).cs.paused = s.cs.paused ∧ (State.openHeard f b s).dp.diskin = s.dp.diskin ∧ (State.openHeard f b s).dp.wprot = s.dp.wprot ∧ (State.openHeard f b s).dp.trk0 = s.dp.trk0 ∧ (State.openHeard f b s).dp.wgate = s.dp.wgate ∧ (State.openHeard f b s).pc.params = s.pc.params ∧ (State.openHeard f b s).pc.directory = s.pc.directory ∧ (State.openHeard f b s).pc.sequence = s.pc.sequence := by
  simp only [State.openHeard]
  repeat' split
  all_goals simp

@[simp] theorem State.drain_kept (s : State) :
    (State.drain s).pending = s.pending ∧ (State.drain s).now = s.now ∧ (State.drain s).station = s.station ∧ (State.drain s).boot = s.boot ∧ (State.drain s).lc = s.lc ∧ (State.drain s).store = s.store ∧ (State.drain s).du = s.du ∧ (State.drain s).cs = s.cs ∧ (State.drain s).ss = s.ss ∧ (State.drain s).tb = s.tb ∧ (State.drain s).vu = s.vu ∧ (State.drain s).dp = s.dp ∧ (State.drain s).pc = s.pc ∧ (State.drain s).jc.nextBase = s.jc.nextBase ∧ (State.drain s).jc.seq = s.jc.seq ∧ (State.drain s).jc.record.map (·.fixed) = s.jc.record.map (·.fixed) ∧ (State.drain s).jc.record.map (·.account) = s.jc.record.map (·.account) ∧ (State.drain s).jc.record.map (·.mark) = s.jc.record.map (·.mark) ∧ (State.drain s).jc.record.map (·.departed) = s.jc.record.map (·.departed) := by
  simp [State.drain, State.fixed, State.account, State.jobState, State.mark, State.departed, JobRecord.fixed, JobRecord.account, Option.map_map, Function.comp_def]

@[simp] theorem State.closeHeard_kept (carried : Nat) (s : State) :
    (State.closeHeard carried s).pending = s.pending ∧ (State.closeHeard carried s).now = s.now ∧ (State.closeHeard carried s).station = s.station ∧ (State.closeHeard carried s).boot = s.boot ∧ (State.closeHeard carried s).lc.presence = s.lc.presence ∧ (State.closeHeard carried s).lc.foreign = s.lc.foreign ∧ (State.closeHeard carried s).lc.view = s.lc.view ∧ (State.closeHeard carried s).lc.deaf = s.lc.deaf ∧ (State.closeHeard carried s).jc.seq = s.jc.seq ∧ (State.closeHeard carried s).store.mem = s.store.mem ∧ (State.closeHeard carried s).dp.diskin = s.dp.diskin ∧ (State.closeHeard carried s).dp.wprot = s.dp.wprot ∧ (State.closeHeard carried s).dp.trk0 = s.dp.trk0 ∧ (State.closeHeard carried s).pc.params = s.pc.params ∧ (State.closeHeard carried s).pc.directory = s.pc.directory ∧ (State.closeHeard carried s).pc.refusal = s.pc.refusal ∧ (State.closeHeard carried s).pc.flash = s.pc.flash ∧ (State.closeHeard carried s).pc.sequence = s.pc.sequence := by
  simp [State.closeHeard]

@[simp] theorem State.abandonHeard_kept (reason : AbandonReason) (s : State) :
    (State.abandonHeard reason s).pending = s.pending ∧ (State.abandonHeard reason s).now = s.now ∧ (State.abandonHeard reason s).station = s.station ∧ (State.abandonHeard reason s).boot = s.boot ∧ (State.abandonHeard reason s).lc.presence = s.lc.presence ∧ (State.abandonHeard reason s).lc.foreign = s.lc.foreign ∧ (State.abandonHeard reason s).lc.view = s.lc.view ∧ (State.abandonHeard reason s).lc.deaf = s.lc.deaf ∧ (State.abandonHeard reason s).jc.seq = s.jc.seq ∧ (State.abandonHeard reason s).store.mem = s.store.mem ∧ (State.abandonHeard reason s).dp.diskin = s.dp.diskin ∧ (State.abandonHeard reason s).dp.wprot = s.dp.wprot ∧ (State.abandonHeard reason s).dp.trk0 = s.dp.trk0 ∧ (State.abandonHeard reason s).pc.params = s.pc.params ∧ (State.abandonHeard reason s).pc.directory = s.pc.directory ∧ (State.abandonHeard reason s).pc.refusal = s.pc.refusal ∧ (State.abandonHeard reason s).pc.flash = s.pc.flash := by
  simp [State.abandonHeard]

@[simp] theorem State.claimHeard_kept (sender : StationId) (v carried : Nat) (s : State) :
    (State.claimHeard sender v carried s).pending = s.pending ∧ (State.claimHeard sender v carried s).now = s.now ∧ (State.claimHeard sender v carried s).station = s.station ∧ (State.claimHeard sender v carried s).boot = s.boot ∧ (State.claimHeard sender v carried s).ss = s.ss ∧ (State.claimHeard sender v carried s).lc.presence = s.lc.presence ∧ (State.claimHeard sender v carried s).lc.foreign = s.lc.foreign ∧ (State.claimHeard sender v carried s).lc.view = s.lc.view ∧ (State.claimHeard sender v carried s).lc.deaf = s.lc.deaf ∧ (State.claimHeard sender v carried s).jc.nextBase = s.jc.nextBase ∧ (State.claimHeard sender v carried s).jc.seq = s.jc.seq ∧ (State.claimHeard sender v carried s).store.mem = s.store.mem ∧ (State.claimHeard sender v carried s).store.fills = s.store.fills ∧ (State.claimHeard sender v carried s).store.allowance = s.store.allowance ∧ (State.claimHeard sender v carried s).cs.paused = s.cs.paused ∧ (State.claimHeard sender v carried s).dp.diskin = s.dp.diskin ∧ (State.claimHeard sender v carried s).dp.wprot = s.dp.wprot ∧ (State.claimHeard sender v carried s).dp.trk0 = s.dp.trk0 ∧ (State.claimHeard sender v carried s).pc.params = s.pc.params ∧ (State.claimHeard sender v carried s).pc.directory = s.pc.directory ∧ (State.claimHeard sender v carried s).pc.refusal = s.pc.refusal ∧ (State.claimHeard sender v carried s).pc.flash = s.pc.flash ∧ (State.claimHeard sender v carried s).pc.sequence = s.pc.sequence ∧ (State.claimHeard sender v carried s).jc.record.map (·.mark) = s.jc.record.map (·.mark) ∧ (State.claimHeard sender v carried s).jc.record.map (·.departed) = s.jc.record.map (·.departed) := by
  unfold State.claimHeard
  dsimp only
  repeat' split
  all_goals simp_all [State.fixed, State.account, State.jobState, State.mark, State.departed, JobRecord.fixed, JobRecord.account, Option.map_map, Function.comp_def]

@[simp] theorem State.ownWant_kept (b : WantBody) (s : State) :
    (State.ownWant b s).pending = s.pending ∧ (State.ownWant b s).now = s.now ∧ (State.ownWant b s).station = s.station ∧ (State.ownWant b s).boot = s.boot ∧ (State.ownWant b s).jc = s.jc ∧ (State.ownWant b s).store = s.store ∧ (State.ownWant b s).cs = s.cs ∧ (State.ownWant b s).ss = s.ss ∧ (State.ownWant b s).tb = s.tb ∧ (State.ownWant b s).vu = s.vu ∧ (State.ownWant b s).dp = s.dp ∧ (State.ownWant b s).pc = s.pc ∧ (State.ownWant b s).lc.queue = s.lc.queue ∧ (State.ownWant b s).lc.presence = s.lc.presence ∧ (State.ownWant b s).lc.foreign = s.lc.foreign ∧ (State.ownWant b s).lc.view = s.lc.view ∧ (State.ownWant b s).lc.deaf = s.lc.deaf := by
  simp [State.ownWant]

@[simp] theorem State.otherWant_kept (b : WantBody) (s : State) :
    (State.otherWant b s).pending = s.pending ∧ (State.otherWant b s).now = s.now ∧ (State.otherWant b s).station = s.station ∧ (State.otherWant b s).boot = s.boot ∧ (State.otherWant b s).cs = s.cs ∧ (State.otherWant b s).tb = s.tb ∧ (State.otherWant b s).vu = s.vu ∧ (State.otherWant b s).pc = s.pc ∧ (State.otherWant b s).lc.presence = s.lc.presence ∧ (State.otherWant b s).lc.counters = s.lc.counters ∧ (State.otherWant b s).lc.foreign = s.lc.foreign ∧ (State.otherWant b s).lc.view = s.lc.view ∧ (State.otherWant b s).lc.deaf = s.lc.deaf ∧ (State.otherWant b s).jc.record.map (·.fixed) = s.jc.record.map (·.fixed) ∧ (State.otherWant b s).jc.record.map (·.account) = s.jc.record.map (·.account) ∧ (State.otherWant b s).jc.record.map (·.state) = s.jc.record.map (·.state) ∧ (State.otherWant b s).jc.record.map (·.mark) = s.jc.record.map (·.mark) ∧ (State.otherWant b s).jc.record.map (·.departed) = s.jc.record.map (·.departed) ∧ (State.otherWant b s).jc.nextBase = s.jc.nextBase ∧ (State.otherWant b s).jc.seq = s.jc.seq ∧ (State.otherWant b s).store.mem = s.store.mem ∧ (State.otherWant b s).store.fills = s.store.fills ∧ (State.otherWant b s).store.allowance = s.store.allowance ∧ (State.otherWant b s).ss.present = s.ss.present ∧ (State.otherWant b s).dp.diskin = s.dp.diskin ∧ (State.otherWant b s).dp.wprot = s.dp.wprot ∧ (State.otherWant b s).dp.trk0 = s.dp.trk0 ∧ (State.otherWant b s).dp.wgate = s.dp.wgate := by
  simp only [State.otherWant]
  repeat' split
  all_goals simp

@[simp] theorem State.releaseBegins_kept (h : ReleaseHead) (s : State) :
    (State.releaseBegins h s).pending = s.pending ∧ (State.releaseBegins h s).now = s.now ∧ (State.releaseBegins h s).station = s.station ∧ (State.releaseBegins h s).boot = s.boot ∧ (State.releaseBegins h s).ss = s.ss ∧ (State.releaseBegins h s).lc.presence = s.lc.presence ∧ (State.releaseBegins h s).lc.foreign = s.lc.foreign ∧ (State.releaseBegins h s).lc.view = s.lc.view ∧ (State.releaseBegins h s).lc.deaf = s.lc.deaf ∧ (State.releaseBegins h s).jc.nextBase = s.jc.nextBase ∧ (State.releaseBegins h s).jc.seq = s.jc.seq ∧ (State.releaseBegins h s).store.mem = s.store.mem ∧ (State.releaseBegins h s).store.allowance = s.store.allowance ∧ (State.releaseBegins h s).cs.paused = s.cs.paused ∧ (State.releaseBegins h s).dp.diskin = s.dp.diskin ∧ (State.releaseBegins h s).dp.wprot = s.dp.wprot ∧ (State.releaseBegins h s).dp.trk0 = s.dp.trk0 ∧ (State.releaseBegins h s).pc.params = s.pc.params ∧ (State.releaseBegins h s).pc.directory = s.pc.directory ∧ (State.releaseBegins h s).pc.refusal = s.pc.refusal ∧ (State.releaseBegins h s).pc.flash = s.pc.flash ∧ (State.releaseBegins h s).pc.sequence = s.pc.sequence ∧ (State.releaseBegins h s).jc.record.map (·.fixed) = s.jc.record.map (·.fixed) ∧ (State.releaseBegins h s).jc.record.map (·.account) = s.jc.record.map (·.account) ∧ (State.releaseBegins h s).jc.record.map (·.state) = s.jc.record.map (·.state) ∧ (State.releaseBegins h s).jc.record.map (·.mark) = s.jc.record.map (·.mark) ∧ (State.releaseBegins h s).jc.record.map (·.departed) = s.jc.record.map (·.departed) := by
  simp only [State.releaseBegins]
  repeat' split
  all_goals simp

@[simp] theorem State.releaseHeard_kept (own : Bool) (origin : Option ReleaseOrigin) (b : ReleaseBody) (s : State) :
    (State.releaseHeard own origin b s).pending = s.pending ∧ (State.releaseHeard own origin b s).now = s.now ∧ (State.releaseHeard own origin b s).station = s.station ∧ (State.releaseHeard own origin b s).boot = s.boot ∧ (State.releaseHeard own origin b s).lc.presence = s.lc.presence ∧ (State.releaseHeard own origin b s).lc.foreign = s.lc.foreign ∧ (State.releaseHeard own origin b s).lc.view = s.lc.view ∧ (State.releaseHeard own origin b s).lc.deaf = s.lc.deaf ∧ (State.releaseHeard own origin b s).jc.nextBase = s.jc.nextBase ∧ (State.releaseHeard own origin b s).jc.seq = s.jc.seq ∧ (State.releaseHeard own origin b s).store.allowance = s.store.allowance ∧ (State.releaseHeard own origin b s).cs.paused = s.cs.paused ∧ (State.releaseHeard own origin b s).ss.present = s.ss.present ∧ (State.releaseHeard own origin b s).dp.diskin = s.dp.diskin ∧ (State.releaseHeard own origin b s).dp.wprot = s.dp.wprot ∧ (State.releaseHeard own origin b s).dp.trk0 = s.dp.trk0 ∧ (State.releaseHeard own origin b s).pc.params = s.pc.params ∧ (State.releaseHeard own origin b s).pc.directory = s.pc.directory ∧ (State.releaseHeard own origin b s).pc.refusal = s.pc.refusal ∧ (State.releaseHeard own origin b s).pc.flash = s.pc.flash ∧ (State.releaseHeard own origin b s).pc.sequence = s.pc.sequence ∧ (State.releaseHeard own origin b s).jc.record.map (·.fixed) = s.jc.record.map (·.fixed) ∧ (State.releaseHeard own origin b s).jc.record.map (·.account) = s.jc.record.map (·.account) ∧ (State.releaseHeard own origin b s).jc.record.map (·.state) = s.jc.record.map (·.state) ∧ (State.releaseHeard own origin b s).jc.record.map (·.departed) = s.jc.record.map (·.departed) := by
  simp only [State.releaseHeard]
  repeat' split
  all_goals simp

@[simp] theorem State.deadlineExpires_kept (track : Nat) (s : State) :
    (State.deadlineExpires track s).pending = s.pending ∧ (State.deadlineExpires track s).station = s.station ∧ (State.deadlineExpires track s).boot = s.boot ∧ (State.deadlineExpires track s).ss = s.ss ∧ (State.deadlineExpires track s).lc.presence = s.lc.presence ∧ (State.deadlineExpires track s).lc.foreign = s.lc.foreign ∧ (State.deadlineExpires track s).lc.view = s.lc.view ∧ (State.deadlineExpires track s).lc.deaf = s.lc.deaf ∧ (State.deadlineExpires track s).jc.nextBase = s.jc.nextBase ∧ (State.deadlineExpires track s).jc.seq = s.jc.seq ∧ (State.deadlineExpires track s).store.mem = s.store.mem ∧ (State.deadlineExpires track s).store.fills = s.store.fills ∧ (State.deadlineExpires track s).cs.paused = s.cs.paused ∧ (State.deadlineExpires track s).dp.diskin = s.dp.diskin ∧ (State.deadlineExpires track s).dp.wprot = s.dp.wprot ∧ (State.deadlineExpires track s).dp.trk0 = s.dp.trk0 ∧ (State.deadlineExpires track s).pc.params = s.pc.params ∧ (State.deadlineExpires track s).pc.directory = s.pc.directory ∧ (State.deadlineExpires track s).pc.refusal = s.pc.refusal ∧ (State.deadlineExpires track s).pc.flash = s.pc.flash ∧ (State.deadlineExpires track s).pc.sequence = s.pc.sequence ∧ (State.deadlineExpires track s).jc.record.map (·.fixed) = s.jc.record.map (·.fixed) ∧ (State.deadlineExpires track s).jc.record.map (·.account) = s.jc.record.map (·.account) ∧ (State.deadlineExpires track s).jc.record.map (·.state) = s.jc.record.map (·.state) ∧ (State.deadlineExpires track s).jc.record.map (·.mark) = s.jc.record.map (·.mark) ∧ (State.deadlineExpires track s).jc.record.map (·.departed) = s.jc.record.map (·.departed) := by
  simp only [State.deadlineExpires]
  repeat' split
  all_goals simp

@[simp] theorem State.lastTrackTimes_kept (s : State) :
    (State.lastTrackTimes s).pending = s.pending ∧ (State.lastTrackTimes s).station = s.station ∧ (State.lastTrackTimes s).boot = s.boot ∧ (State.lastTrackTimes s).ss = s.ss ∧ (State.lastTrackTimes s).lc.presence = s.lc.presence ∧ (State.lastTrackTimes s).lc.foreign = s.lc.foreign ∧ (State.lastTrackTimes s).lc.view = s.lc.view ∧ (State.lastTrackTimes s).lc.deaf = s.lc.deaf ∧ (State.lastTrackTimes s).jc.nextBase = s.jc.nextBase ∧ (State.lastTrackTimes s).jc.seq = s.jc.seq ∧ (State.lastTrackTimes s).store.mem = s.store.mem ∧ (State.lastTrackTimes s).store.fills = s.store.fills ∧ (State.lastTrackTimes s).store.allowance = s.store.allowance ∧ (State.lastTrackTimes s).cs.paused = s.cs.paused ∧ (State.lastTrackTimes s).dp.diskin = s.dp.diskin ∧ (State.lastTrackTimes s).dp.wprot = s.dp.wprot ∧ (State.lastTrackTimes s).dp.trk0 = s.dp.trk0 ∧ (State.lastTrackTimes s).pc.params = s.pc.params ∧ (State.lastTrackTimes s).pc.directory = s.pc.directory ∧ (State.lastTrackTimes s).pc.refusal = s.pc.refusal ∧ (State.lastTrackTimes s).pc.flash = s.pc.flash ∧ (State.lastTrackTimes s).pc.sequence = s.pc.sequence ∧ (State.lastTrackTimes s).jc.record.map (·.state) = s.jc.record.map (·.state) ∧ (State.lastTrackTimes s).jc.record.map (·.mark) = s.jc.record.map (·.mark) ∧ (State.lastTrackTimes s).jc.record.map (·.departed) = s.jc.record.map (·.departed) := by
  simp only [State.lastTrackTimes]
  repeat' split
  all_goals simp [State.fixed, State.account, State.jobState, State.mark, State.departed, JobRecord.fixed, JobRecord.account, Option.map_map, Function.comp_def]

@[simp] theorem State.tellQualified_kept (s : State) :
    (State.tellQualified s).pending = s.pending ∧ (State.tellQualified s).now = s.now ∧ (State.tellQualified s).station = s.station ∧ (State.tellQualified s).boot = s.boot ∧ (State.tellQualified s).lc.presence = s.lc.presence ∧ (State.tellQualified s).lc.foreign = s.lc.foreign ∧ (State.tellQualified s).lc.view = s.lc.view ∧ (State.tellQualified s).lc.deaf = s.lc.deaf ∧ (State.tellQualified s).jc.nextBase = s.jc.nextBase ∧ (State.tellQualified s).jc.seq = s.jc.seq ∧ (State.tellQualified s).store.mem = s.store.mem ∧ (State.tellQualified s).store.fills = s.store.fills ∧ (State.tellQualified s).store.allowance = s.store.allowance ∧ (State.tellQualified s).cs.paused = s.cs.paused ∧ (State.tellQualified s).ss.present = s.ss.present ∧ (State.tellQualified s).dp.diskin = s.dp.diskin ∧ (State.tellQualified s).dp.wprot = s.dp.wprot ∧ (State.tellQualified s).dp.trk0 = s.dp.trk0 ∧ (State.tellQualified s).pc.params = s.pc.params ∧ (State.tellQualified s).pc.directory = s.pc.directory ∧ (State.tellQualified s).pc.refusal = s.pc.refusal ∧ (State.tellQualified s).pc.flash = s.pc.flash ∧ (State.tellQualified s).pc.sequence = s.pc.sequence ∧ (State.tellQualified s).jc.record.map (·.fixed) = s.jc.record.map (·.fixed) ∧ (State.tellQualified s).jc.record.map (·.account) = s.jc.record.map (·.account) ∧ (State.tellQualified s).jc.record.map (·.state) = s.jc.record.map (·.state) ∧ (State.tellQualified s).jc.record.map (·.mark) = s.jc.record.map (·.mark) ∧ (State.tellQualified s).jc.record.map (·.departed) = s.jc.record.map (·.departed) := by
  simp only [State.tellQualified]
  repeat' split
  all_goals simp

@[simp] theorem State.tellNotQualified_kept (seen : Bool) (s : State) :
    (State.tellNotQualified seen s).pending = s.pending ∧ (State.tellNotQualified seen s).now = s.now ∧ (State.tellNotQualified seen s).station = s.station ∧ (State.tellNotQualified seen s).boot = s.boot ∧ (State.tellNotQualified seen s).lc.presence = s.lc.presence ∧ (State.tellNotQualified seen s).lc.foreign = s.lc.foreign ∧ (State.tellNotQualified seen s).lc.view = s.lc.view ∧ (State.tellNotQualified seen s).lc.deaf = s.lc.deaf ∧ (State.tellNotQualified seen s).jc.nextBase = s.jc.nextBase ∧ (State.tellNotQualified seen s).jc.seq = s.jc.seq ∧ (State.tellNotQualified seen s).store.mem = s.store.mem ∧ (State.tellNotQualified seen s).store.fills = s.store.fills ∧ (State.tellNotQualified seen s).store.allowance = s.store.allowance ∧ (State.tellNotQualified seen s).cs.paused = s.cs.paused ∧ (State.tellNotQualified seen s).ss.state = s.ss.state ∧ (State.tellNotQualified seen s).ss.present = s.ss.present ∧ (State.tellNotQualified seen s).dp.diskin = s.dp.diskin ∧ (State.tellNotQualified seen s).dp.wprot = s.dp.wprot ∧ (State.tellNotQualified seen s).dp.trk0 = s.dp.trk0 ∧ (State.tellNotQualified seen s).pc.params = s.pc.params ∧ (State.tellNotQualified seen s).pc.directory = s.pc.directory ∧ (State.tellNotQualified seen s).pc.refusal = s.pc.refusal ∧ (State.tellNotQualified seen s).pc.flash = s.pc.flash ∧ (State.tellNotQualified seen s).pc.sequence = s.pc.sequence ∧ (State.tellNotQualified seen s).jc.record.map (·.fixed) = s.jc.record.map (·.fixed) ∧ (State.tellNotQualified seen s).jc.record.map (·.account) = s.jc.record.map (·.account) ∧ (State.tellNotQualified seen s).jc.record.map (·.state) = s.jc.record.map (·.state) ∧ (State.tellNotQualified seen s).jc.record.map (·.mark) = s.jc.record.map (·.mark) ∧ (State.tellNotQualified seen s).jc.record.map (·.departed) = s.jc.record.map (·.departed) := by
  simp only [State.tellNotQualified]
  repeat' split
  all_goals simp

@[simp] theorem State.tellSeek_kept (good : Bool) (s : State) :
    (State.tellSeek good s).pending = s.pending ∧ (State.tellSeek good s).now = s.now ∧ (State.tellSeek good s).station = s.station ∧ (State.tellSeek good s).boot = s.boot ∧ (State.tellSeek good s).lc.presence = s.lc.presence ∧ (State.tellSeek good s).lc.foreign = s.lc.foreign ∧ (State.tellSeek good s).lc.view = s.lc.view ∧ (State.tellSeek good s).lc.deaf = s.lc.deaf ∧ (State.tellSeek good s).jc.nextBase = s.jc.nextBase ∧ (State.tellSeek good s).jc.seq = s.jc.seq ∧ (State.tellSeek good s).store.mem = s.store.mem ∧ (State.tellSeek good s).store.fills = s.store.fills ∧ (State.tellSeek good s).store.allowance = s.store.allowance ∧ (State.tellSeek good s).cs.paused = s.cs.paused ∧ (State.tellSeek good s).ss.state = s.ss.state ∧ (State.tellSeek good s).ss.present = s.ss.present ∧ (State.tellSeek good s).dp.diskin = s.dp.diskin ∧ (State.tellSeek good s).dp.wprot = s.dp.wprot ∧ (State.tellSeek good s).dp.trk0 = s.dp.trk0 ∧ (State.tellSeek good s).pc.params = s.pc.params ∧ (State.tellSeek good s).pc.directory = s.pc.directory ∧ (State.tellSeek good s).pc.refusal = s.pc.refusal ∧ (State.tellSeek good s).pc.flash = s.pc.flash ∧ (State.tellSeek good s).pc.sequence = s.pc.sequence ∧ (State.tellSeek good s).jc.record.map (·.fixed) = s.jc.record.map (·.fixed) ∧ (State.tellSeek good s).jc.record.map (·.account) = s.jc.record.map (·.account) ∧ (State.tellSeek good s).jc.record.map (·.state) = s.jc.record.map (·.state) ∧ (State.tellSeek good s).jc.record.map (·.mark) = s.jc.record.map (·.mark) ∧ (State.tellSeek good s).jc.record.map (·.departed) = s.jc.record.map (·.departed) := by
  simp only [State.tellSeek]
  repeat' split
  all_goals simp

@[simp] theorem State.tellRecalibrate_kept (good : Bool) (s : State) :
    (State.tellRecalibrate good s).pending = s.pending ∧ (State.tellRecalibrate good s).now = s.now ∧ (State.tellRecalibrate good s).station = s.station ∧ (State.tellRecalibrate good s).boot = s.boot ∧ (State.tellRecalibrate good s).lc.presence = s.lc.presence ∧ (State.tellRecalibrate good s).lc.foreign = s.lc.foreign ∧ (State.tellRecalibrate good s).lc.view = s.lc.view ∧ (State.tellRecalibrate good s).lc.deaf = s.lc.deaf ∧ (State.tellRecalibrate good s).jc.nextBase = s.jc.nextBase ∧ (State.tellRecalibrate good s).jc.seq = s.jc.seq ∧ (State.tellRecalibrate good s).store.mem = s.store.mem ∧ (State.tellRecalibrate good s).store.fills = s.store.fills ∧ (State.tellRecalibrate good s).store.allowance = s.store.allowance ∧ (State.tellRecalibrate good s).cs.paused = s.cs.paused ∧ (State.tellRecalibrate good s).ss.present = s.ss.present ∧ (State.tellRecalibrate good s).dp.diskin = s.dp.diskin ∧ (State.tellRecalibrate good s).dp.wprot = s.dp.wprot ∧ (State.tellRecalibrate good s).dp.trk0 = s.dp.trk0 ∧ (State.tellRecalibrate good s).pc.params = s.pc.params ∧ (State.tellRecalibrate good s).pc.directory = s.pc.directory ∧ (State.tellRecalibrate good s).pc.refusal = s.pc.refusal ∧ (State.tellRecalibrate good s).pc.flash = s.pc.flash ∧ (State.tellRecalibrate good s).pc.sequence = s.pc.sequence ∧ (State.tellRecalibrate good s).jc.record.map (·.fixed) = s.jc.record.map (·.fixed) ∧ (State.tellRecalibrate good s).jc.record.map (·.account) = s.jc.record.map (·.account) ∧ (State.tellRecalibrate good s).jc.record.map (·.state) = s.jc.record.map (·.state) ∧ (State.tellRecalibrate good s).jc.record.map (·.mark) = s.jc.record.map (·.mark) ∧ (State.tellRecalibrate good s).jc.record.map (·.departed) = s.jc.record.map (·.departed) := by
  simp only [State.tellRecalibrate]
  repeat' split
  all_goals simp

@[simp] theorem State.tellMotion_kept (res : MotionResult) (s : State) :
    (State.tellMotion res s).pending = s.pending ∧ (State.tellMotion res s).now = s.now ∧ (State.tellMotion res s).station = s.station ∧ (State.tellMotion res s).boot = s.boot ∧ (State.tellMotion res s).lc.presence = s.lc.presence ∧ (State.tellMotion res s).lc.foreign = s.lc.foreign ∧ (State.tellMotion res s).lc.view = s.lc.view ∧ (State.tellMotion res s).lc.deaf = s.lc.deaf ∧ (State.tellMotion res s).jc.nextBase = s.jc.nextBase ∧ (State.tellMotion res s).jc.seq = s.jc.seq ∧ (State.tellMotion res s).store.mem = s.store.mem ∧ (State.tellMotion res s).store.fills = s.store.fills ∧ (State.tellMotion res s).store.allowance = s.store.allowance ∧ (State.tellMotion res s).cs.paused = s.cs.paused ∧ (State.tellMotion res s).ss.present = s.ss.present ∧ (State.tellMotion res s).dp.diskin = s.dp.diskin ∧ (State.tellMotion res s).dp.wprot = s.dp.wprot ∧ (State.tellMotion res s).dp.trk0 = s.dp.trk0 ∧ (State.tellMotion res s).pc.params = s.pc.params ∧ (State.tellMotion res s).pc.directory = s.pc.directory ∧ (State.tellMotion res s).pc.refusal = s.pc.refusal ∧ (State.tellMotion res s).pc.flash = s.pc.flash ∧ (State.tellMotion res s).pc.sequence = s.pc.sequence ∧ (State.tellMotion res s).jc.record.map (·.fixed) = s.jc.record.map (·.fixed) ∧ (State.tellMotion res s).jc.record.map (·.account) = s.jc.record.map (·.account) ∧ (State.tellMotion res s).jc.record.map (·.state) = s.jc.record.map (·.state) ∧ (State.tellMotion res s).jc.record.map (·.mark) = s.jc.record.map (·.mark) ∧ (State.tellMotion res s).jc.record.map (·.departed) = s.jc.record.map (·.departed) := by
  simp only [State.tellMotion]
  repeat' split
  all_goals simp

@[simp] theorem State.tellNoIndex_kept (s : State) :
    (State.tellNoIndex s).pending = s.pending ∧ (State.tellNoIndex s).now = s.now ∧ (State.tellNoIndex s).station = s.station ∧ (State.tellNoIndex s).boot = s.boot ∧ (State.tellNoIndex s).lc.presence = s.lc.presence ∧ (State.tellNoIndex s).lc.foreign = s.lc.foreign ∧ (State.tellNoIndex s).lc.view = s.lc.view ∧ (State.tellNoIndex s).lc.deaf = s.lc.deaf ∧ (State.tellNoIndex s).jc.nextBase = s.jc.nextBase ∧ (State.tellNoIndex s).jc.seq = s.jc.seq ∧ (State.tellNoIndex s).store.mem = s.store.mem ∧ (State.tellNoIndex s).store.fills = s.store.fills ∧ (State.tellNoIndex s).store.allowance = s.store.allowance ∧ (State.tellNoIndex s).cs.paused = s.cs.paused ∧ (State.tellNoIndex s).ss.state = s.ss.state ∧ (State.tellNoIndex s).ss.present = s.ss.present ∧ (State.tellNoIndex s).dp.diskin = s.dp.diskin ∧ (State.tellNoIndex s).dp.wprot = s.dp.wprot ∧ (State.tellNoIndex s).dp.trk0 = s.dp.trk0 ∧ (State.tellNoIndex s).pc.params = s.pc.params ∧ (State.tellNoIndex s).pc.directory = s.pc.directory ∧ (State.tellNoIndex s).pc.refusal = s.pc.refusal ∧ (State.tellNoIndex s).pc.flash = s.pc.flash ∧ (State.tellNoIndex s).pc.sequence = s.pc.sequence ∧ (State.tellNoIndex s).jc.record.map (·.fixed) = s.jc.record.map (·.fixed) ∧ (State.tellNoIndex s).jc.record.map (·.account) = s.jc.record.map (·.account) ∧ (State.tellNoIndex s).jc.record.map (·.state) = s.jc.record.map (·.state) ∧ (State.tellNoIndex s).jc.record.map (·.mark) = s.jc.record.map (·.mark) ∧ (State.tellNoIndex s).jc.record.map (·.departed) = s.jc.record.map (·.departed) := by
  simp only [State.tellNoIndex]
  repeat' split
  all_goals simp

@[simp] theorem State.armedEdge_kept (s : State) :
    (State.armedEdge s).pending = s.pending ∧ (State.armedEdge s).now = s.now ∧ (State.armedEdge s).station = s.station ∧ (State.armedEdge s).boot = s.boot ∧ (State.armedEdge s).ss = s.ss ∧ (State.armedEdge s).lc.presence = s.lc.presence ∧ (State.armedEdge s).lc.foreign = s.lc.foreign ∧ (State.armedEdge s).lc.view = s.lc.view ∧ (State.armedEdge s).lc.deaf = s.lc.deaf ∧ (State.armedEdge s).jc.nextBase = s.jc.nextBase ∧ (State.armedEdge s).jc.seq = s.jc.seq ∧ (State.armedEdge s).store.mem = s.store.mem ∧ (State.armedEdge s).store.fills = s.store.fills ∧ (State.armedEdge s).store.allowance = s.store.allowance ∧ (State.armedEdge s).cs.paused = s.cs.paused ∧ (State.armedEdge s).dp.diskin = s.dp.diskin ∧ (State.armedEdge s).dp.wprot = s.dp.wprot ∧ (State.armedEdge s).dp.trk0 = s.dp.trk0 ∧ (State.armedEdge s).pc.params = s.pc.params ∧ (State.armedEdge s).pc.directory = s.pc.directory ∧ (State.armedEdge s).pc.refusal = s.pc.refusal ∧ (State.armedEdge s).pc.flash = s.pc.flash ∧ (State.armedEdge s).pc.sequence = s.pc.sequence ∧ (State.armedEdge s).jc.record.map (·.fixed) = s.jc.record.map (·.fixed) ∧ (State.armedEdge s).jc.record.map (·.account) = s.jc.record.map (·.account) ∧ (State.armedEdge s).jc.record.map (·.state) = s.jc.record.map (·.state) ∧ (State.armedEdge s).jc.record.map (·.mark) = s.jc.record.map (·.mark) ∧ (State.armedEdge s).jc.record.map (·.departed) = s.jc.record.map (·.departed) := by
  simp only [State.armedEdge]
  repeat' split
  all_goals simp

@[simp] theorem State.writeEdge_kept (s : State) :
    (State.writeEdge s).pending = s.pending ∧ (State.writeEdge s).now = s.now ∧ (State.writeEdge s).station = s.station ∧ (State.writeEdge s).boot = s.boot ∧ (State.writeEdge s).ss = s.ss ∧ (State.writeEdge s).lc.presence = s.lc.presence ∧ (State.writeEdge s).lc.foreign = s.lc.foreign ∧ (State.writeEdge s).lc.view = s.lc.view ∧ (State.writeEdge s).lc.deaf = s.lc.deaf ∧ (State.writeEdge s).jc.nextBase = s.jc.nextBase ∧ (State.writeEdge s).jc.seq = s.jc.seq ∧ (State.writeEdge s).store.mem = s.store.mem ∧ (State.writeEdge s).store.fills = s.store.fills ∧ (State.writeEdge s).store.allowance = s.store.allowance ∧ (State.writeEdge s).cs.paused = s.cs.paused ∧ (State.writeEdge s).dp.diskin = s.dp.diskin ∧ (State.writeEdge s).dp.wprot = s.dp.wprot ∧ (State.writeEdge s).dp.trk0 = s.dp.trk0 ∧ (State.writeEdge s).pc.params = s.pc.params ∧ (State.writeEdge s).pc.directory = s.pc.directory ∧ (State.writeEdge s).pc.refusal = s.pc.refusal ∧ (State.writeEdge s).pc.flash = s.pc.flash ∧ (State.writeEdge s).pc.sequence = s.pc.sequence ∧ (State.writeEdge s).jc.record.map (·.fixed) = s.jc.record.map (·.fixed) ∧ (State.writeEdge s).jc.record.map (·.account) = s.jc.record.map (·.account) ∧ (State.writeEdge s).jc.record.map (·.state) = s.jc.record.map (·.state) ∧ (State.writeEdge s).jc.record.map (·.mark) = s.jc.record.map (·.mark) ∧ (State.writeEdge s).jc.record.map (·.departed) = s.jc.record.map (·.departed) := by
  simp only [State.writeEdge]
  repeat' split
  all_goals simp

@[simp] theorem State.qualifyEdge_kept (was : Bool) (s : State) :
    (State.qualifyEdge was s).pending = s.pending ∧ (State.qualifyEdge was s).now = s.now ∧ (State.qualifyEdge was s).station = s.station ∧ (State.qualifyEdge was s).boot = s.boot ∧ (State.qualifyEdge was s).lc.presence = s.lc.presence ∧ (State.qualifyEdge was s).lc.foreign = s.lc.foreign ∧ (State.qualifyEdge was s).lc.view = s.lc.view ∧ (State.qualifyEdge was s).lc.deaf = s.lc.deaf ∧ (State.qualifyEdge was s).jc.nextBase = s.jc.nextBase ∧ (State.qualifyEdge was s).jc.seq = s.jc.seq ∧ (State.qualifyEdge was s).store.mem = s.store.mem ∧ (State.qualifyEdge was s).store.fills = s.store.fills ∧ (State.qualifyEdge was s).store.allowance = s.store.allowance ∧ (State.qualifyEdge was s).cs.paused = s.cs.paused ∧ (State.qualifyEdge was s).ss.present = s.ss.present ∧ (State.qualifyEdge was s).dp.diskin = s.dp.diskin ∧ (State.qualifyEdge was s).dp.wprot = s.dp.wprot ∧ (State.qualifyEdge was s).dp.trk0 = s.dp.trk0 ∧ (State.qualifyEdge was s).pc.params = s.pc.params ∧ (State.qualifyEdge was s).pc.directory = s.pc.directory ∧ (State.qualifyEdge was s).pc.refusal = s.pc.refusal ∧ (State.qualifyEdge was s).pc.flash = s.pc.flash ∧ (State.qualifyEdge was s).pc.sequence = s.pc.sequence ∧ (State.qualifyEdge was s).jc.record.map (·.fixed) = s.jc.record.map (·.fixed) ∧ (State.qualifyEdge was s).jc.record.map (·.account) = s.jc.record.map (·.account) ∧ (State.qualifyEdge was s).jc.record.map (·.state) = s.jc.record.map (·.state) ∧ (State.qualifyEdge was s).jc.record.map (·.mark) = s.jc.record.map (·.mark) ∧ (State.qualifyEdge was s).jc.record.map (·.departed) = s.jc.record.map (·.departed) := by
  simp only [State.qualifyEdge]
  repeat' split
  all_goals simp

@[simp] theorem State.index_kept (time : Nat) (trk0 : Bool) (s : State) :
    (State.index time trk0 s).pending = s.pending ∧ (State.index time trk0 s).station = s.station ∧ (State.index time trk0 s).boot = s.boot ∧ (State.index time trk0 s).lc.presence = s.lc.presence ∧ (State.index time trk0 s).lc.foreign = s.lc.foreign ∧ (State.index time trk0 s).lc.view = s.lc.view ∧ (State.index time trk0 s).lc.deaf = s.lc.deaf ∧ (State.index time trk0 s).jc.nextBase = s.jc.nextBase ∧ (State.index time trk0 s).jc.seq = s.jc.seq ∧ (State.index time trk0 s).store.mem = s.store.mem ∧ (State.index time trk0 s).store.fills = s.store.fills ∧ (State.index time trk0 s).store.allowance = s.store.allowance ∧ (State.index time trk0 s).cs.paused = s.cs.paused ∧ (State.index time trk0 s).ss.present = s.ss.present ∧ (State.index time trk0 s).dp.diskin = s.dp.diskin ∧ (State.index time trk0 s).dp.wprot = s.dp.wprot ∧ (State.index time trk0 s).pc.params = s.pc.params ∧ (State.index time trk0 s).pc.directory = s.pc.directory ∧ (State.index time trk0 s).pc.refusal = s.pc.refusal ∧ (State.index time trk0 s).pc.flash = s.pc.flash ∧ (State.index time trk0 s).pc.sequence = s.pc.sequence ∧ (State.index time trk0 s).jc.record.map (·.fixed) = s.jc.record.map (·.fixed) ∧ (State.index time trk0 s).jc.record.map (·.account) = s.jc.record.map (·.account) ∧ (State.index time trk0 s).jc.record.map (·.state) = s.jc.record.map (·.state) ∧ (State.index time trk0 s).jc.record.map (·.mark) = s.jc.record.map (·.mark) ∧ (State.index time trk0 s).jc.record.map (·.departed) = s.jc.record.map (·.departed) := by
  simp [State.index]

@[simp] theorem State.writeCompletes_kept (u : Upset) (s : State) :
    (State.writeCompletes u s).pending = s.pending ∧ (State.writeCompletes u s).now = s.now ∧ (State.writeCompletes u s).station = s.station ∧ (State.writeCompletes u s).boot = s.boot ∧ (State.writeCompletes u s).ss = s.ss ∧ (State.writeCompletes u s).lc.presence = s.lc.presence ∧ (State.writeCompletes u s).lc.foreign = s.lc.foreign ∧ (State.writeCompletes u s).lc.view = s.lc.view ∧ (State.writeCompletes u s).lc.deaf = s.lc.deaf ∧ (State.writeCompletes u s).jc.nextBase = s.jc.nextBase ∧ (State.writeCompletes u s).jc.seq = s.jc.seq ∧ (State.writeCompletes u s).store.fills = s.store.fills ∧ (State.writeCompletes u s).store.allowance = s.store.allowance ∧ (State.writeCompletes u s).cs.paused = s.cs.paused ∧ (State.writeCompletes u s).dp.diskin = s.dp.diskin ∧ (State.writeCompletes u s).dp.wprot = s.dp.wprot ∧ (State.writeCompletes u s).dp.trk0 = s.dp.trk0 ∧ (State.writeCompletes u s).pc.params = s.pc.params ∧ (State.writeCompletes u s).pc.directory = s.pc.directory ∧ (State.writeCompletes u s).pc.refusal = s.pc.refusal ∧ (State.writeCompletes u s).pc.flash = s.pc.flash ∧ (State.writeCompletes u s).pc.sequence = s.pc.sequence ∧ (State.writeCompletes u s).jc.record.map (·.fixed) = s.jc.record.map (·.fixed) ∧ (State.writeCompletes u s).jc.record.map (·.account) = s.jc.record.map (·.account) ∧ (State.writeCompletes u s).jc.record.map (·.state) = s.jc.record.map (·.state) ∧ (State.writeCompletes u s).jc.record.map (·.mark) = s.jc.record.map (·.mark) ∧ (State.writeCompletes u s).jc.record.map (·.departed) = s.jc.record.map (·.departed) := by
  simp only [State.writeCompletes]
  repeat' split
  all_goals simp

@[simp] theorem State.counterExpires_kept (u : Upset) (s : State) :
    (State.counterExpires u s).pending = s.pending ∧ (State.counterExpires u s).now = s.now ∧ (State.counterExpires u s).station = s.station ∧ (State.counterExpires u s).boot = s.boot ∧ (State.counterExpires u s).lc.presence = s.lc.presence ∧ (State.counterExpires u s).lc.foreign = s.lc.foreign ∧ (State.counterExpires u s).lc.view = s.lc.view ∧ (State.counterExpires u s).lc.deaf = s.lc.deaf ∧ (State.counterExpires u s).jc.nextBase = s.jc.nextBase ∧ (State.counterExpires u s).jc.seq = s.jc.seq ∧ (State.counterExpires u s).store.fills = s.store.fills ∧ (State.counterExpires u s).store.allowance = s.store.allowance ∧ (State.counterExpires u s).cs.paused = s.cs.paused ∧ (State.counterExpires u s).ss.state = s.ss.state ∧ (State.counterExpires u s).ss.present = s.ss.present ∧ (State.counterExpires u s).dp.diskin = s.dp.diskin ∧ (State.counterExpires u s).dp.wprot = s.dp.wprot ∧ (State.counterExpires u s).dp.trk0 = s.dp.trk0 ∧ (State.counterExpires u s).pc.params = s.pc.params ∧ (State.counterExpires u s).pc.directory = s.pc.directory ∧ (State.counterExpires u s).pc.refusal = s.pc.refusal ∧ (State.counterExpires u s).pc.flash = s.pc.flash ∧ (State.counterExpires u s).pc.sequence = s.pc.sequence ∧ (State.counterExpires u s).jc.record.map (·.fixed) = s.jc.record.map (·.fixed) ∧ (State.counterExpires u s).jc.record.map (·.account) = s.jc.record.map (·.account) ∧ (State.counterExpires u s).jc.record.map (·.state) = s.jc.record.map (·.state) ∧ (State.counterExpires u s).jc.record.map (·.mark) = s.jc.record.map (·.mark) ∧ (State.counterExpires u s).jc.record.map (·.departed) = s.jc.record.map (·.departed) := by
  simp only [State.counterExpires]
  repeat' split
  all_goals simp

@[simp] theorem State.indexAbsent_kept (s : State) :
    (State.indexAbsent s).pending = s.pending ∧ (State.indexAbsent s).station = s.station ∧ (State.indexAbsent s).boot = s.boot ∧ (State.indexAbsent s).lc.presence = s.lc.presence ∧ (State.indexAbsent s).lc.foreign = s.lc.foreign ∧ (State.indexAbsent s).lc.view = s.lc.view ∧ (State.indexAbsent s).lc.deaf = s.lc.deaf ∧ (State.indexAbsent s).jc.nextBase = s.jc.nextBase ∧ (State.indexAbsent s).jc.seq = s.jc.seq ∧ (State.indexAbsent s).store.mem = s.store.mem ∧ (State.indexAbsent s).store.fills = s.store.fills ∧ (State.indexAbsent s).store.allowance = s.store.allowance ∧ (State.indexAbsent s).cs.paused = s.cs.paused ∧ (State.indexAbsent s).ss.state = s.ss.state ∧ (State.indexAbsent s).ss.present = s.ss.present ∧ (State.indexAbsent s).dp.diskin = s.dp.diskin ∧ (State.indexAbsent s).dp.wprot = s.dp.wprot ∧ (State.indexAbsent s).dp.trk0 = s.dp.trk0 ∧ (State.indexAbsent s).pc.params = s.pc.params ∧ (State.indexAbsent s).pc.directory = s.pc.directory ∧ (State.indexAbsent s).pc.refusal = s.pc.refusal ∧ (State.indexAbsent s).pc.flash = s.pc.flash ∧ (State.indexAbsent s).pc.sequence = s.pc.sequence ∧ (State.indexAbsent s).jc.record.map (·.fixed) = s.jc.record.map (·.fixed) ∧ (State.indexAbsent s).jc.record.map (·.account) = s.jc.record.map (·.account) ∧ (State.indexAbsent s).jc.record.map (·.state) = s.jc.record.map (·.state) ∧ (State.indexAbsent s).jc.record.map (·.mark) = s.jc.record.map (·.mark) ∧ (State.indexAbsent s).jc.record.map (·.departed) = s.jc.record.map (·.departed) := by
  simp only [State.indexAbsent]
  repeat' split
  all_goals simp

@[simp] theorem State.limitExpires_kept (s : State) :
    (State.limitExpires s).pending = s.pending ∧ (State.limitExpires s).station = s.station ∧ (State.limitExpires s).boot = s.boot ∧ (State.limitExpires s).lc.presence = s.lc.presence ∧ (State.limitExpires s).lc.foreign = s.lc.foreign ∧ (State.limitExpires s).lc.view = s.lc.view ∧ (State.limitExpires s).lc.deaf = s.lc.deaf ∧ (State.limitExpires s).jc.nextBase = s.jc.nextBase ∧ (State.limitExpires s).jc.seq = s.jc.seq ∧ (State.limitExpires s).store.mem = s.store.mem ∧ (State.limitExpires s).store.fills = s.store.fills ∧ (State.limitExpires s).store.allowance = s.store.allowance ∧ (State.limitExpires s).cs.paused = s.cs.paused ∧ (State.limitExpires s).ss.state = s.ss.state ∧ (State.limitExpires s).ss.present = s.ss.present ∧ (State.limitExpires s).dp.diskin = s.dp.diskin ∧ (State.limitExpires s).dp.wprot = s.dp.wprot ∧ (State.limitExpires s).dp.trk0 = s.dp.trk0 ∧ (State.limitExpires s).pc.params = s.pc.params ∧ (State.limitExpires s).pc.directory = s.pc.directory ∧ (State.limitExpires s).pc.refusal = s.pc.refusal ∧ (State.limitExpires s).pc.flash = s.pc.flash ∧ (State.limitExpires s).pc.sequence = s.pc.sequence ∧ (State.limitExpires s).jc.record.map (·.fixed) = s.jc.record.map (·.fixed) ∧ (State.limitExpires s).jc.record.map (·.account) = s.jc.record.map (·.account) ∧ (State.limitExpires s).jc.record.map (·.state) = s.jc.record.map (·.state) ∧ (State.limitExpires s).jc.record.map (·.mark) = s.jc.record.map (·.mark) ∧ (State.limitExpires s).jc.record.map (·.departed) = s.jc.record.map (·.departed) := by
  simp only [State.limitExpires]
  repeat' split
  all_goals simp

@[simp] theorem State.stepEnds_kept (trk0 : Bool) (s : State) :
    (State.stepEnds trk0 s).pending = s.pending ∧ (State.stepEnds trk0 s).station = s.station ∧ (State.stepEnds trk0 s).boot = s.boot ∧ (State.stepEnds trk0 s).lc.presence = s.lc.presence ∧ (State.stepEnds trk0 s).lc.foreign = s.lc.foreign ∧ (State.stepEnds trk0 s).lc.view = s.lc.view ∧ (State.stepEnds trk0 s).lc.deaf = s.lc.deaf ∧ (State.stepEnds trk0 s).jc.nextBase = s.jc.nextBase ∧ (State.stepEnds trk0 s).jc.seq = s.jc.seq ∧ (State.stepEnds trk0 s).store.mem = s.store.mem ∧ (State.stepEnds trk0 s).store.fills = s.store.fills ∧ (State.stepEnds trk0 s).store.allowance = s.store.allowance ∧ (State.stepEnds trk0 s).cs.paused = s.cs.paused ∧ (State.stepEnds trk0 s).ss.present = s.ss.present ∧ (State.stepEnds trk0 s).dp.diskin = s.dp.diskin ∧ (State.stepEnds trk0 s).dp.wprot = s.dp.wprot ∧ (State.stepEnds trk0 s).pc.params = s.pc.params ∧ (State.stepEnds trk0 s).pc.directory = s.pc.directory ∧ (State.stepEnds trk0 s).pc.refusal = s.pc.refusal ∧ (State.stepEnds trk0 s).pc.flash = s.pc.flash ∧ (State.stepEnds trk0 s).pc.sequence = s.pc.sequence ∧ (State.stepEnds trk0 s).jc.record.map (·.fixed) = s.jc.record.map (·.fixed) ∧ (State.stepEnds trk0 s).jc.record.map (·.account) = s.jc.record.map (·.account) ∧ (State.stepEnds trk0 s).jc.record.map (·.state) = s.jc.record.map (·.state) ∧ (State.stepEnds trk0 s).jc.record.map (·.mark) = s.jc.record.map (·.mark) ∧ (State.stepEnds trk0 s).jc.record.map (·.departed) = s.jc.record.map (·.departed) := by
  simp only [State.stepEnds]
  repeat' split
  all_goals simp

@[simp] theorem State.settleEnds_kept (trk0 : Bool) (s : State) :
    (State.settleEnds trk0 s).pending = s.pending ∧ (State.settleEnds trk0 s).station = s.station ∧ (State.settleEnds trk0 s).boot = s.boot ∧ (State.settleEnds trk0 s).lc.presence = s.lc.presence ∧ (State.settleEnds trk0 s).lc.foreign = s.lc.foreign ∧ (State.settleEnds trk0 s).lc.view = s.lc.view ∧ (State.settleEnds trk0 s).lc.deaf = s.lc.deaf ∧ (State.settleEnds trk0 s).jc.nextBase = s.jc.nextBase ∧ (State.settleEnds trk0 s).jc.seq = s.jc.seq ∧ (State.settleEnds trk0 s).store.mem = s.store.mem ∧ (State.settleEnds trk0 s).store.fills = s.store.fills ∧ (State.settleEnds trk0 s).store.allowance = s.store.allowance ∧ (State.settleEnds trk0 s).cs.paused = s.cs.paused ∧ (State.settleEnds trk0 s).ss.present = s.ss.present ∧ (State.settleEnds trk0 s).dp.diskin = s.dp.diskin ∧ (State.settleEnds trk0 s).dp.wprot = s.dp.wprot ∧ (State.settleEnds trk0 s).pc.params = s.pc.params ∧ (State.settleEnds trk0 s).pc.directory = s.pc.directory ∧ (State.settleEnds trk0 s).pc.refusal = s.pc.refusal ∧ (State.settleEnds trk0 s).pc.flash = s.pc.flash ∧ (State.settleEnds trk0 s).pc.sequence = s.pc.sequence ∧ (State.settleEnds trk0 s).jc.record.map (·.fixed) = s.jc.record.map (·.fixed) ∧ (State.settleEnds trk0 s).jc.record.map (·.account) = s.jc.record.map (·.account) ∧ (State.settleEnds trk0 s).jc.record.map (·.state) = s.jc.record.map (·.state) ∧ (State.settleEnds trk0 s).jc.record.map (·.mark) = s.jc.record.map (·.mark) ∧ (State.settleEnds trk0 s).jc.record.map (·.departed) = s.jc.record.map (·.departed) := by
  simp only [State.settleEnds]
  repeat' split
  all_goals simp

@[simp] theorem State.ejectEnd_kept (s : State) :
    (State.ejectEnd s).pending = s.pending ∧ (State.ejectEnd s).station = s.station ∧ (State.ejectEnd s).boot = s.boot ∧ (State.ejectEnd s).lc = s.lc ∧ (State.ejectEnd s).jc = s.jc ∧ (State.ejectEnd s).store = s.store ∧ (State.ejectEnd s).du = s.du ∧ (State.ejectEnd s).cs = s.cs ∧ (State.ejectEnd s).tb = s.tb ∧ (State.ejectEnd s).vu = s.vu ∧ (State.ejectEnd s).pc = s.pc ∧ (State.ejectEnd s).dp.diskin = s.dp.diskin ∧ (State.ejectEnd s).dp.wprot = s.dp.wprot ∧ (State.ejectEnd s).dp.trk0 = s.dp.trk0 ∧ (State.ejectEnd s).dp.wgate = s.dp.wgate := by
  simp only [State.ejectEnd]
  repeat' split
  all_goals simp

@[simp] theorem State.diskinLine_kept (level : Bool) (s : State) :
    (State.diskinLine level s).pending = s.pending ∧ (State.diskinLine level s).now = s.now ∧ (State.diskinLine level s).station = s.station ∧ (State.diskinLine level s).boot = s.boot ∧ (State.diskinLine level s).lc = s.lc ∧ (State.diskinLine level s).jc = s.jc ∧ (State.diskinLine level s).store = s.store ∧ (State.diskinLine level s).du = s.du ∧ (State.diskinLine level s).cs = s.cs ∧ (State.diskinLine level s).ss = s.ss ∧ (State.diskinLine level s).tb = s.tb ∧ (State.diskinLine level s).vu = s.vu ∧ (State.diskinLine level s).pc = s.pc ∧ (State.diskinLine level s).dp.wprot = s.dp.wprot ∧ (State.diskinLine level s).dp.trk0 = s.dp.trk0 ∧ (State.diskinLine level s).dp.wgate = s.dp.wgate := by
  simp [State.diskinLine]

@[simp] theorem State.seated_kept (s : State) :
    (State.seated s).pending = s.pending ∧ (State.seated s).now = s.now ∧ (State.seated s).station = s.station ∧ (State.seated s).boot = s.boot ∧ (State.seated s).jc = s.jc ∧ (State.seated s).store = s.store ∧ (State.seated s).du = s.du ∧ (State.seated s).ss = s.ss ∧ (State.seated s).tb = s.tb ∧ (State.seated s).vu = s.vu ∧ (State.seated s).lc.queue = s.lc.queue ∧ (State.seated s).lc.presence = s.lc.presence ∧ (State.seated s).lc.foreign = s.lc.foreign ∧ (State.seated s).lc.view = s.lc.view ∧ (State.seated s).lc.deaf = s.lc.deaf ∧ (State.seated s).cs.paused = s.cs.paused ∧ (State.seated s).dp.wprot = s.dp.wprot ∧ (State.seated s).dp.trk0 = s.dp.trk0 ∧ (State.seated s).dp.wgate = s.dp.wgate ∧ (State.seated s).pc.params = s.pc.params ∧ (State.seated s).pc.directory = s.pc.directory ∧ (State.seated s).pc.refusal = s.pc.refusal ∧ (State.seated s).pc.flash = s.pc.flash ∧ (State.seated s).pc.sequence = s.pc.sequence := by
  simp only [State.seated]
  repeat' split
  all_goals simp

@[simp] theorem State.withdrawCopyOpen_kept (s : State) :
    (State.withdrawCopyOpen s).pending = s.pending ∧ (State.withdrawCopyOpen s).now = s.now ∧ (State.withdrawCopyOpen s).station = s.station ∧ (State.withdrawCopyOpen s).boot = s.boot ∧ (State.withdrawCopyOpen s).jc = s.jc ∧ (State.withdrawCopyOpen s).store = s.store ∧ (State.withdrawCopyOpen s).du = s.du ∧ (State.withdrawCopyOpen s).cs = s.cs ∧ (State.withdrawCopyOpen s).ss = s.ss ∧ (State.withdrawCopyOpen s).tb = s.tb ∧ (State.withdrawCopyOpen s).vu = s.vu ∧ (State.withdrawCopyOpen s).dp = s.dp ∧ (State.withdrawCopyOpen s).pc = s.pc ∧ (State.withdrawCopyOpen s).lc.presence = s.lc.presence ∧ (State.withdrawCopyOpen s).lc.counters = s.lc.counters ∧ (State.withdrawCopyOpen s).lc.foreign = s.lc.foreign ∧ (State.withdrawCopyOpen s).lc.view = s.lc.view ∧ (State.withdrawCopyOpen s).lc.deaf = s.lc.deaf := by
  simp [State.withdrawCopyOpen]

@[simp] theorem State.copyUnseated_kept (s : State) :
    (State.copyUnseated s).pending = s.pending ∧ (State.copyUnseated s).now = s.now ∧ (State.copyUnseated s).station = s.station ∧ (State.copyUnseated s).boot = s.boot ∧ (State.copyUnseated s).ss = s.ss ∧ (State.copyUnseated s).lc.presence = s.lc.presence ∧ (State.copyUnseated s).lc.foreign = s.lc.foreign ∧ (State.copyUnseated s).lc.view = s.lc.view ∧ (State.copyUnseated s).lc.deaf = s.lc.deaf ∧ (State.copyUnseated s).jc.nextBase = s.jc.nextBase ∧ (State.copyUnseated s).jc.seq = s.jc.seq ∧ (State.copyUnseated s).store.mem = s.store.mem ∧ (State.copyUnseated s).store.fills = s.store.fills ∧ (State.copyUnseated s).store.allowance = s.store.allowance ∧ (State.copyUnseated s).cs.paused = s.cs.paused ∧ (State.copyUnseated s).dp.diskin = s.dp.diskin ∧ (State.copyUnseated s).dp.wprot = s.dp.wprot ∧ (State.copyUnseated s).dp.trk0 = s.dp.trk0 ∧ (State.copyUnseated s).pc.params = s.pc.params ∧ (State.copyUnseated s).pc.directory = s.pc.directory ∧ (State.copyUnseated s).pc.refusal = s.pc.refusal ∧ (State.copyUnseated s).pc.flash = s.pc.flash ∧ (State.copyUnseated s).pc.sequence = s.pc.sequence ∧ (State.copyUnseated s).jc.record.map (·.fixed) = s.jc.record.map (·.fixed) ∧ (State.copyUnseated s).jc.record.map (·.account) = s.jc.record.map (·.account) ∧ (State.copyUnseated s).jc.record.map (·.state) = s.jc.record.map (·.state) ∧ (State.copyUnseated s).jc.record.map (·.mark) = s.jc.record.map (·.mark) ∧ (State.copyUnseated s).jc.record.map (·.departed) = s.jc.record.map (·.departed) := by
  simp only [State.copyUnseated]
  repeat' split
  all_goals simp

@[simp] theorem State.unseated_kept (s : State) :
    (State.unseated s).pending = s.pending ∧ (State.unseated s).now = s.now ∧ (State.unseated s).station = s.station ∧ (State.unseated s).boot = s.boot ∧ (State.unseated s).lc.presence = s.lc.presence ∧ (State.unseated s).lc.foreign = s.lc.foreign ∧ (State.unseated s).lc.view = s.lc.view ∧ (State.unseated s).lc.deaf = s.lc.deaf ∧ (State.unseated s).jc.nextBase = s.jc.nextBase ∧ (State.unseated s).jc.seq = s.jc.seq ∧ (State.unseated s).store.mem = s.store.mem ∧ (State.unseated s).store.fills = s.store.fills ∧ (State.unseated s).store.allowance = s.store.allowance ∧ (State.unseated s).cs.paused = s.cs.paused ∧ (State.unseated s).ss.state = s.ss.state ∧ (State.unseated s).dp.wprot = s.dp.wprot ∧ (State.unseated s).dp.trk0 = s.dp.trk0 ∧ (State.unseated s).pc.params = s.pc.params ∧ (State.unseated s).pc.directory = s.pc.directory ∧ (State.unseated s).pc.refusal = s.pc.refusal ∧ (State.unseated s).pc.flash = s.pc.flash ∧ (State.unseated s).pc.sequence = s.pc.sequence ∧ (State.unseated s).jc.record.map (·.fixed) = s.jc.record.map (·.fixed) ∧ (State.unseated s).jc.record.map (·.account) = s.jc.record.map (·.account) ∧ (State.unseated s).jc.record.map (·.state) = s.jc.record.map (·.state) ∧ (State.unseated s).jc.record.map (·.mark) = s.jc.record.map (·.mark) ∧ (State.unseated s).jc.record.map (·.departed) = s.jc.record.map (·.departed) := by
  simp only [State.unseated]
  repeat' split
  all_goals simp

@[simp] theorem State.wprotTo_kept (active : Bool) (s : State) :
    (State.wprotTo active s).pending = s.pending ∧ (State.wprotTo active s).now = s.now ∧ (State.wprotTo active s).station = s.station ∧ (State.wprotTo active s).boot = s.boot ∧ (State.wprotTo active s).ss = s.ss ∧ (State.wprotTo active s).lc.presence = s.lc.presence ∧ (State.wprotTo active s).lc.foreign = s.lc.foreign ∧ (State.wprotTo active s).lc.view = s.lc.view ∧ (State.wprotTo active s).lc.deaf = s.lc.deaf ∧ (State.wprotTo active s).jc.nextBase = s.jc.nextBase ∧ (State.wprotTo active s).jc.seq = s.jc.seq ∧ (State.wprotTo active s).store.mem = s.store.mem ∧ (State.wprotTo active s).store.fills = s.store.fills ∧ (State.wprotTo active s).store.allowance = s.store.allowance ∧ (State.wprotTo active s).cs.paused = s.cs.paused ∧ (State.wprotTo active s).dp.diskin = s.dp.diskin ∧ (State.wprotTo active s).dp.trk0 = s.dp.trk0 ∧ (State.wprotTo active s).pc.params = s.pc.params ∧ (State.wprotTo active s).pc.directory = s.pc.directory ∧ (State.wprotTo active s).pc.refusal = s.pc.refusal ∧ (State.wprotTo active s).pc.flash = s.pc.flash ∧ (State.wprotTo active s).pc.sequence = s.pc.sequence ∧ (State.wprotTo active s).jc.record.map (·.fixed) = s.jc.record.map (·.fixed) ∧ (State.wprotTo active s).jc.record.map (·.account) = s.jc.record.map (·.account) ∧ (State.wprotTo active s).jc.record.map (·.state) = s.jc.record.map (·.state) ∧ (State.wprotTo active s).jc.record.map (·.mark) = s.jc.record.map (·.mark) ∧ (State.wprotTo active s).jc.record.map (·.departed) = s.jc.record.map (·.departed) := by
  simp only [State.wprotTo]
  repeat' split
  all_goals simp

@[simp] theorem State.verifyData_kept (r : JobRecord) (v : VerifyRecord) (data : List Byte) (check : BitVec 16) (u : Upset) (s : State) :
    (State.verifyData r v data check u s).pending = s.pending ∧ (State.verifyData r v data check u s).now = s.now ∧ (State.verifyData r v data check u s).station = s.station ∧ (State.verifyData r v data check u s).boot = s.boot ∧ (State.verifyData r v data check u s).ss = s.ss ∧ (State.verifyData r v data check u s).lc.presence = s.lc.presence ∧ (State.verifyData r v data check u s).lc.foreign = s.lc.foreign ∧ (State.verifyData r v data check u s).lc.view = s.lc.view ∧ (State.verifyData r v data check u s).lc.deaf = s.lc.deaf ∧ (State.verifyData r v data check u s).jc.nextBase = s.jc.nextBase ∧ (State.verifyData r v data check u s).jc.seq = s.jc.seq ∧ (State.verifyData r v data check u s).store.fills = s.store.fills ∧ (State.verifyData r v data check u s).store.allowance = s.store.allowance ∧ (State.verifyData r v data check u s).cs.paused = s.cs.paused ∧ (State.verifyData r v data check u s).dp.diskin = s.dp.diskin ∧ (State.verifyData r v data check u s).dp.wprot = s.dp.wprot ∧ (State.verifyData r v data check u s).dp.trk0 = s.dp.trk0 ∧ (State.verifyData r v data check u s).pc.params = s.pc.params ∧ (State.verifyData r v data check u s).pc.directory = s.pc.directory ∧ (State.verifyData r v data check u s).pc.refusal = s.pc.refusal ∧ (State.verifyData r v data check u s).pc.flash = s.pc.flash ∧ (State.verifyData r v data check u s).pc.sequence = s.pc.sequence ∧ (State.verifyData r v data check u s).jc.record.map (·.fixed) = s.jc.record.map (·.fixed) ∧ (State.verifyData r v data check u s).jc.record.map (·.account) = s.jc.record.map (·.account) ∧ (State.verifyData r v data check u s).jc.record.map (·.state) = s.jc.record.map (·.state) ∧ (State.verifyData r v data check u s).jc.record.map (·.mark) = s.jc.record.map (·.mark) ∧ (State.verifyData r v data check u s).jc.record.map (·.departed) = s.jc.record.map (·.departed) := by
  simp only [State.verifyData]
  repeat' split
  all_goals simp

@[simp] theorem State.masterId_kept (r : Recipe) (m : MasterRead) (c h z : Byte) (sector : Nat) (good : Bool) (s : State) :
    (State.masterId r m c h z sector good s).pending = s.pending ∧ (State.masterId r m c h z sector good s).now = s.now ∧ (State.masterId r m c h z sector good s).station = s.station ∧ (State.masterId r m c h z sector good s).boot = s.boot ∧ (State.masterId r m c h z sector good s).du = s.du ∧ (State.masterId r m c h z sector good s).cs = s.cs ∧ (State.masterId r m c h z sector good s).tb = s.tb ∧ (State.masterId r m c h z sector good s).vu = s.vu ∧ (State.masterId r m c h z sector good s).pc = s.pc ∧ (State.masterId r m c h z sector good s).lc.presence = s.lc.presence ∧ (State.masterId r m c h z sector good s).lc.counters = s.lc.counters ∧ (State.masterId r m c h z sector good s).lc.foreign = s.lc.foreign ∧ (State.masterId r m c h z sector good s).lc.view = s.lc.view ∧ (State.masterId r m c h z sector good s).lc.deaf = s.lc.deaf ∧ (State.masterId r m c h z sector good s).jc.record.map (·.fixed) = s.jc.record.map (·.fixed) ∧ (State.masterId r m c h z sector good s).jc.record.map (·.account) = s.jc.record.map (·.account) ∧ (State.masterId r m c h z sector good s).jc.record.map (·.state) = s.jc.record.map (·.state) ∧ (State.masterId r m c h z sector good s).jc.record.map (·.mark) = s.jc.record.map (·.mark) ∧ (State.masterId r m c h z sector good s).jc.record.map (·.departed) = s.jc.record.map (·.departed) ∧ (State.masterId r m c h z sector good s).jc.nextBase = s.jc.nextBase ∧ (State.masterId r m c h z sector good s).jc.seq = s.jc.seq ∧ (State.masterId r m c h z sector good s).store.mem = s.store.mem ∧ (State.masterId r m c h z sector good s).store.fills = s.store.fills ∧ (State.masterId r m c h z sector good s).store.allowance = s.store.allowance ∧ (State.masterId r m c h z sector good s).ss.state = s.ss.state ∧ (State.masterId r m c h z sector good s).ss.present = s.ss.present ∧ (State.masterId r m c h z sector good s).dp.diskin = s.dp.diskin ∧ (State.masterId r m c h z sector good s).dp.wprot = s.dp.wprot ∧ (State.masterId r m c h z sector good s).dp.trk0 = s.dp.trk0 ∧ (State.masterId r m c h z sector good s).dp.wgate = s.dp.wgate := by
  simp only [State.masterId]
  repeat' split
  all_goals simp

@[simp] theorem State.masterData_kept (r : Recipe) (m : MasterRead) (data : List Byte) (check : BitVec 16) (s : State) :
    (State.masterData r m data check s).pending = s.pending ∧ (State.masterData r m data check s).now = s.now ∧ (State.masterData r m data check s).station = s.station ∧ (State.masterData r m data check s).boot = s.boot ∧ (State.masterData r m data check s).cs = s.cs ∧ (State.masterData r m data check s).tb = s.tb ∧ (State.masterData r m data check s).vu = s.vu ∧ (State.masterData r m data check s).pc = s.pc ∧ (State.masterData r m data check s).lc.presence = s.lc.presence ∧ (State.masterData r m data check s).lc.counters = s.lc.counters ∧ (State.masterData r m data check s).lc.foreign = s.lc.foreign ∧ (State.masterData r m data check s).lc.view = s.lc.view ∧ (State.masterData r m data check s).lc.deaf = s.lc.deaf ∧ (State.masterData r m data check s).jc.nextBase = s.jc.nextBase ∧ (State.masterData r m data check s).jc.seq = s.jc.seq ∧ (State.masterData r m data check s).store.fills = s.store.fills ∧ (State.masterData r m data check s).store.allowance = s.store.allowance ∧ (State.masterData r m data check s).ss.present = s.ss.present ∧ (State.masterData r m data check s).dp.diskin = s.dp.diskin ∧ (State.masterData r m data check s).dp.wprot = s.dp.wprot ∧ (State.masterData r m data check s).dp.trk0 = s.dp.trk0 ∧ (State.masterData r m data check s).dp.wgate = s.dp.wgate ∧ (State.masterData r m data check s).jc.record.map (·.fixed) = s.jc.record.map (·.fixed) ∧ (State.masterData r m data check s).jc.record.map (·.account) = s.jc.record.map (·.account) ∧ (State.masterData r m data check s).jc.record.map (·.state) = s.jc.record.map (·.state) ∧ (State.masterData r m data check s).jc.record.map (·.mark) = s.jc.record.map (·.mark) ∧ (State.masterData r m data check s).jc.record.map (·.departed) = s.jc.record.map (·.departed) := by
  simp only [State.masterData]
  repeat' split
  all_goals simp

@[simp] theorem State.markerMissed_kept (s : State) :
    (State.markerMissed s).pending = s.pending ∧ (State.markerMissed s).now = s.now ∧ (State.markerMissed s).station = s.station ∧ (State.markerMissed s).boot = s.boot ∧ (State.markerMissed s).lc = s.lc ∧ (State.markerMissed s).jc = s.jc ∧ (State.markerMissed s).store = s.store ∧ (State.markerMissed s).du = s.du ∧ (State.markerMissed s).cs = s.cs ∧ (State.markerMissed s).tb = s.tb ∧ (State.markerMissed s).dp = s.dp ∧ (State.markerMissed s).pc = s.pc ∧ (State.markerMissed s).ss.state = s.ss.state ∧ (State.markerMissed s).ss.present = s.ss.present := by
  simp only [State.markerMissed]
  repeat' split
  all_goals simp

@[simp] theorem State.idRead_kept (c h sector z : Byte) (check : BitVec 16) (s : State) :
    (State.idRead c h sector z check s).pending = s.pending ∧ (State.idRead c h sector z check s).now = s.now ∧ (State.idRead c h sector z check s).station = s.station ∧ (State.idRead c h sector z check s).boot = s.boot ∧ (State.idRead c h sector z check s).du = s.du ∧ (State.idRead c h sector z check s).cs = s.cs ∧ (State.idRead c h sector z check s).tb = s.tb ∧ (State.idRead c h sector z check s).pc = s.pc ∧ (State.idRead c h sector z check s).lc.presence = s.lc.presence ∧ (State.idRead c h sector z check s).lc.counters = s.lc.counters ∧ (State.idRead c h sector z check s).lc.foreign = s.lc.foreign ∧ (State.idRead c h sector z check s).lc.view = s.lc.view ∧ (State.idRead c h sector z check s).lc.deaf = s.lc.deaf ∧ (State.idRead c h sector z check s).jc.record.map (·.fixed) = s.jc.record.map (·.fixed) ∧ (State.idRead c h sector z check s).jc.record.map (·.account) = s.jc.record.map (·.account) ∧ (State.idRead c h sector z check s).jc.record.map (·.state) = s.jc.record.map (·.state) ∧ (State.idRead c h sector z check s).jc.record.map (·.mark) = s.jc.record.map (·.mark) ∧ (State.idRead c h sector z check s).jc.record.map (·.departed) = s.jc.record.map (·.departed) ∧ (State.idRead c h sector z check s).jc.nextBase = s.jc.nextBase ∧ (State.idRead c h sector z check s).jc.seq = s.jc.seq ∧ (State.idRead c h sector z check s).store.mem = s.store.mem ∧ (State.idRead c h sector z check s).store.fills = s.store.fills ∧ (State.idRead c h sector z check s).store.allowance = s.store.allowance ∧ (State.idRead c h sector z check s).ss.state = s.ss.state ∧ (State.idRead c h sector z check s).ss.present = s.ss.present ∧ (State.idRead c h sector z check s).dp.diskin = s.dp.diskin ∧ (State.idRead c h sector z check s).dp.wprot = s.dp.wprot ∧ (State.idRead c h sector z check s).dp.trk0 = s.dp.trk0 ∧ (State.idRead c h sector z check s).dp.wgate = s.dp.wgate := by
  simp only [State.idRead]
  repeat' split
  all_goals simp

@[simp] theorem State.dataRead_kept (data : List Byte) (check : BitVec 16) (u : Upset) (s : State) :
    (State.dataRead data check u s).pending = s.pending ∧ (State.dataRead data check u s).now = s.now ∧ (State.dataRead data check u s).station = s.station ∧ (State.dataRead data check u s).boot = s.boot ∧ (State.dataRead data check u s).lc.presence = s.lc.presence ∧ (State.dataRead data check u s).lc.foreign = s.lc.foreign ∧ (State.dataRead data check u s).lc.view = s.lc.view ∧ (State.dataRead data check u s).lc.deaf = s.lc.deaf ∧ (State.dataRead data check u s).jc.nextBase = s.jc.nextBase ∧ (State.dataRead data check u s).jc.seq = s.jc.seq ∧ (State.dataRead data check u s).store.fills = s.store.fills ∧ (State.dataRead data check u s).store.allowance = s.store.allowance ∧ (State.dataRead data check u s).cs.paused = s.cs.paused ∧ (State.dataRead data check u s).ss.present = s.ss.present ∧ (State.dataRead data check u s).dp.diskin = s.dp.diskin ∧ (State.dataRead data check u s).dp.wprot = s.dp.wprot ∧ (State.dataRead data check u s).dp.trk0 = s.dp.trk0 ∧ (State.dataRead data check u s).pc.params = s.pc.params ∧ (State.dataRead data check u s).pc.directory = s.pc.directory ∧ (State.dataRead data check u s).pc.refusal = s.pc.refusal ∧ (State.dataRead data check u s).pc.flash = s.pc.flash ∧ (State.dataRead data check u s).pc.sequence = s.pc.sequence ∧ (State.dataRead data check u s).jc.record.map (·.fixed) = s.jc.record.map (·.fixed) ∧ (State.dataRead data check u s).jc.record.map (·.account) = s.jc.record.map (·.account) ∧ (State.dataRead data check u s).jc.record.map (·.state) = s.jc.record.map (·.state) ∧ (State.dataRead data check u s).jc.record.map (·.mark) = s.jc.record.map (·.mark) ∧ (State.dataRead data check u s).jc.record.map (·.departed) = s.jc.record.map (·.departed) := by
  simp only [State.dataRead]
  repeat' split
  all_goals simp

end Sys2Proof.Machine
end

