-- ==== Sys2Proof/Laws/Link.lean ====
section
/-! SUPPORT. What the transmit queue's operations answer: classes, acceptance, entry, withdrawal. -/

namespace Sys2Proof.Machine

/-! ### Classes (R151) -/

@[simp] theorem Body.cls_holdOff : Body.holdOff.cls = 0 := by simp [Body.cls, Body.code]
@[simp] theorem Body.cls_jobOpen (t : JobTerms) : (Body.jobOpen t).cls = 1 := by simp [Body.cls, Body.code]
@[simp] theorem Body.cls_jobStop : Body.jobStop.cls = 1 := by simp [Body.cls, Body.code]
@[simp] theorem Body.cls_jobClose (a v w h : Nat) : (Body.jobClose a v w h).cls = 1 := by simp [Body.cls, Body.code]
@[simp] theorem Body.cls_jobAbandon (r : AbandonReason) : (Body.jobAbandon r).cls = 1 := by simp [Body.cls, Body.code]
@[simp] theorem Body.cls_claim (v c : Nat) : (Body.claim v c).cls = 2 := by simp [Body.cls, Body.code]
@[simp] theorem Body.cls_tally (o : DiskOutcome) (v : Option Nat) (f : Option DiskFault) (n m : Nat) :
    (Body.tally o v f n m).cls = 3 := by simp [Body.cls, Body.code]
@[simp] theorem Body.cls_want (t a : Nat) (f : Bool) : (Body.want t a f).cls = 4 := by simp [Body.cls, Body.code]
@[simp] theorem Body.cls_release (t : Nat) (s : ReleaseStatus) (r : ReleaseReason) (o : ReleaseOrigin) (z n : Nat)
    (w : CheckWord) : (Body.release t s r o z n w).cls = 5 := by simp [Body.cls, Body.code]
@[simp] theorem Body.cls_call (f d : Bool) (j : JobId) : (Body.call f d j).cls = 6 := by simp [Body.cls, Body.code]
@[simp] theorem Body.cls_reply (p o : Nat) (s : ReplyStatus) (d : List Byte) : (Body.reply p o s d).cls = 7 := by
  simp [Body.cls, Body.code]

/-! ### Entry (R153) -/

/-- Below class 4 the queue takes a frame that has no duplicate while it holds fewer than 8. -/
theorem State.accepts_low (s : State) (b : Body) (h : b.cls < 4) :
    s.accepts b = (decide (s.boot = .ready) && !s.lc.has b.key && decide (s.lc.queue.length < 8)) := by
  simp only [State.accepts, h, decide_true, Bool.true_or, Bool.and_true]; rfl

/-- From class 4 on the queue takes a frame that has no duplicate while it holds fewer than 6. -/
theorem State.accepts_high (s : State) (b : Body) (h : 4 ≤ b.cls) :
    s.accepts b = (decide (s.boot = .ready) && !s.lc.has b.key && decide (s.lc.queue.length < 6)) := by
  have h1 : ¬ b.cls < 4 := by omega
  simp only [State.accepts, h1, decide_false, Bool.false_or]
  change (_ && decide (s.lc.queue.length < 8) && decide (s.lc.queue.length < 6)) = _
  by_cases h6 : s.lc.queue.length < 6
  · simp [h6, show s.lc.queue.length < 8 by omega]
  · simp [h6]

theorem State.enter_accepted (s : State) (b : Body) (j : JobId) (h : s.accepts b = true) :
    s.enter b j = s.push b j := by simp [State.enter, h]

theorem State.enter_refused (s : State) (b : Body) (j : JobId) (h : s.accepts b = false) : s.enter b j = s := by
  simp [State.enter, h]

/-! ### Leaving -/

/-- A queue that keeps all its frames is the same queue. -/
theorem State.withdraw_none (s : State) (p : Frame → Bool) (h : ∀ f ∈ s.lc.queue, p f = true → f.started = true)
    (hk : ∀ k, s.lc.lossFor = some k → s.lc.has k = true) : s.withdraw p = s := by
  have hq : (s.lc.queue.filter fun f => !p f || f.started) = s.lc.queue := by
    rw [List.filter_eq_self]
    intro f hf
    by_cases hp : p f = true
    · simp [hp, h f hf hp]
    · simp [hp]
  simp only [State.withdraw, State.setQueue, hq]
  cases hl : s.lc.lossFor with
  | none => simp [← hl]
  | some k =>
    have := hk k hl
    simp only [Link.has] at this
    simp [this, ← hl]

end Sys2Proof.Machine
end

