-- ==== Sys2Proof/Laws/Cycle.lean ====
section
/-! SUPPORT. What the shared operations of the copy cycle and of the job's end answer. -/

namespace Sys2Proof.Machine

/-- A record that keeps its fixed part and its account is held where it was held. -/
theorem recordKept {o o' : Option JobRecord} {r : JobRecord} (h : o = some r)
    (hf : o'.map (·.fixed) = o.map (·.fixed)) (ha : o'.map (·.account) = o.map (·.account)) :
    ∃ r', o' = some r' ∧ r'.fixed = r.fixed ∧ r'.account = r.account := by
  subst h
  cases o' with
  | none => simp at hf
  | some r' => exact ⟨r', rfl, by simpa using hf, by simpa using ha⟩

theorem State.setNextBase_opener {s : State} {g : JobRecord → Nat} {r : JobRecord} (h : s.jc.record = some r)
    (ho : r.opener = s.station) : (s.setNextBase g).jc.nextBase = g r := by simp [State.setNextBase, h, ho]

theorem State.setNextBase_other {s : State} {g : JobRecord → Nat}
    (h : ∀ r, s.jc.record = some r → r.opener ≠ s.station) : s.setNextBase g = s := by
  unfold State.setNextBase
  split
  · rename_i r hr
    simp [h r hr]
  · rfl

/-- A port without a user at rest, as one record update. -/
theorem State.idlePort_eq (s : State) :
    s.idlePort = { s with dp := if s.portUser = .nobody then s.dp.atRest else s.dp } := by
  unfold State.idlePort
  split
  · rename_i h; rw [if_pos h]; rfl
  · rename_i h; rw [if_neg h]

/-- The last entry of the history is the one appended. -/
theorem State.appendHistory_last (e : HistoryEntry) (s : State) :
    (s.appendHistory e).pc.history.getLast? = some e := by simp [State.appendHistory]

theorem State.endVerify_cs (s : State) : s.endVerify.cs = s.cs := by simp

/-- The use of a disk ends: the current track goes, the disk record stays. -/
theorem State.endUse_cs (s : State) :
    s.endUse.cs = { s.cs with phase := none, disk := { s.cs.disk with live := false } } := by
  simp [State.endUse, State.dropNeed]

/-- The use of a disk ends: the lines of MOTOR, SELECT and WGATE drop. -/
theorem State.endUse_dp (s : State) : s.endUse.dp = s.dp.dropGate.stopMotor := by
  have hv : ∀ x : State, x.endVerify.dp.stopMotor = x.dp.stopMotor := by
    intro x
    unfold State.endVerify
    split
    · split
      · rcases hm : x.dp.motion with _ | m <;> simp [Drive.stopMotor, Drive.endMotion, Drive.disarm, hm]
      · rfl
    · rfl
  simp [State.endUse, State.dropNeed, State.stopWrite, State.stopMotor, hv]

theorem State.endUse_tb (s : State) : s.endUse.tb = none := by
  simp [State.endUse, State.dropNeed, State.stopMotor]

theorem State.endUse_need (s : State) : s.endUse.du.need = [] := by
  simp [State.endUse, State.dropNeed]

theorem State.fault_cs (f : DiskFault) (s : State) :
    (s.fault f).cs = { s.cs with disk := s.cs.disk.record f } := rfl

theorem Drive.stopMotor_lines (dp : Drive) :
    dp.stopMotor.motor = false ∧ dp.stopMotor.select = false ∧ dp.stopMotor.wgate = false
    ∧ dp.stopMotor.spindle = {} ∧ dp.stopMotor.counter = none ∧ dp.stopMotor.qualify = none
    ∧ dp.stopMotor.ejectEnds = dp.ejectEnds ∧ dp.stopMotor.lock = dp.lock := by
  simp [Drive.stopMotor]

theorem State.endRead_eject (s : State) : s.endRead.dp.ejectEnds = s.dp.ejectEnds := by
  unfold State.endRead
  split
  · split <;> simp [Drive.disarm]
  · rfl

theorem State.startTest_calm {s : State} (h : s.startConditions = false) : s.startTest = s := by
  simp [State.startTest, h]

theorem State.startTest_elsewhere {s : State} (h : s.cs.state ≠ .standby) : s.startTest = s := by
  simp [State.startTest, h]

/-- Without the start conditions a return to STANDBY stops the motor and unlocks the door, and no disk starts. -/
theorem State.toStandby_calm {s : State} (h : s.startConditions = false) :
    s.toStandby = { s with
      cs := { s.cs with state := .standby }
      dp := { s.dp.stopMotor with lock := false }
      tb := none } := by
  unfold State.toStandby
  rw [State.startTest_calm]
  · rfl
  · simpa [State.startConditions, State.stopMotor, State.cycleTo] using h

/-- The claim conditions of a MEMBER are its start conditions. -/
theorem State.claimConditions_member {s : State} {r : JobRecord} (h : s.jc.record = some r) (hr : r.role = .member) :
    s.claimConditions = s.startConditions := by simp [State.claimConditions, State.startConditions, h, hr]

/-- What the job's end leaves of the Source Sequencer (R119): nothing is read, held in reserve or abandoned for. -/
theorem State.sourceEnding_ends (s : State) :
    s.sourceEnding.ss.read = none ∧ s.sourceEnding.ss.reserve = none ∧ s.sourceEnding.ss.abandon = none := by
  have hr : s.endRead.ss.read = none := by
    unfold State.endRead
    split
    · rfl
    · assumption
  unfold State.sourceEnding
  split
  · refine ⟨?_, rfl, rfl⟩
    simpa [State.stopMotor] using hr
  · exact ⟨rfl, rfl, rfl⟩

end Sys2Proof.Machine
end

