-- ==== Sys2Proof/Laws/Completion.lean ====
section
/-! SUPPORT. Operations whose lemmas need more than unfolding: what a frame completion is handed on for, home repair,
departure. -/

set_option linter.unusedSimpArgs false

namespace Sys2Proof.Machine

/-- What every frame completion is handed to the JC and the CS for leaves these fields as they are. -/
@[simp] theorem State.afterCompletion_kept (s before : State) :
    (s.afterCompletion before).pending = s.pending ∧ (s.afterCompletion before).now = s.now
    ∧ (s.afterCompletion before).station = s.station ∧ (s.afterCompletion before).boot = s.boot
    ∧ (s.afterCompletion before).jc = s.jc ∧ (s.afterCompletion before).store = s.store
    ∧ (s.afterCompletion before).du = s.du ∧ (s.afterCompletion before).ss = s.ss
    ∧ (s.afterCompletion before).vu = s.vu
    ∧ (s.afterCompletion before).lc.presence = s.lc.presence
    ∧ (s.afterCompletion before).lc.foreign = s.lc.foreign
    ∧ (s.afterCompletion before).lc.view = s.lc.view ∧ (s.afterCompletion before).lc.deaf = s.lc.deaf
    ∧ (s.afterCompletion before).cs.paused = s.cs.paused
    ∧ (s.afterCompletion before).dp.diskin = s.dp.diskin ∧ (s.afterCompletion before).dp.wprot = s.dp.wprot
    ∧ (s.afterCompletion before).dp.trk0 = s.dp.trk0
    ∧ (s.afterCompletion before).pc.params = s.pc.params
    ∧ (s.afterCompletion before).pc.directory = s.pc.directory
    ∧ (s.afterCompletion before).pc.refusal = s.pc.refusal ∧ (s.afterCompletion before).pc.flash = s.pc.flash
    ∧ (s.afterCompletion before).pc.sequence = s.pc.sequence := by
  simp [State.afterCompletion]

/-- Removing entries of the want list one after another leaves what removing one leaves. -/
theorem State.foldl_kept {α β : Type} (proj : State → β) (g : State → α → State)
    (h : ∀ s a, proj (g s a) = proj s) (l : List α) (s : State) : proj (l.foldl g s) = proj s := by
  induction l generalizing s with
  | nil => rfl
  | cons x xs ih => rw [List.foldl_cons, ih, h]

/-- Home repair leaves these fields as they are. -/
@[simp] theorem State.homeRepair_kept (s : State) :
    s.homeRepair.pending = s.pending ∧ s.homeRepair.now = s.now ∧ s.homeRepair.station = s.station
    ∧ s.homeRepair.boot = s.boot ∧ s.homeRepair.cs = s.cs ∧ s.homeRepair.ss = s.ss ∧ s.homeRepair.tb = s.tb
    ∧ s.homeRepair.vu = s.vu ∧ s.homeRepair.dp = s.dp ∧ s.homeRepair.pc = s.pc
    ∧ s.homeRepair.lc.presence = s.lc.presence ∧ s.homeRepair.lc.counters = s.lc.counters
    ∧ s.homeRepair.lc.foreign = s.lc.foreign ∧ s.homeRepair.lc.view = s.lc.view
    ∧ s.homeRepair.lc.deaf = s.lc.deaf
    ∧ s.homeRepair.jc.nextBase = s.jc.nextBase ∧ s.homeRepair.jc.seq = s.jc.seq
    ∧ s.homeRepair.store.mem = s.store.mem ∧ s.homeRepair.store.fills = s.store.fills
    ∧ s.homeRepair.jc.record.map (·.fixed) = s.jc.record.map (·.fixed)
    ∧ s.homeRepair.jc.record.map (·.account) = s.jc.record.map (·.account)
    ∧ s.homeRepair.jc.record.map (·.state) = s.jc.record.map (·.state)
    ∧ s.homeRepair.jc.record.map (·.mark) = s.jc.record.map (·.mark)
    ∧ s.homeRepair.jc.record.map (·.departed) = s.jc.record.map (·.departed) := by
  unfold State.homeRepair
  split
  · rename_i r hr
    split
    · have keep : ∀ {β : Type} (proj : State → β) (_ : ∀ (s : State) (w : Want), proj (s.removeWant w.track) = proj s)
          (l : List Want) (s : State), proj (l.foldl (fun s w => s.removeWant w.track) s) = proj s :=
        fun proj h l s => State.foldl_kept proj _ h l s
      refine ⟨?_, ?_, ?_, ?_, ?_, ?_, ?_, ?_, ?_, ?_, ?_, ?_, ?_, ?_, ?_, ?_, ?_, ?_, ?_, ?_, ?_, ?_, ?_, ?_⟩
      · exact (keep (·.pending) (by simp) _ _).trans (by simp)
      · exact (keep (·.now) (by simp) _ _).trans (by simp)
      · exact (keep (·.station) (by simp) _ _).trans (by simp)
      · exact (keep (·.boot) (by simp) _ _).trans (by simp)
      · exact (keep (·.cs) (by simp) _ _).trans (by simp)
      · exact (keep (·.ss) (by simp) _ _).trans (by simp)
      · exact (keep (·.tb) (by simp) _ _).trans (by simp)
      · exact (keep (·.vu) (by simp) _ _).trans (by simp)
      · exact (keep (·.dp) (by simp) _ _).trans (by simp)
      · exact (keep (·.pc) (by simp) _ _).trans (by simp)
      · exact (keep (·.lc.presence) (by simp) _ _).trans (by simp)
      · exact (keep (·.lc.counters) (by simp) _ _).trans (by simp)
      · exact (keep (·.lc.foreign) (by simp) _ _).trans (by simp)
      · exact (keep (·.lc.view) (by simp) _ _).trans (by simp)
      · exact (keep (·.lc.deaf) (by simp) _ _).trans (by simp)
      · exact (keep (·.jc.nextBase) (by simp) _ _).trans (by simp)
      · exact (keep (·.jc.seq) (by simp) _ _).trans (by simp)
      · exact (keep (·.store.mem) (by simp) _ _).trans (by simp)
      · exact (keep (·.store.fills) (by simp) _ _).trans (by simp)
      · refine (keep (·.jc.record.map (·.fixed)) (by simp) _ _).trans ?_
        simp [hr, JobRecord.fixed]
      · refine (keep (·.jc.record.map (·.account)) (by simp) _ _).trans ?_
        simp [hr, JobRecord.account]
      · refine (keep (·.jc.record.map (·.state)) (by simp) _ _).trans ?_
        simp [hr]
      · refine (keep (·.jc.record.map (·.mark)) (by simp) _ _).trans ?_
        simp [hr]
      · refine (keep (·.jc.record.map (·.departed)) (by simp) _ _).trans ?_
        simp [hr]
    · simp
  · simp

end Sys2Proof.Machine
end

