-- ==== Sys2Proof/Laws/Slots.lean ====
section
/-! SUPPORT. What reads of the slot table and of the track map give after each write. -/

set_option linter.unusedSimpArgs false

namespace Sys2Proof.Machine

/-! ### Slots and map entries (R22, R23) -/

/-- A slot reads as it was set. -/
theorem Store.slot_setSlot (st : Store) (i : Nat) (e : Slot) (h : i < 64) : (st.setSlot i e).slot i = e := by
  simp [Store.setSlot, Store.slot, Vector.getElem?_setIfInBounds, show i < Config.slotCount from h]

/-- A map entry reads as it was set. -/
theorem Store.entry_setEntry (st : Store) (i : Nat) (e : MapEntry) (h : i < 168) : (st.setEntry i e).entry i = e := by
  simp [Store.setEntry, Store.entry, Vector.getElem?_setIfInBounds, show i < Config.trackCount from h]

/-- Another map entry is left. -/
theorem Store.entry_setEntry_ne (st : Store) (i j : Nat) (e : MapEntry) (h : i ≠ j) : (st.setEntry i e).entry j =
    st.entry j := by
  simp [Store.entry, Store.setEntry, h]

theorem Store.slot_setEntry (st : Store) (i t : Nat) (e : MapEntry) : (st.setEntry t e).slot i = st.slot i := rfl

theorem Store.entry_setSlot (st : Store) (i t : Nat) (e : Slot) : (st.setSlot i e).entry t = st.entry t := rfl

/-- Every slot is FREE at reset. -/
theorem Store.slot_reset (i : Nat) : State.reset.store.slot i = {} := by
  simp [State.reset, Store.slot]
  by_cases h : i < Config.slotCount
  · simp [h]
  · simp [h]

/-! ### Freed and searched (R22, R27) -/

/-- A freed slot stands at its reset value. -/
theorem Store.freeSlot_slot (st : Store) (i : Nat) (h : i < 64) : (st.freeSlot i).slot i = {} := by
  unfold Store.freeSlot
  have : ∀ (st1 : Store) c, Store.slot { st1.setSlot i {} with cache := c } i = {} := fun st1 c => Store.slot_setSlot
      st1 i {} h
  exact this _ _

/-- The track of a freed slot is ABSENT; its home mark stays. -/
theorem Store.freeSlot_entry (st : Store) (i t : Nat) (h : t < 168) (ht : (st.slot i).track = some t) : (st.freeSlot
    i).entry t = { st.entry t with presence := .absent, slot := none } := by
  unfold Store.freeSlot
  rw [ht]
  exact Store.entry_setEntry st t _ h

/-- A freed slot leaves the cache order list. -/
theorem Store.freeSlot_cache (st : Store) (i : Nat) : (st.freeSlot i).cache = st.cache.erase i := by
  unfold Store.freeSlot; split <;> rfl

/-- A cleared store keeps its bytes alone. -/
theorem Store.cleared_eq (a b : Store) (h : a.mem = b.mem) : a.cleared = { mem := b.mem } := by simp [Store.cleared,
    h]

/-- The first slot with a property has it, and no lower one does. -/
theorem Store.firstSlot_some {st : Store} {p : Slot → Bool} {i : Nat} (h : st.firstSlot p = some i) : p (st.slot i) =
    true ∧ ∀ j < i, p (st.slot j) = false := by
  unfold Store.firstSlot at h
  refine ⟨by simpa using List.find?_some h, ?_⟩
  intro j hj
  rw [List.find?_range_eq_some] at h
  simpa using h.2.2 j hj

/-- Where there is no first slot with a property, none has it. -/
theorem Store.firstSlot_none {st : Store} {p : Slot → Bool} (h : st.firstSlot p = none) : ∀ j < 64, p (st.slot j) =
    false := by
  unfold Store.firstSlot at h
  intro j hj
  have := List.find?_eq_none.mp h j (by simpa using hj)
  simpa using this

end Sys2Proof.Machine
end

