-- ==== Sys2Proof/Laws/Sending.lean ====
section
/-! SUPPORT. What the offer, a loss and a full queue do. -/

set_option linter.unusedSimpArgs false

namespace Sys2Proof.Machine

/-! ### Masks -/

/-- The bit of a station in the mask of one station. -/
theorem bit_station (i x : StationId) : ((1 <<< x.val : Nat) : StationMask).getLsbD i.val = decide (i = x) := by
  revert i x; decide +kernel

/-- A mask of a list holds the stations of the list. -/
theorem maskOf_mem (l : List StationId) (i : StationId) : (maskOf l).getLsbD i.val = decide (i ∈ l) := by
  have : ∀ (l : List StationId) (m : StationMask), (l.foldl (fun (m : StationMask) (i : StationId) => m ||| (1 <<<
      i.val)) m).getLsbD i.val = (m.getLsbD i.val || decide (i ∈ l)) := by
    intro l
    induction l with
    | nil => intro m; simp
    | cons x xs ih =>
      intro m
      rw [List.foldl_cons, ih, BitVec.getLsbD_or, bit_station]
      by_cases h : i = x <;> simp [h]
  have := this l 0
  rw [maskOf, this]; simp

/-! ### The offer (R154) -/

/-- The frame picked is the oldest of the lowest class of its list. -/
theorem lowestClass_some : ∀ (l : List Frame) (f : Frame), lowestClass l = some f → f ∈ l ∧ (∀ g ∈ l, f.body.cls ≤
    g.body.cls) ∧ (l.filter fun g => decide (g.body.cls = f.body.cls)).head? = some f := by
  intro l
  induction l with
  | nil => intro f h; simp [lowestClass] at h
  | cons x xs ih =>
    intro f h
    rw [lowestClass] at h
    cases hl : lowestClass xs with
    | none =>
      rw [hl] at h; injection h with h; subst h
      have : xs = [] := by
        cases xs with
        | nil => rfl
        | cons y ys => 
          cases hy : lowestClass ys with
          | none => simp [lowestClass, hy] at hl
          | some g => simp only [lowestClass, hy] at hl; split at hl <;> simp at hl
      subst this; simp
    | some g =>
      rw [hl] at h
      obtain ⟨h1, h2, h3⟩ := ih g hl
      simp only at h
      split at h
      · injection h with h; subst h
        rename_i hle
        refine ⟨by simp, ?_, by simp⟩
        intro y hy; rcases List.mem_cons.1 hy with hy | hy
        · subst hy; omega
        · have := h2 y hy; omega
      · injection h with h; subst h
        rename_i hle
        refine ⟨by simp [h1], ?_, ?_⟩
        · intro y hy; rcases List.mem_cons.1 hy with hy | hy
          · subst hy; omega
          · exact h2 y hy
        · rw [List.filter_cons_of_neg (by simp; omega)]; exact h3

/-- A start, as one record update. -/
theorem State.startFrame_eq (k : FrameKey) (s : State) : s.startFrame k = { s with lc := { s.lc with
        queue := s.lc.queue.map fun g => if g.key = k then { g with started := true } else g
        lossCount := if k = .holdOff ∨ s.lc.lossFor = some k then s.lc.lossCount else 0
        lossFor := if k = .holdOff ∨ s.lc.lossFor = some k then s.lc.lossFor else none } } := by
  simp only [State.startFrame, State.mapFrame]
  split <;> simp [*]

/-- A frame that is neither a RELEASE from a slot nor a CALL ANSWER starts as it is. -/
theorem State.offer_plain (s : State) (f : Frame) (n : Nat) (hp : s.pick = some f) 
   (h : (∀ t reason o z n w, f.body ≠ .release t .good reason o z n w) ∧ (∀ a j, f.body ≠ .call false a j)) :
       State.offer (n+1) s = s.startFrame f.key := by
  rw [State.offer, hp]
  simp only
  split
  · rename_i h1; exact absurd h1 (h.1 _ _ _ _ _ _)
  · rename_i h1; exact absurd h1 (h.2 _ _)
  · rfl

/-- Both starts of arbitration offer a frame where none is on the medium. -/
theorem State.start_offers (s : State) (c : Instr) (hc : c = .arbitrationStart ∨ c = .joinStart) (hb : s.boot =
    .ready) (hs : s.lc.sending = none) :
   exec c s = .next (State.offer 16 { s with lc := { s.lc with deaf := false } }) := by
  have : s.startArbitration = State.offer 16 { s with lc := { s.lc with deaf := false } } := by
    have h2 : Link.sending { s.lc with deaf := false } = none := hs
    simp only [State.startArbitration, hb, if_true, h2]; rfl
  rcases hc with hc | hc <;> subst hc <;> simp [exec, execArbitrationStart, execJoinStart, this]

/-- Frames of one key are of one class. -/
theorem Frame.cls_of_key (f g : Frame) (h : f.key = g.key) : f.body.cls = g.body.cls := by
  revert h; simp only [Frame.key]
  cases f.body <;> cases g.body <;> simp [Body.key]

/-- A start keeps every frame in its place. -/
theorem State.startFrame_keys (k : FrameKey) (s : State) : (s.startFrame k).lc.queue.map Frame.key = s.lc.queue.map
    Frame.key := by
  rw [State.startFrame_eq]; simp only [List.map_map]
  apply List.map_congr_left; intro g _; simp only [Function.comp]; split <;> rfl

/-- A start puts frames of its own key alone on the medium. -/
theorem State.startFrame_started (k : FrameKey) (s : State) (g : Frame) (h : g ∈ (s.startFrame k).lc.queue) (hs :
    g.started = true) :
   g.key = k ∨ ∃ g0 ∈ s.lc.queue, g0.started = true ∧ g0.key = g.key := by
  rw [State.startFrame_eq] at h
  simp only [List.mem_map] at h
  obtain ⟨x, hx, he⟩ := h
  split at he
  · left; subst he; assumption
  · right; subst he; exact ⟨_, hx, hs, rfl⟩

/-- A loss counted, as one record update. -/
theorem State.raiseLoss_eq (s : State) (k : FrameKey) (h : k ≠ .holdOff) : s.raiseLoss k = State.holdOffTest { s with
    lc := { s.lc with
        lossCount := min (s.lc.lossCount + 1) s.pc.params.holdOffLimit, lossFor := some k } } := by simp
            [State.raiseLoss, h]

/-- Below the limit, or with a view, no HOLD-OFF is entered. -/
theorem State.holdOffTest_calm (s : State) (h : s.lc.lossCount ≠ s.pc.params.holdOffLimit ∨ s.lc.view.isSome = true)
    : s.holdOffTest = s := by
  simp only [State.holdOffTest]; split
  · rename_i h1; rcases h with h | h
    · exact absurd h1.1 h
    · simp [h1.2] at h
  · rfl

/-! ### A full queue (R153) -/

/-- A full queue refuses every frame. -/
theorem State.accepts_full (s : State) (b : Body) (h : 8 ≤ s.lc.queue.length) : s.accepts b = false := by
  simp [State.accepts, Config.queuePlaces, Nat.not_lt.2 h]

theorem State.abandonFromReserve_full (s : State) (h : 8 ≤ s.lc.queue.length) : s.abandonFromReserve = s := by
  unfold State.abandonFromReserve
  split
  · simp [State.accepts_full s _ h]
  · rfl

theorem State.closeTest_full (s : State) (h : 8 ≤ s.lc.queue.length) : s.closeTest = s := by
  unfold State.closeTest
  split
  · simp [State.enter, State.accepts_full s _ h]
  · rfl

theorem State.enterStop_full (s : State) (h : 8 ≤ s.lc.queue.length) : s.enterStop.lc = s.lc := by
  unfold State.enterStop
  split
  · split
    · rfl
    · simp [State.accepts_full s _ h]
  · rfl

/-- JOB STOP entered, or held in reserve by a full queue. -/
theorem State.enterStop_new (s : State) (r : JobRecord) (hb : s.boot = .ready) (hr : s.jc.record = some r) (hn :
    s.lc.has .jobStop = false) :
  s.enterStop = if s.lc.queue.length < 8 then { s with
          jc := { s.jc with stopDue := false }
          lc := { s.lc with queue := s.lc.queue ++ [{ body := .jobStop, jobId := r.jobId }] } } else { s with jc := {
              s.jc with stopDue := true } } := by
  have ha : s.accepts .jobStop = decide (s.lc.queue.length < 8) := by
    rw [State.accepts_low _ _ (by simp), hb]
    have : s.lc.has (Body.jobStop).key = false := hn
    simp [this]
  by_cases h8 : s.lc.queue.length < 8 <;> simp [State.enterStop, hr, hn, ha, h8, State.push]

theorem State.stopFromReserve_full (s : State) (h : 8 ≤ s.lc.queue.length) : s.stopFromReserve.lc = s.lc := by
  unfold State.stopFromReserve
  split
  · split
    · exact State.enterStop_full s h
    · rfl
  · rfl

theorem State.stopFromReserve_due (s : State) : s.stopFromReserve.jc.abandonDue = s.jc.abandonDue := by
  unfold State.stopFromReserve; split
  · split
    · unfold State.enterStop; split
      · split
        · rfl
        · split <;> rfl
      · rfl
    · rfl
  · rfl

/-- A start test enters no frame. -/
theorem State.startTest_queue (s : State) : s.startTest.lc.queue = s.lc.queue := by
  unfold State.startTest State.startDisk
  split
  · dsimp only; split
    · simp [State.enterOut, State.appendHistory]
    · simp
  · rfl

theorem State.claimAgain_full (s : State) (h : 8 ≤ s.lc.queue.length) : s.claimAgain.lc.queue = s.lc.queue := by
  unfold State.claimAgain; split
  · unfold State.askClaim; split
    · split
      · simp [State.enter, State.accepts_full s _ h]
      · unfold State.toStandby
        rw [State.startTest_queue]; simp
    · rfl
  · rfl

theorem State.enterTally_full (s : State) (h : 8 ≤ s.lc.queue.length) : s.enterTally = s := by
  unfold State.enterTally; split
  · split
    · simp [State.enter, State.accepts_full s _ h]
    · rfl
  · rfl

theorem State.releaseFromReserve_full (s : State) (h : 8 ≤ s.lc.queue.length) : s.releaseFromReserve.lc = s.lc := by
  unfold State.releaseFromReserve; split
  · unfold State.enterRelease; split
    · simp [State.accepts_full s _ h]
    · simp
    · rfl
  · rfl

end Sys2Proof.Machine
end

