-- ==== Sys2Proof/Laws/Frames.lean ====
section
/-! SUPPORT. What a frame completion does before and after the rule of its own kind, and the ends of the job
and of start-up. -/

set_option linter.unusedSimpArgs false

namespace Sys2Proof.Machine

/-! ### Completion (R152, R156, R159) -/

/-- A frame received with a good body acts on the state that its completion leaves. -/
theorem State.completed_heard {α : Type} (raw : List Byte) (body : Option α) (k : α → Option FrameKey) (sender : StationId) (apply : α
    → State → State) (s : State) (b : α)
   (h : s.receives) (hb : body = some b) (k' : FrameKey) (hk : k b = some k') : s.completed raw body k sender apply =
       (apply b (s.heard k' sender)).afterCompletion s := by
  simp only [State.completed, h.1, h.2, hb, hk, if_true]; rfl

/-- A completion leaves all but the queue, the view and a link pin. -/
@[simp] theorem State.heard_kept (k : FrameKey) (sender : StationId) (s : State) : (s.heard k sender).boot = s.boot ∧
    (s.heard k sender).station = s.station ∧ (s.heard k sender).now = s.now ∧ (s.heard k sender).pc = s.pc  ∧
    (s.heard k sender).ss = s.ss ∧ (s.heard k sender).cs = s.cs ∧ (s.heard k sender).dp = s.dp ∧ (s.heard k
    sender).du = s.du ∧ (s.heard k sender).vu = s.vu ∧ (s.heard k sender).tb = s.tb ∧ (s.heard k sender).jc.nextBase
    = s.jc.nextBase ∧  (s.heard k sender).jc.seq = s.jc.seq ∧ (s.heard k sender).store.mem = s.store.mem ∧ (s.heard k
    sender).lc.counters = s.lc.counters ∧ (s.heard k sender).lc.foreign = s.lc.foreign ∧ (s.heard k
    sender).lc.presence = s.lc.presence ∧ (s.heard k sender).lc.deaf = s.lc.deaf := by
  simp [State.heard]

/-- Unless the frame is a RELEASE, its completion leaves the record and the store. -/
theorem State.heard_plain (k : FrameKey) (sender : StationId) (s : State) (hk : ∀ t r, k ≠ .release t r) : (s.heard k
    sender).jc = s.jc ∧ (s.heard k sender).store = s.store := by
  simp only [State.heard, State.ownLeaves]
  split
  · cases k <;> first | exact absurd rfl (hk _ _) | simp
  · simp

/-- The end of a view, as one record update. -/
theorem State.endViewOf_eq (sender : StationId) (s : State) : s.endViewOf sender = { s with lc := { s.lc with
        view := match s.lc.view with
          | some v => if v.holder = sender then none else some v
          | none => none } } := by
  unfold State.endViewOf
  cases hv : s.lc.view with
  | none => simp [← hv]
  | some v => 
    by_cases h : v.holder = sender
    · simp [h]
    · simp [h, ← hv]

/-- Outside CLAIM and TALLY a withdrawn CLAIM changes nothing more. -/
theorem State.claimWithdrawn_elsewhere {s : State} (h1 : s.cs.state ≠ .claim) (h2 : s.cs.state ≠ .tally) :
    s.claimWithdrawn = s := by
  simp [State.claimWithdrawn, h1, State.pulledUnclaimed, h2]

/-- Outside CLAIM and TALLY a completion is handed on without effect on the cycle. -/
theorem State.afterCompletion_elsewhere (x s : State) (h1 : x.cs.state ≠ .claim) (h2 : x.cs.state ≠ .tally) :
    (x.afterCompletion s).cs = x.cs ∧ (x.afterCompletion s).dp = x.dp ∧ (x.afterCompletion s).pc = x.pc ∧
    (x.afterCompletion s).lc.counters = x.lc.counters ∧ (x.afterCompletion s).tb = x.tb := by
  have hy : (s.holdOffReturn x).cs = x.cs := by simp
  have hr : (s.holdOffReturn x).claimRefill.cs = x.cs ∧ (s.holdOffReturn x).claimRefill.dp = x.dp ∧ (s.holdOffReturn
      x).claimRefill.pc = x.pc ∧ (s.holdOffReturn x).claimRefill.lc.counters = x.lc.counters ∧ (s.holdOffReturn
      x).claimRefill.tb = x.tb := by
    unfold State.claimRefill
    split
    · split
      · split
        · simp
        · have : ∀ y : State, y.cs = x.cs → y.claimWithdrawn = y := by
            intro y hy; simp [State.claimWithdrawn, State.pulledUnclaimed, hy, h1, h2]
          rw [this _ (by simp)]; simp
      · simp
    · simp
  have ha : (s.holdOffReturn x).claimRefill.claimAgain = (s.holdOffReturn x).claimRefill := by
    simp [State.claimAgain, hr.1, h1]
  simp [State.afterCompletion, ha, hr]

/-- Without a record a completion is handed on without effect on the cycle. -/
theorem State.afterCompletion_noJob (x s : State) (h : x.jc.record = none) : (x.afterCompletion s).cs = x.cs ∧
    (x.afterCompletion s).dp = x.dp ∧ (x.afterCompletion s).pc = x.pc ∧ (x.afterCompletion s).lc.counters =
    x.lc.counters := by
  have h1 : (s.holdOffReturn x).claimRefill = s.holdOffReturn x := by
    simp [State.claimRefill, h]
  have h2 : (s.holdOffReturn x).claimAgain = s.holdOffReturn x := by
    unfold State.claimAgain; split
    · simp [State.askClaim, h]
    · rfl
  simp [State.afterCompletion, h1, h2]

/-- Where the claim conditions fail the start conditions fail. -/
theorem State.startConditions_of_claim {s : State} (h : s.claimConditions = false) : s.startConditions = false := by
  unfold State.claimConditions at h; unfold State.startConditions
  split
  · rename_i r hr
    rw [hr] at h
    simp only at h
    revert h
    cases decide (r.state = .opened) <;> cases decide (r.role = .member) <;> simp
  · rfl

/-- A return to STANDBY where the claim conditions fail enters no frame. -/
theorem State.toStandby_link {s : State} (h : s.claimConditions = false) : s.toStandby.lc = s.lc := by
  rw [State.toStandby_calm (State.startConditions_of_claim h)]

/-- What a completion is handed on for counts nothing. -/
theorem State.afterCompletion_counters (x s : State) : (x.afterCompletion s).lc.counters = x.lc.counters := by
  have h1 : ∀ y : State, y.claimRefill.lc.counters = y.lc.counters := by
    intro y
    unfold State.claimRefill; split
    · split
      · split
        · simp
        · rename_i hc
          have hc' : (y.withdrawKey .claim).claimConditions = false := by simpa [State.claimConditions] using hc
          unfold State.claimWithdrawn; split
          · rw [State.toStandby_link hc']; simp
          · unfold State.pulledUnclaimed; split
            · simp [State.leavePulled, State.appendHistory, Disk.entry]
            · simp
      · rfl
    · rfl
  have h2 : ∀ y : State, y.claimAgain.lc.counters = y.lc.counters := by
    intro y
    unfold State.claimAgain; split
    · unfold State.askClaim; split
      · split
        · simp
        · rename_i hc; rw [State.toStandby_link (by simpa using hc)]
      · rfl
    · rfl
  simp [State.afterCompletion, h1, h2]

/-- Without a record a completion enters nothing but a HOLD-OFF. -/
theorem State.afterCompletion_noJob_queue (x s : State) (h : x.jc.record = none) (g : Frame) (hg : g ∈
    (x.afterCompletion s).lc.queue) : g ∈ x.lc.queue ∨ g.body = .holdOff := by
  have h1 : (s.holdOffReturn x).claimRefill = s.holdOffReturn x := by
    simp [State.claimRefill, h]
  have h2 : (s.holdOffReturn x).claimAgain = s.holdOffReturn x := by
    unfold State.claimAgain; split
    · simp [State.askClaim, h]
    · rfl
  have h3 : (s.holdOffReturn x).enterTally = s.holdOffReturn x := by
    simp [State.enterTally, h]
  simp only [State.afterCompletion, h1, h2, h3] at hg
  have h4 : g ∈ (s.holdOffReturn x).lc.queue := by
    revert hg
    unfold State.closeLapse; split
    · exact id
    · simp only [State.withdrawKey, State.withdraw, State.setQueue]
      intro hg; exact (List.mem_filter.1 hg).1
  revert h4
  unfold State.holdOffReturn; split
  · unfold State.holdOffTest; split
    · unfold State.enter; split
      · simp only [State.push, List.mem_append, List.mem_singleton]
        rintro (h | h)
        · exact Or.inl h
        · exact Or.inr (by rw [h])
      · exact Or.inl
    · exact Or.inl
  · exact Or.inl

/-- Without a record the Distribution Unit has nothing to do. -/
theorem State.settle_noJob (s before : State) (h : s.jc.record = none) : s.settle before = s := by
  have hw : s.window = [] := by simp [State.window, h]
  have hn : s.needTest = s := by simp [State.needTest, hw]
  have hf : s.feedOne = s := by simp [State.feedOne, h]
  have hr : s.repairFeed = s := by simp [State.repairFeed, hf]
  simp only [State.settle, hr, ite_self, hn]

/-! ### The end of the job (R14) -/

/-- What the end of the job leaves. -/
theorem State.endJob_fields (s : State) (r : JobRecord) (cause : EndCause) (hr : s.jc.record = some r) :
   (s.endJob cause).jc.record = none ∧ (s.endJob cause).jc.stopDue = false ∧ (s.endJob cause).jc.abandonDue = [] ∧
       (s.endJob cause).du = {} ∧ (s.endJob cause).tb = none ∧ (s.endJob cause).dp.wgate = false := by
  simp [State.endJob, hr, Drive.dropGate]

/-- The end of a disk enters no frame. -/
theorem State.endUse_queue (s : State) (g : Frame) (h : g ∈ s.endUse.lc.queue) : g ∈ s.lc.queue := by
  simp [State.endUse, State.dropNeed, State.withdraw, State.setQueue] at h
  exact h.1

/-- The end of the job at the disk enters no frame. -/
theorem State.copyJobEnd_queue (c : EndCause) (s : State) (g : Frame) (h : g ∈ (s.copyJobEnd c).lc.queue) : g ∈
    s.lc.queue := by
  revert h
  have hab : ∀ y : State, y.lc.queue = s.lc.queue → g ∈ (y.abandonDisk c).lc.queue → g ∈ s.lc.queue := by
    intro y hy h
    simp [State.abandonDisk, State.enterOut, State.appendHistory] at h
    have := State.endUse_queue _ _ h
    simpa [hy] using this
  unfold State.copyJobEnd
  split
  · split
    · simp
    · exact hab _ rfl
  · split
    · simp
    · exact hab _ rfl
  · split
    · simp
    · exact hab _ rfl
  · exact hab _ rfl
  · exact hab _ rfl
  · exact hab _ rfl
  · split
    · simp [State.leavePulled, State.appendHistory]
    · exact hab _ rfl
  all_goals simp

/-! ### Opening and start-up (R6, R163) -/

/-- A new record has copies and serials left. -/
theorem State.newRecord_room (s : State) (f : Rx) (b : OpenBody) (recipe : Recipe) (h : b.base ≤ b.limit) :
    (s.newRecord f b recipe).room = true := by
  have hw : (decide (b.wanted = 0) || decide (0 + ([] : List Claim).length < b.wanted)) = true := by
    rcases Nat.eq_zero_or_pos b.wanted with h | h
    · rw [decide_eq_true h]; rfl
    · rw [decide_eq_true (show 0 + ([] : List Claim).length < b.wanted from h), Bool.or_true]
  have hb : (s.newRecord f b recipe).highBelow b.limit = true := by
    show (decide (b.base = 0) || decide ((if b.base = 0 then Config.max32 else b.base - 1) < b.limit)) = true
    by_cases h0 : b.base = 0
    · rw [decide_eq_true h0]; rfl
    · rw [if_neg h0, decide_eq_true (show b.base - 1 < b.limit by omega), Bool.or_true]
  show ((decide (b.wanted = 0) || decide (0 + ([] : List Claim).length < b.wanted))
    && (s.newRecord f b recipe).highBelow b.limit) = true
  rw [hw, hb]; rfl

/-- The home count of an opening is the length of its home set. -/
theorem openHomeCount_eq (s : State) (b : OpenBody) (recipe : Recipe) : openHomeCount s.station b recipe = (match
    b.kind with
      | .copy => homesAmong (stationsOf b.roster) recipe.tracks b.r s.station
      | .format => []).length := by
  unfold openHomeCount; cases b.kind <;> rfl

/-- Without a record the cycle settles by DISKIN alone. -/
theorem State.settleByDiskin_noJob (s : State) (h : s.jc.record = none) : s.settleByDiskin = { s with
      cs := match s.cs.state, s.dp.diskin with
            | .empty, true => { s.cs with state := .standby }
            | .standby, false => { s.cs with state := .empty }
            | .out, false => { s.cs with state := .empty, outcome := none }
            | _, _ => s.cs } := by
  unfold State.settleByDiskin
  rcases hc : s.cs.state <;> rcases hd : s.dp.diskin <;> 
    simp [State.cycleTo, State.mapCopy, State.startTest, State.startConditions, h]

/-- CALL FIRST joins an empty queue. -/
theorem State.enterCallFirst_empty (s : State) (hb : s.boot = .ready) (hq : s.lc.queue = []) :
    s.enterCallFirst = { s with lc := { s.lc with queue := [{ body := .call true s.pc.params.fitted 0, jobId := 0 }]
        } } := by
  simp [State.enterCallFirst, State.enter, State.accepts, hb, Link.has, hq, State.push, Config.queuePlaces,
      Config.openQueuePlaces]

/-- The end of start-up, as one record update. -/
theorem State.ready_noJob (s : State) (mid : Bool) (hr : s.jc.record = none) (hq : s.lc.queue = []) :
  s.ready mid = { s with 
          boot := .ready
          lc := { s.lc with
            deaf := mid
            queue := [{ body := .call true s.pc.params.fitted 0, jobId := 0 }] }
          cs := match s.cs.state, s.dp.diskin with
            | .empty, true => { s.cs with state := .standby }
            | .standby, false => { s.cs with state := .empty }
            | .out, false => { s.cs with state := .empty, outcome := none }
            | _, _ => s.cs } := 
  (congrArg State.settleByDiskin (State.enterCallFirst_empty { s with boot := .ready, lc := { s.lc with deaf := mid }
      } rfl hq)).trans (State.settleByDiskin_noJob _ hr)

end Sys2Proof.Machine
end

