-- ==== Sys2Proof/Laws/Account.lean ====
section
/-! SUPPORT. What a CLAIM and a TALLY do to the account of the job record. -/

set_option linter.unusedSimpArgs false

namespace Sys2Proof.Machine

/-- The drain test leaves the account. -/
theorem JobRecord.drainTest_account (r : JobRecord) : r.drainTest.account = r.account := by
  unfold JobRecord.drainTest; split <;> rfl

/-- An entry counted as void, as one record update. -/
theorem JobRecord.voidEntry_eq (i : StationId) (r : JobRecord) : r.voidEntry i = { r with
    claims := r.claims.eraseP fun c => decide (c.station = i)
    void := r.void + if r.claims.any (fun c => decide (c.station = i)) then 1 else 0 } := by
  simp only [JobRecord.voidEntry, JobRecord.entryOf]
  cases hf : r.claims.find? (fun c => decide (c.station = i)) with
  | none =>
    have h1 : r.claims.any (fun c => decide (c.station = i)) = false := by simpa using hf
    have h2 : r.claims.eraseP (fun c => decide (c.station = i)) = r.claims := by
      apply List.eraseP_of_forall_not; simpa using hf
    simp only [h1, h2]; simp
  | some c =>
    have h1 : r.claims.any (fun c => decide (c.station = i)) = true := by
      have h2 := List.find?_some hf
      simp only [List.any_eq_true]; exact ⟨c, List.mem_of_find?_eq_some hf, h2⟩
    simp only [h1, if_true, dropClaim]

/-- A CLAIM of the job changes the account by its steps alone. -/
theorem State.claimHeard_account (sender : StationId) (v c : Nat) (s : State) (r : JobRecord) (hr : s.jc.record =
    some r) :
   (s.claimHeard sender v c).account = if r.claimPasses sender v then some (r.applyClaim sender v c).1.account else
       some r.account := by
  simp only [State.claimHeard, hr]
  split
  · simp only [State.account]
    simp [State.setAccount, JobRecord.drainTest_account]
  · simp [State.account, hr, State.badFrame]

/-- A TALLY of the job changes the account by its steps alone. -/
theorem State.tallyHeard_account (sender : StationId) (b : TallyBody) (s : State) (r : JobRecord) (hr : s.jc.record =
    some r) :
   (s.tallyHeard sender b).account = if r.tallyPasses sender b then some (r.applyTally sender b).1.account else some
       r.account := by
  simp only [State.tallyHeard, hr]
  split
  · simp only [State.account]
    repeat' split
    all_goals simp [State.setAccount, JobRecord.drainTest_account]
  · simp [State.account, hr, State.badFrame]

/-- The account after CLAIM. -/
theorem execClaim_account (f : Rx) (s : State) (r : JobRecord) (h : s.receives) (hr : s.jc.record = some r) (hj :
    f.jobId = r.jobId) (hl : f.body.length = 8) :
  ∃ t : State, exec (.claim f) s = .next t ∧ t.account = if r.claimPasses f.sender (beAt f.body 0 4) then some
      (r.applyClaim f.sender (beAt f.body 0 4) (beAt f.body 4 4)).1.account else some r.account := by
  refine ⟨_, rfl, ?_⟩
  have hp : parseClaim f.body = some (beAt f.body 0 4, beAt f.body 4 4) := by simp [parseClaim, hl]
  rw [State.completed_heard _ _ _ _ _ _ _ h hp .claim rfl]
  have hh : (s.heard .claim f.sender).jc.record = some r := by rw [(State.heard_plain _ _ _ (by simp)).1]; exact hr
  rw [← State.claimHeard_account _ _ _ _ _ hh]
  simp [State.account, State.inJob, hh, hj]

/-- The account after TALLY. -/
theorem execTally_account (f : Rx) (s : State) (r : JobRecord) (b : TallyBody) (h : s.receives) (hr : s.jc.record =
    some r) (hj : f.jobId = r.jobId) (hp : parseTally f.body = some b) :
  ∃ t : State, exec (.tally f) s = .next t ∧ t.account = if r.tallyPasses f.sender b then some (r.applyTally f.sender
      b).1.account else some r.account := by
  refine ⟨_, rfl, ?_⟩
  rw [State.completed_heard _ _ _ _ _ _ _ h hp .tally rfl]
  have hh : (s.heard .tally f.sender).jc.record = some r := by rw [(State.heard_plain _ _ _ (by simp)).1]; exact hr
  rw [← State.tallyHeard_account _ _ _ _ hh]
  simp [State.account, State.inJob, hh, hj]

end Sys2Proof.Machine
end

