-- ==== Sys2Proof/Laws/Bytes.lean ====
section
/-! SUPPORT. Numbers as bytes, and bytes as numbers: lengths and read-back. -/

namespace Sys2Proof.Machine

@[simp] theorem beBytes_length (k n : Nat) : (beBytes k n).length = k := by
  induction k with
  | zero => rfl
  | succ k ih => simp [beBytes, ih]

theorem beNat_fold (bs : List Byte) (a : Nat) :
    bs.foldl (fun n b => n * 256 + b.toNat) a = a * 256 ^ bs.length + beNat bs := by
  unfold beNat
  induction bs generalizing a with
  | nil => simp
  | cons b bs ih =>
    simp only [List.foldl_cons, List.length_cons]
    rw [ih, ih (0 * 256 + b.toNat)]
    rw [Nat.zero_mul, Nat.zero_add, Nat.add_mul, Nat.pow_succ, Nat.mul_assoc, Nat.mul_comm 256, Nat.add_assoc]

theorem beNat_cons (b : Byte) (bs : List Byte) : beNat (b :: bs) = b.toNat * 256 ^ bs.length + beNat bs := by
  show (b :: bs).foldl (fun n b => n * 256 + b.toNat) 0 = _
  rw [List.foldl_cons, beNat_fold]; simp

/-- A number written in `k` bytes reads back as its last `k` bytes' worth. -/
theorem beNat_beBytes (k n : Nat) : beNat (beBytes k n) = n % 256 ^ k := by
  induction k generalizing n with
  | zero => simp [beBytes, beNat, Nat.mod_one]
  | succ k ih =>
    rw [beBytes, beNat_cons, ih, beBytes_length]
    have h1 : (byteOf (n >>> (8 * k))).toNat = n / 256 ^ k % 256 := by
      simp only [byteOf, BitVec.toNat_ofNat, Nat.shiftRight_eq_div_pow]
      rw [Nat.pow_mul]
    rw [h1, Nat.pow_succ, Nat.mod_mul, Nat.mul_comm, Nat.add_comm]

theorem beNat_beBytes_lt {k n : Nat} (h : n < 256 ^ k) : beNat (beBytes k n) = n := by
  rw [beNat_beBytes, Nat.mod_eq_of_lt h]

theorem byteOf_toNat {n : Nat} (h : n < 256) : (byteOf n).toNat = n := by
  simp [byteOf, Nat.mod_eq_of_lt h]

/-- A number that stands after `i` bytes is read at `i`. -/
theorem beAt_append (pre mid post : List Byte) : beAt (pre ++ mid ++ post) pre.length mid.length = beNat mid := by
  simp [beAt, List.append_assoc]

theorem flagOf_flagByte (b : Bool) : flagOf (flagByte b) = some b := by cases b <;> rfl

end Sys2Proof.Machine
end

