-- ==== Sys2Proof/Laws/Claims.lean ====
section
/-! SUPPORT. The claim list and the counts stay sound under a CLAIM, a TALLY and a departure (R65). -/

set_option linter.unusedSimpArgs false

namespace Sys2Proof.Machine

/-- A claim list with an entry less is sound. -/
theorem JobRecord.claimsSound_eraseP (r : JobRecord) (p : Claim → Bool) (l : List Claim) (h : r.claimsSound) (hl : l
    = r.claims.eraseP p) : ({ r with claims := l } : JobRecord).claimsSound := by
  subst hl
  have hs : (r.claims.eraseP p).Sublist r.claims := List.eraseP_sublist
  exact ⟨h.1.sublist hs, h.2.1.sublist (hs.map _), fun c hc => h.2.2 c (hs.mem hc)⟩

/-- An entry counted as void keeps the account sound. -/
theorem JobRecord.voidEntry_sound (i : StationId) (r : JobRecord) (h : r.accountSound) : JobRecord.accountSound
    (r.voidEntry i) := by
  refine ⟨?_, ?_⟩
  · have hb := h.1
    rw [JobRecord.voidEntry_eq]; unfold JobRecord.balanced at *
    dsimp only
    by_cases ha : r.claims.any (fun c => decide (c.station = i)) = true
    · simp only [ha, if_true]
      obtain ⟨c, hc, h2⟩ := List.any_eq_true.mp ha
      rw [List.length_eraseP_of_mem hc h2]
      have := List.length_pos_of_mem hc
      omega
    · have : r.claims.eraseP (fun c => decide (c.station = i)) = r.claims := by
        apply List.eraseP_of_forall_not; simpa using ha
      rw [this]; simp only [ha]; simpa using hb
  · rw [JobRecord.voidEntry_eq]; exact JobRecord.claimsSound_eraseP r _ _ h.2 rfl

/-- The station whose entry was counted as void has none. -/
theorem JobRecord.voidEntry_gone (i : StationId) (r : JobRecord) (h : r.accountSound) : ∀ c ∈ (r.voidEntry i).claims,
    c.station ≠ i := by
  rw [JobRecord.voidEntry_eq]; dsimp only
  intro c hc he
  have hn := h.2.2.1
  revert hn hc
  generalize r.claims = l
  induction l with
  | nil => simp
  | cons x xs ih =>
    intro hc hn
    simp only [List.map_cons, List.nodup_cons] at hn
    by_cases hx : x.station = i
    · simp only [List.eraseP_cons, hx, decide_true, cond_true] at hc
      exact hn.1 (List.mem_map.mpr ⟨c, hc, by rw [he, hx]⟩)
    · simp only [List.eraseP_cons, hx, decide_false, cond_false, List.mem_cons] at hc
      rcases hc with hc | hc
      · subst hc; exact hx he
      · exact ih hc hn.2

theorem mem_insertClaim (c x : Claim) (l : List Claim) : x ∈ insertClaim c l ↔ x = c ∨ x ∈ l := by
  induction l with
  | nil => simp [insertClaim]
  | cons y ys ih => unfold insertClaim; split <;> simp [ih]; 
                    constructor <;> rintro (h | h | h) <;> simp [h]

theorem length_insertClaim (c : Claim) (l : List Claim) : (insertClaim c l).length = l.length + 1 := by
  induction l with
  | nil => rfl
  | cons y ys ih => unfold insertClaim; split <;> simp [ih]

/-- A new serial is entered in order. -/
theorem insertClaim_sorted (c : Claim) (l : List Claim) (h : l.Pairwise (fun a b => a.serial < b.serial)) (hn : ∀ x ∈
    l, x.serial ≠ c.serial) : (insertClaim c l).Pairwise (fun a b => a.serial < b.serial) := by
  induction l with
  | nil => simp [insertClaim]
  | cons y ys ih =>
    rw [List.pairwise_cons] at h
    unfold insertClaim; split
    · rename_i hlt
      rw [List.pairwise_cons, List.pairwise_cons]
      refine ⟨?_, h⟩
      intro z hz; rcases List.mem_cons.mp hz with hz | hz
      · subst hz; exact hlt
      · exact Nat.lt_trans hlt (h.1 z hz)
    · rename_i hge
      rw [List.pairwise_cons]
      refine ⟨?_, ih h.2 (fun x hx => hn x (List.mem_cons_of_mem _ hx))⟩
      intro z hz; rcases (mem_insertClaim _ _ _).mp hz with hz | hz
      · subst hz; have := hn y (List.mem_cons_self ..); omega
      · exact h.1 z hz

theorem insertClaim_stations (c : Claim) (l : List Claim) (h : (l.map (·.station)).Nodup) (hn : ∀ x ∈ l, x.station ≠
    c.station) : ((insertClaim c l).map (·.station)).Nodup := by
  induction l with
  | nil => simp [insertClaim]
  | cons y ys ih =>
    simp only [List.map_cons, List.nodup_cons] at h
    unfold insertClaim; split
    · simp only [List.map_cons, List.nodup_cons]
      refine ⟨?_, h⟩
      simp only [List.mem_cons, List.mem_map]; rintro (e | ⟨x, hx, e⟩)
      · exact hn y (List.mem_cons_self ..) e.symm
      · exact hn x (List.mem_cons_of_mem _ hx) e
    · simp only [List.map_cons, List.nodup_cons]
      refine ⟨?_, ih h.2 (fun x hx => hn x (List.mem_cons_of_mem _ hx))⟩
      simp only [List.mem_map]; rintro ⟨x, hx, e⟩
      rcases (mem_insertClaim _ _ _).mp hx with hx | hx
      · subst hx; exact hn y (List.mem_cons_self ..) e.symm
      · exact h.1 (List.mem_map.mpr ⟨x, hx, e⟩)

/-- A claim entered, or put for another, keeps the list sound. -/
theorem JobRecord.claimsSound_insert (r : JobRecord) (c : Claim) (l : List Claim) (hl : l.Sublist r.claims) (h :
    r.claimsSound) (hs : ∀ x ∈ l, x.serial ≠ c.serial) (hi : ∀ x ∈ l, x.station ≠ c.station) (hm : inMask r.roster
    c.station = true) : ({ r with claims := insertClaim c l } : JobRecord).claimsSound := by
  refine ⟨insertClaim_sorted _ _ (h.1.sublist hl) hs, insertClaim_stations _ _ (h.2.1.sublist (hl.map _)) hi, ?_⟩
  intro x hx; rcases (mem_insertClaim _ _ _).mp hx with hx | hx
  · subst hx; exact hm
  · exact h.2.2 x (hl.mem hx)

theorem JobRecord.raiseHigh_counts (v c : Nat) (r : JobRecord) : (r.raiseHigh v c).claims = r.claims ∧ (r.raiseHigh v
    c).roster = r.roster ∧ (r.raiseHigh v c).heard = r.heard ∧ (r.raiseHigh v c).accepted = r.accepted ∧ (r.raiseHigh
    v c).void = r.void ∧ (r.raiseHigh v c).withdrawn = r.withdrawn := by
  simp [JobRecord.raiseHigh]

theorem JobRecord.voidEntry_counts (i : StationId) (r : JobRecord) : (r.voidEntry i).roster = r.roster ∧ (r.voidEntry
    i).heard = r.heard ∧ (r.voidEntry i).withdrawn = r.withdrawn := by
  rw [JobRecord.voidEntry_eq]; simp

/-- A serial taken out of the list is not in it. -/
theorem eraseP_serial_gone (v : Nat) (l : List Claim) (h : l.Pairwise (fun a b => a.serial < b.serial)) : ∀ x ∈
    l.eraseP (fun c => decide (c.serial = v)), x.serial ≠ v := by
  induction l with
  | nil => simp
  | cons y ys ih =>
    rw [List.pairwise_cons] at h
    intro x hx
    by_cases hy : y.serial = v
    · simp only [List.eraseP_cons, hy, decide_true, cond_true] at hx
      have := h.1 x hx; omega
    · simp only [List.eraseP_cons, hy, decide_false, cond_false, List.mem_cons] at hx
      rcases hx with hx | hx
      · subst hx; exact hy
      · exact ih h.2 x hx

/-- A CLAIM that passes its check keeps the account sound (R66, R67). -/
theorem JobRecord.applyClaim_sound (i : StationId) (v c : Nat) (r : JobRecord) (h : r.accountSound) (hp :
    r.claimPasses i v = true) : JobRecord.accountSound (r.applyClaim i v c).1 := by
  have hm : inMask r.roster i = true := by simp [JobRecord.claimPasses] at hp; exact hp.1.1
  unfold JobRecord.applyClaim; split
  · obtain ⟨a, b, c', d, e, f⟩ := JobRecord.raiseHigh_counts v c r
    refine ⟨?_, ?_⟩
    · have := h.1; simp only [JobRecord.balanced, a, b, c', d, e, f] at *; exact this
    · have := h.2; simp only [JobRecord.claimsSound, a, b] at *; exact this
  · dsimp only
    generalize hq : (({ r with heard := r.heard + 1 } : JobRecord).raiseHigh v c).voidEntry i = q
    have e1 := JobRecord.raiseHigh_counts v c ({ r with heard := r.heard + 1 } : JobRecord)
    obtain ⟨a, b, c', d, e, f⟩ := e1
    -- compare with r.voidEntry
    have hv : q.claims = (r.voidEntry i).claims ∧ q.roster = r.roster ∧ q.heard = r.heard + 1 ∧ q.accepted =
        r.accepted ∧ q.void = (r.voidEntry i).void ∧ q.withdrawn = r.withdrawn := by
      rw [← hq, JobRecord.voidEntry_eq, JobRecord.voidEntry_eq]; simp [a, b, c', d, e, f]
    have hg := JobRecord.voidEntry_sound i r h
    have hgone := JobRecord.voidEntry_gone i r h
    have hvm := JobRecord.voidEntry_counts i r
    have hbal : q.heard = q.accepted + q.void + q.withdrawn + q.claims.length + 1 := by
      have := hg.1; unfold JobRecord.balanced at this; rw [hv.1, hv.2.2.1, hv.2.2.2.1, hv.2.2.2.2.1, hv.2.2.2.2.2]
      have h3 : (r.voidEntry i).accepted = r.accepted := by rw [JobRecord.voidEntry_eq]
      rw [hvm.2.1, hvm.2.2, h3] at this; omega
    have hqs : q.claimsSound := by
      have := hg.2; simp only [JobRecord.claimsSound, hv.1, hv.2.1, hvm.1] at *; exact this
    have hqg : ∀ c ∈ q.claims, c.station ≠ i := by rw [hv.1]; exact hgone
    unfold JobRecord.enterClaim
    split
    · rename_i hh
      refine ⟨?_, ?_⟩
      · simp only [JobRecord.balanced, length_insertClaim]; omega
      · refine JobRecord.claimsSound_insert q ⟨v, i⟩ q.claims (List.Sublist.refl _) hqs ?_ hqg (by rw [hv.2.1]; exact
          hm)
        simp only [JobRecord.holder] at hh; simpa using hh
    · rename_i c0 hh
      simp only [JobRecord.holder] at hh
      have hmem := List.mem_of_find?_eq_some hh
      have hser := List.find?_some hh
      split
      · refine ⟨?_, ?_⟩
        · have hlen : (q.claims.eraseP fun c => decide (c.serial = v)).length = q.claims.length - 1 :=
            List.length_eraseP_of_mem hmem (by simpa using hser)
          have := List.length_pos_of_mem hmem
          simp only [JobRecord.balanced, length_insertClaim, dropClaim, hlen]; omega
        · have hsub : (dropClaim (fun c => decide (c.serial = v)) q.claims).Sublist q.claims := List.eraseP_sublist
          have := JobRecord.claimsSound_insert q ⟨v, i⟩ _ hsub hqs (eraseP_serial_gone v _ hqs.1) (fun x hx => hqg x
              (hsub.mem hx)) (by rw [hv.2.1]; exact hm)
          exact this
      · exact ⟨by simp only [JobRecord.balanced]; omega, hqs⟩


/-- A TALLY counted balances a claim heard. -/
theorem JobRecord.countTally_sound (o : DiskOutcome) (v : Nat) (r : JobRecord) (hs : r.claimsSound) (hb : r.heard =
    r.accepted + r.void + r.withdrawn + r.claims.length + 1) : JobRecord.accountSound (r.countTally o v) := by
  unfold JobRecord.countTally JobRecord.tallyHigh
  refine ⟨?_, ?_⟩
  · unfold JobRecord.balanced
    cases o <;> dsimp only <;> split <;> dsimp only <;> omega
  · unfold JobRecord.claimsSound at *
    cases o <;> dsimp only <;> split <;> exact hs

/-- A TALLY keeps the account sound (R70 to R72). -/
theorem JobRecord.applyTally_sound (i : StationId) (b : TallyBody) (r : JobRecord) (h : r.accountSound) :
    JobRecord.accountSound (r.applyTally i b).1 := by
  unfold JobRecord.applyTally
  split
  · unfold JobRecord.withdrawEntry JobRecord.entryOf
    split
    · rename_i c hh
      have hmem := List.mem_of_find?_eq_some hh
      have hser := List.find?_some hh
      have hlen : (r.claims.eraseP fun c => decide (c.station = i)).length = r.claims.length - 1 :=
            List.length_eraseP_of_mem hmem (by simpa using hser)
      have := List.length_pos_of_mem hmem
      have hb := h.1; unfold JobRecord.balanced at hb
      exact ⟨by simp only [JobRecord.balanced, dropClaim, hlen]; omega, JobRecord.claimsSound_eraseP r _ _ h.2 rfl⟩
    · exact h
  · rename_i v hv
    unfold JobRecord.settleEntry; split
    · rename_i ha
      obtain ⟨c, hc, hd⟩ := List.any_eq_true.mp ha
      have hlen : (r.claims.eraseP fun c => decide (c = ⟨v, i⟩)).length = r.claims.length - 1 :=
            List.length_eraseP_of_mem hc hd
      have := List.length_pos_of_mem hc
      have hb := h.1; unfold JobRecord.balanced at hb
      refine JobRecord.countTally_sound _ _ _ (JobRecord.claimsSound_eraseP r _ _ h.2 rfl) ?_
      simp only [dropClaim, hlen]; omega
    · dsimp only
      generalize hq : ({ r with heard := r.heard + 1 } : JobRecord).voidEntry i = q
      have hv : q.claims = (r.voidEntry i).claims ∧ q.roster = r.roster ∧ q.heard = r.heard + 1 ∧ q.accepted =
          r.accepted ∧ q.void = (r.voidEntry i).void ∧ q.withdrawn = r.withdrawn := by
        rw [← hq, JobRecord.voidEntry_eq, JobRecord.voidEntry_eq]; simp
      have hg := JobRecord.voidEntry_sound i r h
      have hvm := JobRecord.voidEntry_counts i r
      have hbal : q.heard = q.accepted + q.void + q.withdrawn + q.claims.length + 1 := by
        have := hg.1; unfold JobRecord.balanced at this; rw [hv.1, hv.2.2.1, hv.2.2.2.1, hv.2.2.2.2.1, hv.2.2.2.2.2]
        have h3 : (r.voidEntry i).accepted = r.accepted := by rw [JobRecord.voidEntry_eq]
        rw [hvm.2.1, hvm.2.2, h3] at this; omega
      have hqs : q.claimsSound := by
        have := hg.2; simp only [JobRecord.claimsSound, hv.1, hv.2.1, hvm.1] at *; exact this
      split
      · rename_i c hh
        simp only [JobRecord.holder] at hh
        have hmem := List.mem_of_find?_eq_some hh
        have hser := List.find?_some hh
        have hlen : (q.claims.eraseP fun c => decide (c.serial = v)).length = q.claims.length - 1 :=
            List.length_eraseP_of_mem hmem (by simpa using hser)
        have := List.length_pos_of_mem hmem
        refine JobRecord.countTally_sound _ _ _ (JobRecord.claimsSound_eraseP q _ _ hqs rfl) ?_
        simp only [dropClaim, hlen]; omega
      · exact JobRecord.countTally_sound _ _ _ hqs hbal

end Sys2Proof.Machine
end

