-- ==== Sys2Proof/Laws/Distribution.lean ====
section
/-! SUPPORT. What the want list's removals leave. -/

namespace Sys2Proof.Machine

/-- An entry removed is gone from both parts. -/
theorem State.removeWant_has (t : Nat) (s : State) : (s.removeWant t).du.has t = false := by
  unfold State.removeWant
  split
  · simp [State.mapDu, Distribution.has, Distribution.find, State.withdrawKey, State.withdraw, State.setQueue]
  · rename_i h; simpa using h

end Sys2Proof.Machine
end

