-- ==== Sys2Proof/Laws/Closing.lean ====
section
/-! SUPPORT. Which operations keep a frame in the transmit queue, and that a JOB CLOSE that the close test enters stays to
the end of the command. -/

set_option linter.unusedSimpArgs false

namespace Sys2Proof.Machine

/-- A frame offered to the queue puts none out. -/
theorem State.enter_keeps (s : State) (b : Body) (j : JobId) (k : FrameKey) (h : s.lc.has k = true) :
    (s.enter b j).lc.has k = true := by
  unfold State.enter
  split
  · simp only [State.push, Link.has, List.any_append] at *; simp [h]
  · exact h

/-- The withdrawal of one key leaves the frames of the others. -/
theorem State.withdrawKey_keeps (s : State) (k j : FrameKey) (hn : j ≠ k) (h : s.lc.has k = true) :
    (s.withdrawKey j).lc.has k = true := by
  simp only [State.withdrawKey, State.withdraw, State.setQueue, Link.has, List.any_eq_true, decide_eq_true_eq] at *
  obtain ⟨f, a, b⟩ := h
  refine ⟨f, ?_, b⟩
  simp [List.mem_filter, a, b, Ne.symm hn]

/-- A refill leaves the frames of the other keys. -/
theorem State.refill_keeps (s : State) (k j : FrameKey) (b : Body) (hn : j ≠ k) (h : s.lc.has k = true) :
    (s.refill j b).lc.has k = true := by
  simp only [State.refill, State.mapFrame, Link.has, List.any_eq_true, decide_eq_true_eq, List.mem_map] at *
  obtain ⟨f, a, c⟩ := h
  refine ⟨f, ⟨f, a, ?_⟩, c⟩
  simp [c, Ne.symm hn]

/-- Which frames are queued is read from the queue alone. -/
theorem Link.has_queue {s t : State} (h : s.lc.queue = t.lc.queue) (k : FrameKey) : s.lc.has k = t.lc.has k := by
  simp [Link.has, h]

/-- The return to STANDBY leaves the queue. -/
theorem State.toStandby_queue (s : State) : s.toStandby.lc.queue = s.lc.queue := by
  simp [State.toStandby, State.startTest_queue, State.stopMotor]

/-- What follows a withdrawn CLAIM leaves the queue. -/
theorem State.claimWithdrawn_queue (s : State) : s.claimWithdrawn.lc.queue = s.lc.queue := by
  unfold State.claimWithdrawn State.pulledUnclaimed
  split
  · exact s.toStandby_queue
  · split <;> simp [State.leavePulled]

/-- Where the close conditions hold and the queue has a place, JOB CLOSE is queued after the close test. -/
theorem State.closeTest_enters (s : State) (h : s.closeConditions = true) (hb : s.boot = .ready)
    (hq : s.lc.queue.length < 8) : s.closeTest.lc.has .jobClose = true := by
  unfold State.closeTest
  split
  · rename_i r hr
    rw [if_pos h]
    by_cases hh : s.lc.has .jobClose = true
    · exact s.enter_keeps _ _ _ hh
    · rw [State.enter_accepted]
      · simp [State.push, Link.has, Frame.key, Body.key, JobRecord.closeBody]
      · simp at hh
        simp [State.accepts, hb, JobRecord.closeBody, Body.key, hh, Body.cls, Body.code, Config.queuePlaces, hq]
  · rename_i hr; simp [State.closeConditions, hr] at h

/-- The close conditions read the record, the station and the Source Sequencer. -/
theorem State.closeConditions_congr {s t : State} (h1 : s.jc = t.jc) (h2 : s.station = t.station) (h3 : s.ss = t.ss) :
    s.closeConditions = t.closeConditions := by simp [State.closeConditions, h1, h2, h3]

/-- What follows a completion keeps a JOB CLOSE whose conditions hold. -/
theorem State.afterCompletion_close (x s : State) (h : x.closeConditions = true) (hq : x.lc.has .jobClose = true) :
    (x.afterCompletion s).lc.has .jobClose = true := by
  have h1 : (s.holdOffReturn x).lc.has .jobClose = true := by
    unfold State.holdOffReturn State.holdOffTest; split <;> (try split) <;> first | exact State.enter_keeps _ _ _ _ hq | exact hq
  have h2 : ∀ y : State, y.lc.has .jobClose = true → y.claimRefill.lc.has .jobClose = true := by
    intro y hy; unfold State.claimRefill
    repeat' split
    · exact y.refill_keeps _ _ _ (by simp) hy
    · rw [Link.has_queue (State.claimWithdrawn_queue _)]; exact y.withdrawKey_keeps _ _ (by simp) hy
    · exact hy
    · exact hy
  have h3 : ∀ y : State, y.lc.has .jobClose = true → y.claimAgain.lc.has .jobClose = true := by
    intro y hy; unfold State.claimAgain State.askClaim
    repeat' split
    · exact y.enter_keeps _ _ _ hy
    · rw [Link.has_queue (State.toStandby_queue _)]; exact hy
    · exact hy
    · exact hy
  have h4 : ∀ y : State, y.lc.has .jobClose = true → y.enterTally.lc.has .jobClose = true := by
    intro y hy; unfold State.enterTally
    repeat' split
    · exact y.enter_keeps _ _ _ hy
    · exact hy
    · exact hy
  unfold State.afterCompletion State.closeLapse
  rw [if_pos]
  · exact h4 _ (h3 _ (h2 _ h1))
  · rw [← h]; apply State.closeConditions_congr <;> simp

/-- A withdrawal leaves the frames that it does not ask for. -/
theorem State.withdraw_keeps (s : State) (p : Frame → Bool) (k : FrameKey) (hn : ∀ f, f.key = k → p f = false)
    (h : s.lc.has k = true) : (s.withdraw p).lc.has k = true := by
  simp only [State.withdraw, State.setQueue, Link.has, List.any_eq_true, decide_eq_true_eq] at *
  obtain ⟨f, a, b⟩ := h
  exact ⟨f, by simp [List.mem_filter, a, hn f b], b⟩

/-- The end of the need part withdraws WANTs alone. -/
theorem State.dropNeed_keeps (s : State) (k : FrameKey) (hk : ∀ t, k ≠ .want t) (h : s.lc.has k = true) :
    s.dropNeed.lc.has k = true := by
  unfold State.dropNeed
  apply State.withdraw_keeps
  · intro f hf
    split
    · rename_i t a b hb; exact absurd (by rw [← hf, Frame.key, hb]; rfl) (hk t)
    · rfl
  · exact h

/-- The end of a disk's use withdraws WANTs alone. -/
theorem State.endUse_keeps (s : State) (k : FrameKey) (hk : ∀ t, k ≠ .want t) (h : s.lc.has k = true) :
    s.endUse.lc.has k = true := by
  unfold State.endUse
  apply State.dropNeed_keeps _ _ hk
  rw [← h]; apply Link.has_queue; simp [State.stopMotor, State.mapCopy]

/-- The end of a disk withdraws WANTs alone. -/
theorem State.endDisk_keeps (s : State) (o : DiskOutcome) (k : FrameKey) (hk : ∀ t, k ≠ .want t) (h : s.lc.has k = true) :
    (s.endDisk o).lc.has k = true := by
  have hu := s.endUse_keeps k hk h
  unfold State.endDisk
  dsimp only
  split
  · unfold State.toTally State.enterTally
    repeat' split
    · exact State.enter_keeps _ _ _ _ (by simpa using hu)
    all_goals simpa using hu
  · rw [← hu]; apply Link.has_queue; simp [State.enterOut]

/-- An unobtainable track withdraws WANTs alone. -/
theorem State.unobtainable_keeps (s : State) (k : FrameKey) (hk : ∀ t, k ≠ .want t) (h : s.lc.has k = true) :
    s.unobtainable.lc.has k = true := by
  unfold State.unobtainable
  split
  · exact State.endDisk_keeps _ _ _ hk (by simpa using h)
  · exact h

/-- The Distribution Unit's tests keep a JOB CLOSE. -/
theorem State.settle_close (x s : State) (hq : x.lc.has .jobClose = true) : (x.settle s).lc.has .jobClose = true := by
  have f1 : ∀ y : State, y.lc.has .jobClose = true → y.feedOne.lc.has .jobClose = true := by
    intro y hy; unfold State.feedOne State.addRepair
    repeat' split
    · exact State.enter_keeps _ _ _ _ (by simpa [State.mapDu] using hy)
    all_goals exact hy
  have f2 : ∀ y : State, y.lc.has .jobClose = true → y.repairFeed.lc.has .jobClose = true := by
    intro y hy; exact f1 _ (f1 _ (f1 _ hy))
  have f3 : ∀ y : State, y.lc.has .jobClose = true → y.needTest.lc.has .jobClose = true := by
    intro y hy
    unfold State.needTest
    generalize y.window = l
    induction l generalizing y with
    | nil => exact hy
    | cons a l ih =>
      rw [List.foldl_cons]; apply ih
      simp only [State.needTestOf]
      repeat' split
      all_goals first
        | exact hy
        | exact y.unobtainable_keeps _ (by simp) hy
        | (unfold State.addNeed; exact State.enter_keeps _ _ _ _ (by simpa [State.mapDu] using hy))
  unfold State.settle
  dsimp only
  repeat' split
  all_goals (apply f2; try apply f3)
  all_goals (first | exact hq | (apply f2; exact hq))
/-- A frame heard leaves a place where there was one, or where it was its own of a full queue. -/
theorem State.heard_length (s : State) (k : FrameKey) (i : StationId) (hk : ∀ t r, k ≠ .release t r)
    (h : s.lc.queue.length < 8 ∨ i = s.station ∧ s.lc.has k = true ∧ s.lc.queue.length = 8) :
    (s.heard k i).lc.queue.length < 8 := by
  have e : (s.heard k i).lc.queue = (s.ownLeaves (some k) i).lc.queue := by simp [State.heard]
  rw [e]
  have hd : (s.dequeue k).lc.queue = s.lc.queue.filter fun f => !decide (f.key = k) := by simp [State.dequeue, State.setQueue]
  have hle : (s.dequeue k).lc.queue.length ≤ s.lc.queue.length := by rw [hd]; exact List.length_filter_le _ _
  have hlt : s.lc.has k = true → (s.dequeue k).lc.queue.length < s.lc.queue.length := by
    intro hh; rw [hd]
    simp only [Link.has, List.any_eq_true, decide_eq_true_eq] at hh
    obtain ⟨f, a, b⟩ := hh
    exact List.length_filter_lt_length_iff_exists.2 ⟨f, a, by simp [b]⟩
  have eq : (s.ownLeaves (some k) i).lc.queue = if i = s.station ∧ s.lc.has k = true then (s.dequeue k).lc.queue else s.lc.queue := by
    simp only [State.ownLeaves]
    split
    · cases k <;> first | rfl | exact absurd rfl (hk _ _)
    · rfl
  rw [eq]
  split
  · rename_i h2; have := hlt h2.2; omega
  · rename_i h2; rcases h with h | h
    · exact h
    · exact absurd ⟨h.1, h.2.1⟩ h2

/-- A lost serial takes at most one place of the queue. -/
theorem State.serialLost_length (s : State) : s.serialLost.lc.queue.length ≤ s.lc.queue.length + 1 := by
  have ent : ∀ (x : State) b j, (x.enter b j).lc.queue.length ≤ x.lc.queue.length + 1 := by
    intro x b j; unfold State.enter; split <;> simp [State.push]
  have tt : ∀ (x : State) o, (x.toTally o).lc.queue.length ≤ x.lc.queue.length + 1 := by
    intro x o; unfold State.toTally State.enterTally
    repeat' split
    · exact Nat.le_trans (ent _ _ _) (by simp)
    all_goals simp
  have du : ∀ x : State, x.dropNeed.lc.queue.length ≤ x.lc.queue.length := by
    intro x; simp only [State.dropNeed, State.withdraw, State.setQueue]; exact List.length_filter_le _ _
  have eu : ∀ x : State, x.endUse.lc.queue.length ≤ x.lc.queue.length := by
    intro x; unfold State.endUse; refine Nat.le_trans (du _) ?_; simp [State.stopMotor, State.mapCopy]
  have ed : ∀ (x : State) o, (x.endDisk o).lc.queue.length ≤ x.lc.queue.length + 1 := by
    intro x o; unfold State.endDisk; dsimp only; split
    · exact Nat.le_trans (tt _ _) (by have := eu x; omega)
    · have := eu x; simp [State.enterOut]; omega
  unfold State.serialLost
  split
  · exact Nat.le_trans (ed _ _) (by simp)
  · split
    · exact Nat.le_trans (tt _ _) (by simp)
    · omega

/-- The TRACK LOST test puts no frame out. -/
theorem State.trackLostTest_keeps (s : State) (first : Option DiskFault) (k : FrameKey) (h : s.lc.has k = true) :
    (s.trackLostTest first).lc.has k = true := by
  unfold State.trackLostTest State.enterAbandon State.reserveAbandon
  repeat' split
  all_goals first
    | exact h
    | (simp only [State.push, Link.has, List.any_append] at *; simp [h])

end Sys2Proof.Machine
end

