-- ==== Sys2Proof/WellFormed.lean ====
section
/-! DEFINITION. Which commands are well formed: the operand bounds that the spec's layouts give. The meaning
of a command does not rest on these checks; they say which operands the medium, the drive and the store can
give at all. -/

namespace Sys2Proof

/-- A body no longer than the largest a frame may carry (R149, R158). -/
def Rx.wellFormed (f : Rx) : Bool := f.body.length ≤ Config.maxBody

/-- Slot offsets inside a slot (02_the_image_store.md, opening). -/
def Upset.wellFormed (u : Upset) : Bool := u.all fun c => c.1 < Config.slotBytes

/-- A CALL body of the given type code (R172). -/
def Rx.hasCallType (f : Rx) (code : Byte) : Bool := f.body.head? = some code

/-- Operand bounds, command by command. -/
def Instr.wellFormed : Instr → Bool
  | .powerOn _ _ _ _ => true
  | .storeClearCompletion _ => true
  | .configurationLoadCompletion bytes _ => bytes.length ≤ Config.configBytes
  | .restart => true
  | .loadPress _ => true
  | .stopBriefPress => true
  | .stopHeld => true
  | .refusalFlashEnd => true
  | .abandonSequenceEnd => true
  | .arbitrationStart => true
  | .joinStart => true
  | .arbitrationLoss => true
  | .sendFault => true
  | .releaseCutOff u => u.wellFormed
  | .frameBreak _ bytes _ => bytes.length ≤ Config.maxBody + 9
  | .queuePlaceFreeing => true
  | .holdOff f => f.wellFormed
  | .holdOffTimerExpiry => true
  | .jobOpen f => f.wellFormed
  | .jobStop f => f.wellFormed
  | .jobClose f => f.wellFormed
  | .jobAbandon f => f.wellFormed
  | .claim f => f.wellFormed
  | .tally f => f.wellFormed
  | .want f => f.wellFormed
  | .releaseBegin h => h.length ≤ Config.maxBody
  | .release f => f.wellFormed
  | .callFirst f => f.wellFormed && !f.hasCallType 0x02
  | .callAnswer f => f.wellFormed && f.hasCallType 0x02
  | .query f => f.wellFormed
  | .reply f => f.wellFormed
  | .wantDeadlineExpiry t => t < Config.trackCount
  | .lastTrackTimeout => true
  | .indexEdge _ _ => true
  | .writeCompletion u => u.wellFormed
  | .revolutionCounterExpiry u => u.wellFormed
  | .idRecord _ _ _ _ _ => true
  | .dataRecord data _ u => data.length ≤ 1024 && u.wellFormed
  | .dataMarkerReachExpiry => true
  | .noIndex => true
  | .qualifyLimitExpiry => true
  | .stepTimeEnd _ => true
  | .headSettleEnd _ => true
  | .ejectPulseEnd => true
  | .diskinActive => true
  | .diskinInactive => true
  | .wprotChange _ => true
  | .masterReadSlotGrant => true
  | .markerOfAnotherValue => true

end Sys2Proof
end

