-- ==== Sys2Proof/Laws/PerInstr.lean ====
section
/-! SUPPORT. Statements about every command as syntax, one lemma for each constructor: what well-formed operands
are bounded by. -/

namespace Sys2Proof.Laws

/-- The completed frame a command carries, if it carries one. -/
def frameOf : Instr → Option Rx
  | .holdOff f => some f
  | .jobOpen f => some f
  | .jobStop f => some f
  | .jobClose f => some f
  | .jobAbandon f => some f
  | .claim f => some f
  | .tally f => some f
  | .want f => some f
  | .release f => some f
  | .callFirst f => some f
  | .callAnswer f => some f
  | .query f => some f
  | .reply f => some f
  | _ => none

/-- The slot bytes a command says have changed of themselves. -/
def upsetOf : Instr → Upset
  | .releaseCutOff u => u
  | .writeCompletion u => u
  | .revolutionCounterExpiry u => u
  | .dataRecord _ _ u => u
  | _ => []

namespace OperandBounds

/-- A well-formed command carries a frame body of at most 12,400 bytes (R149, R158) and changes bytes inside one
slot alone (02_the_image_store.md, opening). -/
def Statement (i : Instr) : Prop :=
  i.wellFormed = true →
    (∀ f, frameOf i = some f → f.body.length ≤ 12400) ∧ ∀ c ∈ upsetOf i, c.1 < 12288

/-- A command without a frame and without changed bytes has nothing to bound. -/
theorem of_none {i : Instr} (h : frameOf i = none) (u : upsetOf i = []) : Statement i := by
  intro _
  simp [h, u]

/-- A command that carries a frame whose body is checked. -/
theorem of_frame {i : Instr} {f : Rx} (h : frameOf i = some f) (u : upsetOf i = [])
    (w : i.wellFormed = true → f.wellFormed = true) : Statement i := by
  intro hi
  refine ⟨fun g hg => ?_, by simp [u]⟩
  rw [h] at hg
  cases hg
  exact of_decide_eq_true (w hi)

/-- A command that carries changed bytes which are checked. -/
theorem of_upset {i : Instr} (h : frameOf i = none) (w : i.wellFormed = true → (upsetOf i).wellFormed = true) :
    Statement i := by
  intro hi
  refine ⟨by simp [h], fun c hc => ?_⟩
  have := w hi
  simp only [Upset.wellFormed, List.all_eq_true, decide_eq_true_eq] at this
  exact this c hc

theorem powerOn (straps : StationId) (diskin : Bool) (wprot : Bool) (trk0 : Bool) : Statement (.powerOn straps diskin wprot trk0) :=
  of_none rfl rfl

theorem storeClearCompletion (midFrame : Bool) : Statement (.storeClearCompletion midFrame) := of_none rfl rfl

theorem configurationLoadCompletion (bytes : List Byte) (midFrame : Bool) : Statement (.configurationLoadCompletion bytes midFrame) :=
  of_none rfl rfl

theorem restart : Statement .restart := of_none rfl rfl

theorem loadPress (selector : Fin 8) : Statement (.loadPress selector) := of_none rfl rfl

theorem stopBriefPress : Statement .stopBriefPress := of_none rfl rfl

theorem stopHeld : Statement .stopHeld := of_none rfl rfl

theorem refusalFlashEnd : Statement .refusalFlashEnd := of_none rfl rfl

theorem abandonSequenceEnd : Statement .abandonSequenceEnd := of_none rfl rfl

theorem arbitrationStart : Statement .arbitrationStart := of_none rfl rfl

theorem joinStart : Statement .joinStart := of_none rfl rfl

theorem arbitrationLoss : Statement .arbitrationLoss := of_none rfl rfl

theorem sendFault : Statement .sendFault := of_none rfl rfl

theorem releaseCutOff (upset : Upset) : Statement (.releaseCutOff upset) := of_upset rfl (fun h => h)

theorem frameBreak (cls : Fin 8) (bytes : List Byte) (broke : Bool) : Statement (.frameBreak cls bytes broke) :=
  of_none rfl rfl

theorem queuePlaceFreeing : Statement .queuePlaceFreeing := of_none rfl rfl

theorem holdOff (f : Rx) : Statement (.holdOff f) := of_frame rfl rfl (fun h => h)

theorem holdOffTimerExpiry : Statement .holdOffTimerExpiry := of_none rfl rfl

theorem jobOpen (f : Rx) : Statement (.jobOpen f) := of_frame rfl rfl (fun h => h)

theorem jobStop (f : Rx) : Statement (.jobStop f) := of_frame rfl rfl (fun h => h)

theorem jobClose (f : Rx) : Statement (.jobClose f) := of_frame rfl rfl (fun h => h)

theorem jobAbandon (f : Rx) : Statement (.jobAbandon f) := of_frame rfl rfl (fun h => h)

theorem claim (f : Rx) : Statement (.claim f) := of_frame rfl rfl (fun h => h)

theorem tally (f : Rx) : Statement (.tally f) := of_frame rfl rfl (fun h => h)

theorem want (f : Rx) : Statement (.want f) := of_frame rfl rfl (fun h => h)

theorem releaseBegin (h : ReleaseHead) : Statement (.releaseBegin h) := of_none rfl rfl

theorem release (f : Rx) : Statement (.release f) := of_frame rfl rfl (fun h => h)

theorem callFirst (f : Rx) : Statement (.callFirst f) := of_frame rfl rfl (fun h => (Bool.and_eq_true_iff.mp h).1)

theorem callAnswer (f : Rx) : Statement (.callAnswer f) := of_frame rfl rfl (fun h => (Bool.and_eq_true_iff.mp h).1)

theorem query (f : Rx) : Statement (.query f) := of_frame rfl rfl (fun h => h)

theorem reply (f : Rx) : Statement (.reply f) := of_frame rfl rfl (fun h => h)

theorem wantDeadlineExpiry (track : Nat) : Statement (.wantDeadlineExpiry track) := of_none rfl rfl

theorem lastTrackTimeout : Statement .lastTrackTimeout := of_none rfl rfl

theorem indexEdge (time : Nat) (trk0 : Bool) : Statement (.indexEdge time trk0) := of_none rfl rfl

theorem writeCompletion (upset : Upset) : Statement (.writeCompletion upset) := of_upset rfl (fun h => h)

theorem revolutionCounterExpiry (upset : Upset) : Statement (.revolutionCounterExpiry upset) :=
  of_upset rfl (fun h => h)

theorem idRecord (cylinder : Byte) (head : Byte) (sector : Byte) (size : Byte) (check : BitVec 16) : Statement (.idRecord cylinder head sector size check) :=
  of_none rfl rfl

theorem dataRecord (data : List Byte) (check : BitVec 16) (upset : Upset) : Statement (.dataRecord data check upset) :=
  of_upset rfl (fun h => (Bool.and_eq_true_iff.mp h).2)

theorem dataMarkerReachExpiry : Statement .dataMarkerReachExpiry := of_none rfl rfl

theorem noIndex : Statement .noIndex := of_none rfl rfl

theorem qualifyLimitExpiry : Statement .qualifyLimitExpiry := of_none rfl rfl

theorem stepTimeEnd (trk0 : Bool) : Statement (.stepTimeEnd trk0) := of_none rfl rfl

theorem headSettleEnd (trk0 : Bool) : Statement (.headSettleEnd trk0) := of_none rfl rfl

theorem ejectPulseEnd : Statement .ejectPulseEnd := of_none rfl rfl

theorem diskinActive : Statement .diskinActive := of_none rfl rfl

theorem diskinInactive : Statement .diskinInactive := of_none rfl rfl

theorem wprotChange (active : Bool) : Statement (.wprotChange active) := of_none rfl rfl

theorem masterReadSlotGrant : Statement .masterReadSlotGrant := of_none rfl rfl

theorem markerOfAnotherValue : Statement .markerOfAnotherValue := of_none rfl rfl

end OperandBounds

end Sys2Proof.Laws
end

