-- ==== Sys2Proof/Tests/Slice0.lean ====
section
/-! SUPPORT. Tests: well-formedness refusals, the two checks against known values, one step of the commands on small
states, and for every statement with hypotheses a state and operands that meet them. -/

namespace Sys2Proof.Tests

open Sys2Proof Sys2Proof.Machine

set_option Elab.async false

/-! ### Small states -/

/-- Two tracks of two 128-byte sectors. -/
def small : Recipe := { Recipe.builtIn with cylinders := 2, heads := 1, sectors := 2, sizeCode := 0, interleave := [0, 1] }

/-- The small recipe with a stamp of four bytes in sector 1 of track 0. -/
def stamped : Recipe := { small with spans := [⟨0, 1, 8, 4, .binary⟩] }

/-- A COPY job opened by station 1 with stations 0 and 1. -/
def job : JobRecord where
  jobId := 0x1000
  kind := .copy
  opener := 1
  recipe := small
  r := 1
  roster := 3
  role := .member
  markAt := 0
  wanted := 0
  base := 1
  limit := 100
  high := 4
  noneHeard := false

/-- A started-up station 0. -/
def idle : State := { boot := .ready }

/-- A station with a record. -/
def withJob (r : JobRecord) (s : State) : State := { s with jc := { s.jc with record := some r } }

/-- A MEMBER. -/
def member : State := withJob job idle

/-- A MEMBER of a FORMAT job. -/
def formatJob : JobRecord := { job with kind := .format }

/-- The record of the job at its SOURCE. -/
def sourceJob : JobRecord := { job with role := .source }

/-- The SOURCE, in a state of its sequencer. -/
def source (st : SourceState) : State := withJob sourceJob { idle with station := 1, ss := { state := st } }

/-- The record of the job at an OBSERVER. -/
def observerJob : JobRecord := { job with role := .observer }

/-- A station with frames queued. -/
def queued (l : List Frame) (s : State) : State := { s with lc := { s.lc with queue := l } }

/-- A queued frame. -/
def wait (b : Body) : Frame := { body := b, jobId := 0x1000 }

/-- A frame on the medium. -/
def onAir (b : Body) : Frame := { body := b, jobId := 0x1000, started := true }

/-- WANT frames of as many tracks. -/
def wants (n : Nat) : List Frame := (List.range n).map fun t => wait (.want (t + 100) 1 false)

/-- A store with one track in one slot. -/
def holding (i t : Nat) (st : SlotState) : Store :=
  (({} : Store).setSlot i { state := st, track := some t }).setEntry t { presence := .held, slot := some i }

/-- A station with a store. -/
def withStore (st : Store) (s : State) : State := { s with store := st }

/-- The copy cycle in a state. -/
def cycle (c : CycleState) (s : State) : State := { s with cs := { s.cs with state := c } }

/-- A disk in WRITE at a phase. -/
def writing (p : WritePhase) (s : State) : State :=
  { s with cs := { state := .write, disk := { serial := some 5, track := some 0, live := true }, phase := some p } }

/-- MOTOR and SELECT on, cylinder 0. -/
def turning : Drive := { motor := true, select := true, cylinder := some 0 }

/-- A verify record with one sector looked for. -/
def verifying (s : State) : State :=
  { s with
    cs := { state := .verify, disk := { serial := some 5, track := some 0, live := true } }
    vu := some { track := 0, cylinder := 0, head := 0, entries := [{ id := 1 }, { id := 2 }] } }

/-- A completed frame of the job. -/
def rx (sender : StationId) (body : List Byte) : Rx := { sender := sender, jobId := 0x1000, body := body }

/-- The state a command leaves. -/
def after (c : Instr) (s : State) : State :=
  match exec c s with
  | .next t => t
  | _ => State.reset

/-- Every command answers a next state. -/
theorem exec_after (c : Instr) (s : State) : exec c s = .next (after c s) := by
  cases c with
  | release f => simp only [after, exec, execRelease]; split <;> rfl
  | _ => rfl

/-! ### Well-formedness: an ill-formed term for each check -/

theorem test_wf_config (bs : List Byte) (h : bs.length = 2049) :
    Instr.wellFormed (.configurationLoadCompletion bs false) = false := by simp [Instr.wellFormed, h, Config.configBytes]
theorem test_wf_cutOff : Instr.wellFormed (.releaseCutOff [(12288, 0)]) = false := by decide
theorem test_wf_frameBreak (bs : List Byte) (h : bs.length = 12410) :
    Instr.wellFormed (.frameBreak 0 bs false) = false := by simp [Instr.wellFormed, h, Config.maxBody]
theorem test_wf_frames (f : Rx) (h : f.body.length = 12401) (c : Instr) (hc : c = .holdOff f ∨ c = .jobOpen f
    ∨ c = .jobStop f ∨ c = .jobClose f ∨ c = .jobAbandon f ∨ c = .claim f ∨ c = .tally f ∨ c = .want f ∨ c = .release f
    ∨ c = .callFirst f ∨ c = .callAnswer f ∨ c = .query f ∨ c = .reply f) : c.wellFormed = false := by
  have hf : f.wellFormed = false := decide_eq_false (by rw [h]; decide)
  rcases hc with rfl | rfl | rfl | rfl | rfl | rfl | rfl | rfl | rfl | rfl | rfl | rfl | rfl <;>
    simp [Instr.wellFormed, hf]
theorem test_wf_releaseBegin : Instr.wellFormed (.releaseBegin ⟨0, 12401, 0, 0, 0, 0, 0, 0⟩) = false := by decide
theorem test_wf_callFirst : Instr.wellFormed (.callFirst (rx 0 [2, 1, 1, 0, 0])) = false := by decide
theorem test_wf_callAnswer : Instr.wellFormed (.callAnswer (rx 0 [1, 1, 1, 0, 0])) = false := by decide
theorem test_wf_wantDeadline : Instr.wellFormed (.wantDeadlineExpiry 168) = false := by decide
theorem test_wf_writeCompletion : Instr.wellFormed (.writeCompletion [(0, 0), (12288, 1)]) = false := by decide
theorem test_wf_counterExpiry : Instr.wellFormed (.revolutionCounterExpiry [(20000, 1)]) = false := by decide
theorem test_wf_dataRecord_length (bs : List Byte) (h : bs.length = 1025) :
    Instr.wellFormed (.dataRecord bs 0 []) = false := by simp [Instr.wellFormed, h]
theorem test_wf_dataRecord_upset : Instr.wellFormed (.dataRecord [] 0 [(12288, 0)]) = false := by decide
theorem test_wf_good : Instr.wellFormed (.claim (rx 0 (beBytes 4 5 ++ beBytes 4 4))) = true := by decide

/-! ### The two checks, byte order, recipes -/

/-- The nine digits. -/
def digits : List Byte := [0x31, 0x32, 0x33, 0x34, 0x35, 0x36, 0x37, 0x38, 0x39]

theorem test_crc32 : crc32 digits = 0x0376E6E7 := by decide +kernel
theorem test_crc16 : crc16 digits = 0x29B1 := by decide +kernel
theorem test_byte_order : beBytes 4 0x01020304 = [1, 2, 3, 4] ∧ beNat [1, 2, 3, 4] = 0x01020304 := by decide +kernel
theorem test_builtIn_valid : Recipe.builtIn.valid = true ∧ small.valid = true ∧ stamped.valid = true := by decide +kernel
theorem test_builtIn_length : Recipe.builtIn.trackLength = 5930 ∧ Recipe.builtIn.capacity = 6125 := by decide +kernel
theorem test_decimal_stamp : Span.rendition ⟨0, 1, 0, 6, .decimal⟩ 104 = [0x30, 0x30, 0x30, 0x31, 0x30, 0x34] := by
  decide +kernel
theorem test_skew : Recipe.physicalOrder { small with sectors := 4, interleave := [0, 1, 2, 3], skew := 1 } 1 = [4, 1, 2, 3] := by
  decide +kernel

/-! ### What meets the hypotheses: steps, start-up, panel -/

theorem witness_StepOnAnEmptyQueuePassesTime : State.reset.pending = [] := rfl

theorem witness_StoreClearCompletionEmptiesTheStore :
    State.reset.boot = .clearing true
    ∧ { idle with boot := .clearing false }.jc.record = none ∧ { idle with boot := .clearing false }.lc.queue = []
    ∧ { idle with boot := .loading }.boot = .loading ∧ idle.boot = .ready := by decide +kernel

theorem witness_ConfigurationLoadPutsTheStoreInEffect :
    { idle with boot := .loading }.jc.record = none ∧ { idle with boot := .loading }.lc.queue = [] ∧ idle.boot ≠ .loading
    ∧ ([] : List Byte).head? ≠ some 0x5C ∧ (List.replicate 36 (0x5C : Byte)).length < 37 := by decide +kernel

theorem witness_RestartClearsKeepsAndEndsTheDisk :
    (source .serve).boot = .ready ∧ sourceJob.opener = (source .serve).station ∧ sourceJob.noneHeard = false
    ∧ job.opener ≠ member.station ∧ State.reset.boot ≠ .ready
    ∧ (cycle .write member).cs.state.busy = true ∧ ¬((cycle .write member).cs.state = .tally ∧ (cycle .write member).cs.pulled = true)
    ∧ { member with cs := { state := .tally, pulled := true } }.cs.state = .tally ∧ (cycle .standby member).cs.state.busy = false := by
  decide +kernel

/-- A station whose selector 0 gives a recipe. -/
def loadable (r : Recipe) : State := { idle with pc := { directory := (Vector.replicate 8 none).set 0 (some r) } }

/-- A station with a master in the drive. -/
def withMaster (s : State) : State := { s with dp := { s.dp with diskin := true, wprot := true } }

theorem witness_LoadPressOpensAJobOrIsRefused :
    idle.jc.record = none ∧ idle.lc.has .jobOpen = false
    ∧ { idle with lc := { foreign := some 1 } }.lc.foreign.isSome = true
    ∧ (idle.pc.directory[0]).filter (fun r => r.serialsFit 100000) = none
    ∧ ((loadable small).pc.directory[0]).filter (fun r => r.serialsFit 100000) = some small
    ∧ { (withMaster (loadable small)).dp with wprot := false }.wprot = false ∧ (withMaster (loadable small)).dp.diskin = true
    ∧ overfull (withMaster (loadable Recipe.builtIn)).rosterNow Recipe.builtIn.tracks 2 = true
    ∧ overfull (withMaster (loadable small)).rosterNow small.tracks 2 = false
    ∧ 8 ≤ (queued (wants 8) idle).lc.queue.length ∧ ¬ 8 ≤ (queued (wants 7) idle).lc.queue.length
    ∧ { member with cs := { paused := true } }.cs.paused = true ∧ job.role = .member
    ∧ ¬(job.role = .member ∧ member.cs.paused = true)
    ∧ (queued [wait (.jobOpen ⟨.copy, 3, 1, 0, 1, 100, small⟩)] idle).lc.has .jobOpen = true
    ∧ State.reset.boot ≠ .ready := by decide +kernel

theorem witness_StartTestTakesUpTheDisk :
    ¬(member.cs.state = .standby ∧ member.startConditions = true)
    ∧ (cycle .standby member).startConditions = true ∧ (cycle .standby member).dp.wprot = false
    ∧ (withMaster (cycle .standby member)).startConditions = true ∧ (withMaster (cycle .standby member)).dp.wprot = true := by
  decide +kernel

theorem witness_StopPressesStopPauseOrAbandon :
    sourceJob.opener = (source .serve).station ∧ sourceJob.state = .opened ∧ (source .serve).lc.has .jobStop = false
    ∧ (queued (wants 7) (source .serve)).lc.queue.length < 8 ∧ 8 ≤ (queued (wants 8) (source .serve)).lc.queue.length
    ∧ { sourceJob with state := .draining }.state = .draining ∧ (queued [wait .jobStop] (source .serve)).lc.has .jobStop = true
    ∧ job.opener ≠ member.station ∧ job.role = .member ∧ member.lc.waiting .claim = false
    ∧ (queued [wait (.claim 5 4)] (cycle .claim member)).lc.waiting .claim = true
    ∧ observerJob.role ≠ .member ∧ State.reset.boot ≠ .ready ∧ idle.jc.record = none
    ∧ inMask job.roster member.station = true ∧ inMask job.departed member.station = false ∧ member.lc.has .jobAbandon = false
    ∧ inMask job.roster 2 = false ∧ inMask { job with departed := 1 }.departed 0 = true
    ∧ (queued [wait (.jobAbandon .operator)] member).lc.has .jobAbandon = true := by decide +kernel

theorem witness_PanelEffectsEnd :
    { idle with pc := { flash := some 3000000 } }.pc.flash = some 3000000 ∧ idle.pc.flash = none
    ∧ { idle with pc := { sequence := some (.sourceLost, 7) } }.pc.sequence = some (.sourceLost, 7) ∧ idle.pc.sequence = none := by
  decide +kernel

/-! ### What meets the hypotheses: the link -/

/-- A WANT and a CALL FIRST that wait. -/
def twoWait : State := queued [wait (.call true true 0), wait (.want 1 1 false)] idle

theorem witness_QueueTakesFramesAndOffersTheLowestClass :
    twoWait.pick = some (wait (.want 1 1 false))
    ∧ (queued (wants 7) idle).lc.has Body.holdOff.key = false ∧ (queued (wants 7) idle).lc.queue.length < 8
    ∧ (queued (wants 5) idle).lc.has (Body.want 1 1 false).key = false ∧ (queued (wants 5) idle).lc.queue.length < 6
    ∧ State.reset.boot ≠ .ready ∧ twoWait.lc.has (Body.want 1 1 false).key = true
    ∧ 8 ≤ (queued (wants 8) idle).lc.queue.length ∧ 6 ≤ (queued (wants 6) idle).lc.queue.length
    ∧ { twoWait with lc := { twoWait.lc with lossFor := some (.want 1) } }.lc.has (.want 1) = true := by decide +kernel

/-- A MEMBER with track 0 at home in slot 63 and a RELEASE of it queued. -/
def answering (o : ReleaseOrigin) (started : Bool) : State :=
  queued [{ wait (.release 0 .good .answer o 0 2 0) with started := started }] (withStore (holding 63 0 .home) member)

theorem witness_ArbitrationStartsTheFramePicked :
    twoWait.boot = .ready ∧ twoWait.lc.sending = none ∧ twoWait.pick = some (wait (.want 1 1 false))
    ∧ (queued [wait .holdOff] idle).pick = some (wait .holdOff) ∧ (wait .holdOff).key = .holdOff
    ∧ (answering .answer false).pick = some (wait (.release 0 .good .answer .answer 0 2 0))
    ∧ (answering .answer false).store.heldSlot 0 = some 63
    ∧ (queued [wait (.call false true 0)] idle).pick = some (wait (.call false true 0))
    ∧ (withStore {} (answering .answer false)).store.heldSlot 0 = none := by decide +kernel

/-- Station 0 held off by station 3. -/
def heldOff (l : List Frame) : State := { idle with lc := { queue := l, view := some ⟨3, 20000⟩ } }

theorem witness_HeldOffStationStartsNoFrameOfClass2To7 :
    (∀ c s, exec c s = .next (after c s)) ∧ (heldOff (wants 2)).lc.view = some ⟨3, 20000⟩ ∧ (3 : StationId) ≠ (heldOff (wants 2)).station
    ∧ (heldOff [wait (.jobStop)]).boot = .ready ∧ (heldOff [wait (.jobStop)]).lc.sending = none
    ∧ ∃ g ∈ (heldOff [wait (.jobStop)]).lc.queue, g.body.cls ≤ 1 := 
  ⟨exec_after, by decide +kernel⟩

theorem witness_ArbitrationLossKeepsTheFrame :
    idle.lc.sending = none ∧ (queued [onAir .holdOff] idle).lc.sending = some (onAir .holdOff)
    ∧ (queued [onAir (.want 1 1 false)] idle).lc.sending = some (onAir (.want 1 1 false))
    ∧ (queued [onAir (.claim 5 4)] member).lc.sending = some (onAir (.claim 5 4))
    ∧ (queued [onAir (.jobClose 0 0 0 4)] member).lc.sending = some (onAir (.jobClose 0 0 0 4))
    ∧ member.lc.waiting .claim = false ∧ (queued [wait (.claim 5 4)] member).lc.waiting .claim = true
    ∧ (queued [wait (.claim 5 4)] member).claimConditions = true ∧ job.noneHeard = false
    ∧ (withJob { job with high := 100 } (queued [wait (.claim 5 4)] (cycle .claim member))).claimConditions = false := by
  decide +kernel

theorem witness_SendFaultKeepsOrDropsTheFrame :
    idle.lc.sending = none ∧ (queued [{ onAir .holdOff with faults := 2 }] idle).lc.sending = some { onAir .holdOff with faults := 2 }
    ∧ (queued [{ onAir .holdOff with faults := 3 }] idle).lc.sending = some { onAir .holdOff with faults := 3 }
    ∧ (queued [{ onAir (.jobOpen ⟨.copy, 3, 1, 0, 1, 100, small⟩) with faults := 3 }] idle).lc.sending.isSome = true
    ∧ (queued [{ onAir (.want 1 1 false) with faults := 3 }] member).lc.sending.isSome = true
    ∧ (queued [{ onAir (.release 0 .lost .restore .source 0 2 0) with faults := 3 }] (source .serve)).lc.sending.isSome = true
    ∧ (queued [{ onAir (.call true true 0) with faults := 3 }] idle).lc.sending.isSome = true
    ∧ (onAir (.jobClose 0 0 0 4)).key = .jobClose
    ∧ (queued [{ onAir (.jobAbandon .trackLost) with faults := 3 }] (source .serve)).lc.sending.isSome = true
    ∧ (source .serve).ss.abandon ≠ some .trackLost
    ∧ { source .serve with ss := { abandon := some .trackLost } }.ss.abandon = some .trackLost
    ∧ (queued [{ onAir (.claim 5 4) with faults := 3 }] { member with cs := { state := .tally, pulled := true } }).cs.outcome = none
    ∧ (queued [{ onAir (.claim 5 4) with faults := 3 }] (cycle .claim member)).lc.sending.isSome = true := by decide +kernel

/-- A MEMBER with a place for both tracks. -/
def wanting : State := withStore { allowance := [0, 1], reservation := 2 } member

/-- A fill of track 1 under way in slot 63, as announced. -/
def filling : State :=
  { wanting with store := { wanting.store.takeSlot 63 1 (crc32 (List.replicate 256 0xE5)) with fills := [63] } }

/-- The body that settles it. -/
def fillBody (ids : List Nat) : ReleaseBody :=
  ⟨1, .good, .firstPass, 0, 2, crc32 (List.replicate 256 0xE5), ids.map fun i => (i, List.replicate 128 0xE5)⟩

/-- A RELEASE on the medium from slot 63, with its link pin. -/
def sendingRelease (s : State) (o : ReleaseOrigin) (reason : ReleaseReason) : State :=
  queued [onAir (.release 0 .good reason o 0 2 0)] (withStore ((holding 63 0 .cache).takeLinkPin 63) s)

theorem witness_DamageCutsTheReleaseOffAndFreesTheSlot :
    idle.lc.sending = none ∧ (sendingRelease member .answer .answer).lc.sending = some (onAir (.release 0 .good .answer .answer 0 2 0))
    ∧ (sendingRelease member .answer .answer).store.linkPinned = some 63
    ∧ (sendingRelease (source .serve) .duRestore .restore).store.linkPinned = some 63
    ∧ (sendingRelease (source .serve) .source .restore).ss.abandon = none
    ∧ (sendingRelease (source .serve) .source .restore).ss.reread ≠ some 0
    ∧ { sendingRelease (source .release) .source .firstPass with ss := { state := .release, reread := some 0 } }.ss.reread = some 0
    ∧ (holding 63 167 .home).slot 63 = { state := .home, track := some 167 } ∧ ((holding 63 167 .home).slot 63).pins = 0
    ∧ (((holding 63 167 .cache).takeLinkPin 63).slot 63).pins ≠ 0 ∧ ((holding 63 167 .cache).slot 63).state ≠ .home
    ∧ (sendingRelease member .answer .answer).jc.record = some job
    ∧ crc32 (((holding 63 0 .cache).upset 63 [(12287, 1)]).trackData small 63) ≠ ((holding 63 0 .cache).slot 63).check
    ∧ (filling.store.slot 63).damaged = false
    ∧ crc32 (((Store.fillSectors small 63 none (fillBody [1, 2]).sectors filling.store).upset 63 []).trackData small 63)
      = (filling.store.slot 63).check
    ∧ { sendingRelease (source .serve) .source .restore with ss := { abandon := some .operator } }.ss.abandon ≠ none := by decide +kernel

theorem witness_FrameThatFailsItsChecksIsCounted :
    State.reset.boot ≠ .ready ∧ { idle with lc := { deaf := true } }.lc.deaf = true ∧ idle.lc.deaf = false
    ∧ receivePasses 0 (coveredBytes 0x01 0 [] ++ beBytes 4 (crc32 (coveredBytes 0x01 0 [])).toNat) false = true
    ∧ receivePasses 1 (coveredBytes 0x01 0 [] ++ beBytes 4 (crc32 (coveredBytes 0x01 0 [])).toNat) false = false
    ∧ (rx 1 [0]).body.length ≠ 0 ∧ (rx 1 [1, 2, 3]).body.length < 4 ∧ (rx 1 [1]).body.length ≠ 2
    ∧ receivePasses 5 [0x51, 0x10, 0, 0, 11, 1] true = false ∧ idle.store.fills = []
    ∧ filling.store.brokenFill [1, 1, 1] = some 63 ∧ filling.store.fillOf (2 : Byte).toNat = none
    ∧ filling.jc.record = some job ∧ parseRelease [1, 1, 1] = none ∧ filling.ownCheckFails 1 = false
    ∧ parseOpen [] = none ∧ parseStop [0, 2] = none ∧ parseAbandon [0, 7] = none ∧ parseWant [0, 1, 2] = none
    ∧ parseCall [3, 1, 1, 0, 0] = none ∧ parseQuery [] = none ∧ parseReply [0, 0, 0, 4] = none
    ∧ parseTally [4, 0, 0, 0, 0, 0, 0, 0, 0] = none := by decide +kernel

theorem witness_SentFramesPassTheReceiveChecks :
    (Body.claim 5 4).cls < 8 ∧ (member.bodyBytes (.claim 5 4)).length ≤ 12400 := by decide +kernel

theorem witness_FreedPlaceGoesToTheReservesInOrder :
    let s := queued (wants 7) member
    s.lc.queue.length = 7 ∧ { s with lc := { s.lc with lossCount := 6 } }.lc.lossCount = s.pc.params.holdOffLimit
    ∧ s.lc.view = none ∧ s.lc.has .holdOff = false ∧ s.lc.lossCount ≠ s.pc.params.holdOffLimit
    ∧ { s with jc := { s.jc with abandonDue := [.sourceLost] } }.jc.abandonDue = [.sourceLost] ∧ s.lc.has .jobAbandon = false
    ∧ (withJob { job with opener := 0, state := .draining } s).closeConditions = true ∧ s.lc.has .jobClose = false
    ∧ s.closeConditions = false ∧ s.jc.stopDue = false ∧ s.ss.reserve = none ∧ s.cs.state ≠ .claim ∧ s.cs.state ≠ .tally
    ∧ { s with cs := { state := .tally, outcome := some .accepted } }.cs.outcome = some .accepted ∧ s.lc.has .tally = false
    ∧ (cycle .claim s).claimConditions = true ∧ (cycle .claim s).lc.has .claim = false ∧ job.noneHeard = false
    ∧ s.boot = .ready ∧ s.jc.record = some job ∧ (queued (wants 8) s).lc.queue.length = 8
    ∧ { s with jc := { s.jc with stopDue := true } }.jc.stopDue = true ∧ s.lc.has .jobStop = false
    ∧ (withJob { job with high := 100 } (cycle .claim s)).claimConditions = false
    ∧ { s with ss := { reserve := some ⟨0, .good, .restore⟩ } }.ss.abandon = none
    ∧ (queued (wants 5) s).lc.has (.release 0 .restore) = false ∧ 6 ≤ (queued (wants 6) s).lc.queue.length
    ∧ { s with ss := { reserve := some ⟨0, .lost, .restore⟩, abandon := some .operator } }.ss.abandon ≠ none := by decide +kernel

theorem witness_HoldOffIsAskedForSetAndEnded :
    { idle with lc := { lossCount := 6 } }.lc.lossCount = idle.pc.params.holdOffLimit ∧ idle.lc.view = none
    ∧ (queued (wants 7) idle).lc.queue.length < 8 ∧ idle.lc.lossCount ≠ idle.pc.params.holdOffLimit
    ∧ (queued [wait .holdOff] idle).lc.has .holdOff = true ∧ (heldOff []).lc.view.isSome = true
    ∧ (rx 3 []).body = [] ∧ (heldOff []).lc.view = some ⟨(rx 3 []).sender, 20000⟩ ∧ (3 : StationId) ≠ (rx 4 []).sender
    ∧ 8 ≤ (queued (wants 8) idle).lc.queue.length := by decide +kernel

/-! ### What meets the hypotheses: the job record and the serials -/

/-- The terms of the small COPY job. -/
def terms : JobTerms := ⟨.copy, 3, 3, 0, 1, 100, small⟩

/-- A JOB OPEN frame of these terms. -/
def openRx (sender : StationId) (t : JobTerms) : Rx := rx sender (idle.bodyBytes (.jobOpen t))

/-- The body it carries. -/
def openBody (t : JobTerms) : OpenBody := ⟨t.kind, t.roster, t.r, t.wanted, t.base, t.limit, some t.recipe⟩

theorem witness_JobOpenCreatesTheRecord :
    idle.boot = .ready ∧ idle.lc.deaf = false ∧ idle.jc.record = none
    ∧ parseOpen (openRx 1 terms).body = some (openBody terms) ∧ inMask terms.roster 1 = true ∧ terms.r = 3
    ∧ { terms with r := 1, base := 100 }.base ≤ terms.limit ∧ small.valid = true ∧ small.serialsFit 100 = true
    ∧ parseOpen (openRx 0 { terms with kind := .format, base := 0 }).body = some (openBody { terms with kind := .format, base := 0 })
    ∧ (queued [wait (.jobOpen terms)] idle).lc.waiting .jobOpen = true
    ∧ (withMaster idle).dp.diskin = true ∧ idle.cs.state ≠ .claim ∧ idle.dp.diskin = false
    ∧ (cycle .standby idle).cs.state = .standby ∧ idle.cs.paused = false ∧ idle.dp.wprot = false
    ∧ { idle with pc := { params := { fitted := false } } }.pc.params.fitted = false := by decide +kernel

theorem witness_JobOpenIsIgnoredWhileARecordIsHeld :
    member.boot = .ready ∧ member.lc.deaf = false ∧ member.jc.record = some job
    ∧ (parseOpen (openRx 1 terms).body).isSome = true := by decide +kernel

/-- A recipe record whose data rate code is not listed. -/
def badRate : List Byte := (idle.bodyBytes (.jobOpen terms)).set 57 9

theorem witness_DiscardedAndForeignFramesMoveTheNote :
    inMask terms.roster 2 = false ∧ (parseOpen (openRx 2 terms).body).isSome = true
    ∧ parseOpen (openRx 1 { terms with r := 0 }).body = some (openBody { terms with r := 0 })
    ∧ parseOpen (openRx 1 { terms with r := 4 }).body = some (openBody { terms with r := 4 })
    ∧ parseOpen (openRx 1 { terms with base := 101 }).body = some (openBody { terms with base := 101 })
    ∧ parseOpen badRate = some { openBody terms with recipe := none }
    ∧ parseOpen (openRx 1 { terms with recipe := { small with heads := 0 } }).body =
      some (openBody { terms with recipe := { small with heads := 0 } }) ∧ { small with heads := 0 }.valid = false
    ∧ { small with spans := [⟨0, 1, 0, 4, .decimal⟩] }.serialsFit 10000 = false
    ∧ (parseStop [1, 1]).isSome = true ∧ (parseClaim (beBytes 8 0)).isSome = true ∧ (parseTally [2, 0, 0, 0, 0, 0, 0, 0, 0]).isSome = true
    ∧ (parseWant [0, 1, 0]).isSome = true ∧ (parseRelease [0, 2, 3, 0, 2, 0, 0, 0, 0]).isSome = true
    ∧ (parseClose (List.replicate 17 0)).isSome = true ∧ (parseAbandon [1, 6]).isSome = true := by decide +kernel

theorem witness_JobStopDrainsTheJob :
    member.boot = .ready ∧ member.lc.deaf = false ∧ (rx 0 [0, 1]).jobId = job.jobId ∧ (rx 0 [0, 1]).body.length = 2
    ∧ byteAt (rx 0 [0, 1]).body 1 = 1 ∧ job.state = .opened ∧ { job with state := .draining }.state = .draining := by
  decide +kernel

theorem witness_JobCloseAndAbandonEndTheJob :
    (rx 1 (idle.bodyBytes (.jobClose 1 2 3 4294967294))).body.length = 17
    ∧ beAt (idle.bodyBytes (.jobClose 1 2 3 4294967294)) 13 4 < 4294967295
    ∧ parseAbandon [1, 6] = some .sourceLost ∧ job.noneHeard = false ∧ job.opener ≠ member.station
    ∧ sourceJob.opener = (source .serve).station ∧ job.role = .member ∧ (cycle .spinup member).cs.state = .spinup
    ∧ (cycle .fetch member).cs.state.busy = true ∧ (cycle .fetch member).cs.state ≠ .claim
    ∧ { member with cs := { state := .tally, pulled := true } }.cs.pulled = true ∧ member.cs.state.busy = false
    ∧ (withMaster (source .serve)).dp.diskin = true ∧ (source .serve).dp.diskin = false ∧ (source .serve).cs.state.busy = false
    ∧ (parseClose (idle.bodyBytes (.jobClose 1 2 3 4294967294))).isSome = true
    ∧ observerJob.role ≠ .source ∧ (withJob observerJob idle).ss.state ≠ .ending := by decide +kernel

/-- A CLAIM frame. -/
def claimRx (i : StationId) (v carried : Nat) : Rx := rx i (idle.bodyBytes (.claim v carried))

/-- The job with claims of the two stations. -/
def claimed : JobRecord := { job with heard := 2, claims := [⟨5, 1⟩, ⟨6, 0⟩] }

theorem witness_ClaimIsAppliedInItsSteps :
    (claimRx 1 100 4).body.length = 8 ∧ beAt (claimRx 1 100 4).body 0 4 = 100 ∧ beAt (claimRx 1 100 4).body 4 4 = 4
    ∧ (claimRx 1 100 4).jobId = job.jobId ∧ job.noneHeard = false
    ∧ inMask job.roster 1 = true ∧ inMask job.departed 1 = false ∧ job.base ≤ 1 ∧ 100 ≤ job.limit ∧ ¬ 101 ≤ job.limit
    ∧ beAt (claimRx 1 101 4).body 0 4 = 101 ∧ inMask job.roster 2 = false
    ∧ ⟨5, 1⟩ ∈ claimed.claims ∧ ¬ ⟨7, 1⟩ ∈ claimed.claims
    ∧ (∀ c ∈ claimed.claims.eraseP (fun c => decide (c.station = 1)), c.serial ≠ 5)
    ∧ ¬ ⟨6, 1⟩ ∈ claimed.claims
    ∧ (claimed.claims.eraseP fun c => decide (c.station = 1)).find? (fun c => decide (c.serial = 6)) = some ⟨6, 0⟩
    ∧ ¬ (1 : StationId) < 0 ∧ ¬ ⟨5, 0⟩ ∈ claimed.claims
    ∧ (claimed.claims.eraseP fun c => decide (c.station = 0)).find? (fun c => decide (c.serial = 5)) = some ⟨5, 1⟩
    ∧ (0 : StationId) < 1 := by decide +kernel

/-- A TALLY frame. -/
def tallyRx (i : StationId) (o : DiskOutcome) (v : Option Nat) : Rx := rx i (idle.bodyBytes (.tally o v none 0 2))

theorem witness_TallySettlesItsSerial :
    parseTally (tallyRx 1 .accepted (some 100)).body = some ⟨.accepted, some 100, none, 0, 2⟩
    ∧ parseTally (tallyRx 1 .pulled (some 101)).body = some ⟨.pulled, some 101, none, 0, 2⟩
    ∧ inMask claimed.roster 1 = true ∧ claimed.base ≤ 100 ∧ 100 ≤ claimed.limit ∧ ¬ 101 ≤ claimed.limit
    ∧ ⟨5, 1⟩ ∈ claimed.claims ∧ ¬ ⟨7, 1⟩ ∈ claimed.claims
    ∧ (∀ c ∈ claimed.claims.eraseP (fun c => decide (c.station = 1)), c.serial ≠ 7)
    ∧ (∃ c ∈ claimed.claims.eraseP (fun c => decide (c.station = 1)), c.serial = 6) ∧ ¬ ⟨6, 1⟩ ∈ claimed.claims
    ∧ parseTally [2, 1, 0, 0, 0, 100, 11, 0, 0] = some ⟨.rejected, some 100, some .trackUnobtainable, 0, 0⟩
    ∧ inMask { job with departed := 2 }.departed job.opener = true
    ∧ { job with departed := 2 }.remaining.head? = some member.station := by decide +kernel

/-- A closing station with one claim left. -/
def lastClaim : JobRecord := { job with opener := 0, state := .draining, heard := 1, claims := [⟨5, 1⟩] }

theorem witness_TallyWithoutSerialWithdrawsTheEntry :
    parseTally (tallyRx 1 .rejected none).body = some ⟨.rejected, none, none, 0, 2⟩ ∧ inMask job.roster 1 = true
    ∧ (∃ c ∈ claimed.claims, c.station = 1) ∧ (∀ c ∈ job.claims, c.station ≠ 1)
    ∧ lastClaim.claims = [⟨5, 1⟩] ∧ lastClaim.state = .draining ∧ lastClaim.closing = some member.station
    ∧ lastClaim.role ≠ .source ∧ (1 : StationId) ≠ member.station ∧ (withJob lastClaim (queued (wants 7) idle)).lc.queue.length < 8 := by
  decide +kernel

theorem witness_DrainTestFollowsTheAccount :
    parseClaim (claimRx 1 100 4).body = some (100, 4) ∧ job.claimPasses 1 100 = true
    ∧ job.tallyPasses 1 ⟨.accepted, some 100, none, 0, 2⟩ = true
    ∧ (after (.claim (claimRx 1 100 4)) member).jobState = some .draining
    ∧ (after (.claim (claimRx 1 99 4)) member).jobState = some .opened
    ∧ (after (.claim (claimRx 1 100 4)) member).jc.record.map (·.noneHeard) = some false := by decide +kernel

theorem witness_OwnClaimAndTallyMoveTheDisk :
    (cycle .claim member).cs.state = .claim
    ∧ { member with cs := { state := .tally, pulled := true } }.cs.outcome = none
    ∧ (writing .writing member).cs.state ∈ [CycleState.claim, .fetch, .write, .verify]
    ∧ (cycle .tally member).cs.state = .tally ∧ (cycle .tally member).cs.pulled = false
    ∧ (claimRx 0 5 4).body.length = 8 ∧ (claimRx 0 5 4).sender = member.station ∧ ¬ ⟨5, 0⟩ ∈ job.claims
    ∧ (job.claims.eraseP fun c => decide (c.station = 0)).find? (fun c => decide (c.serial = 5)) = none
    ∧ (claimed.claims.eraseP fun c => decide (c.station = 0)).find? (fun c => decide (c.serial = 5)) = some ⟨5, 1⟩
    ∧ (0 : StationId) < 1
    ∧ ((withJob claimed member).jc.record.map (·.claims)) = some [⟨5, 1⟩, ⟨6, 0⟩] ∧ { idle with station := 1 }.station = 1
    ∧ (claimed.claims.eraseP fun c => decide (c.station = 1)).find? (fun c => decide (c.serial = 6)) = some ⟨6, 0⟩
    ∧ ¬ (1 : StationId) < 0 ∧ member.du.lost = []
    ∧ parseTally (tallyRx 0 .accepted (some 100)).body = some ⟨.accepted, some 100, none, 0, 2⟩
    ∧ job.tallyPasses 0 ⟨.accepted, some 100, none, 0, 2⟩ = true ∧ { (cycle .tally member).cs with pulled := true }.pulled = true := by decide +kernel

/-! ### What meets the hypotheses: distribution and the store -/

theorem witness_WantIsCountedAnsweredOrRestored :
    parseWant (idle.bodyBytes (.want 0 1 false)) = some ⟨0, 1, false⟩ ∧ (0 : StationId) = member.station
    ∧ (1 : StationId) ≠ member.station ∧ member.du.find 0 = none
    ∧ (withStore (holding 63 1 .home) member).store.heldSlot 1 = some 63 ∧ 1 < job.tracks
    ∧ ((holding 63 1 .home).slot 63).state = .home ∧ member.lc.hasRelease 1 = false
    ∧ (withStore (holding 63 1 .cache) (source .serve)).store.heldSlot 1 = some 63 ∧ sourceJob.role = .source
    ∧ member.store.heldSlot 1 = none ∧ observerJob.role = .observer ∧ formatJob.kind = .format
    ∧ job.role ≠ .source ∧ (source .serve).store.heldSlot 1 = none ∧ (source .serve).ss.restoring ≠ some 1
    ∧ ¬ 1 ∈ (source .serve).du.restores ∧ [1, 2, 3, 4, 5, 6, 7].length < 8
    ∧ { source .serve with ss := { restoring := some 1 } }.ss.restoring = some 1
    ∧ (queued [wait (.release 1 .good .answer .answer 0 2 0)] member).lc.hasRelease 1 = true
    ∧ [1, 2, 3, 4, 5, 6, 7, 8].length = 8 ∧ (source .serve).ss.restoring = none ∧ (source .serve).ss.abandon = none
    ∧ { source .serve with du := { restores := [1] } }.du.restores = [1] ∧ (source .read).ss.state ≠ .serve
    ∧ { member with du := { need := [⟨1, 1, false, .queued, none⟩] } }.du.find 1 = some ⟨1, 1, false, .queued, none⟩
    ∧ (queued [wait (.want 1 1 false)] member).lc.waiting (.want 1) = true
    ∧ (queued [onAir (.want 1 1 false)] member).lc.waiting (.want 1) = false := by decide +kernel

/-- The head of a RELEASE of the small recipe. -/
def head (t : Byte) : ReleaseHead := ⟨0x1000, 267, t, 1, 1, 0, 2, 7⟩

/-- A disk at track 0 that needs tracks 0 and 1. -/
def needing (mark : Nat) : State :=
  withJob { job with mark := mark } { idle with cs := { state := .fetch, disk := { serial := some 5, track := some 0, live := true } } }

/-- Every slot in cache, none pinned but slot 0. -/
def fullCache : Store :=
  { slots := Vector.ofFn fun i => { state := .cache, track := some (i.val + 2), drivePin := decide (i.val = 0) }
    cache := List.range 64 }

/-- Every slot in use and pinned. -/
def allPinned : Store := { slots := Vector.replicate _ { state := .cache, drivePin := true }, cache := List.range 64 }

theorem witness_ReleaseBeginTakesASlotForThePayload :
    wanting.boot = .ready ∧ wanting.lc.deaf = false ∧ wanting.takes (head 1) = true
    ∧ wanting.takes (head 2) = false ∧ wanting.store.allocation 1 = some 0
    ∧ (withStore { allPinned with allowance := [1] } member).takes (head 1) = true ∧ allPinned.allocation 1 = none
    ∧ fullCache.allocation 167 = some 1 ∧ ({ reservation := 64 } : Store).allocation 167 = none
    ∧ ({ reservation := 63 } : Store).allocation 167 = some 0 ∧ (fullCache.slot 63).track = some 65
    ∧ fullCache.cache = [0] ++ 1 :: List.range' 2 62 ∧ (fullCache.slot 0).pins ≠ 0 ∧ (fullCache.slot 1).pins = 0
    ∧ (fullCache.slot 1).state ≠ .free ∧ ((wanting.store.slot 0).state = .free) ∧ (wanting.store.entry 1).slot = none
    ∧ 2 * 129 + 9 = 267 ∧ (needing 1).takes (head 1) = true ∧ (needing 1).store.allowance = [] := by decide +kernel

theorem witness_ReleaseSettlesTheFill :
    let st := Store.fillSectors small 63 none (fillBody [1, 2]).sectors filling.store
    filling.jc.record = some job ∧ filling.store.fillOf 1 = some 63
    ∧ (filling.store.slot 63).track = some (fillBody [1, 2]).track ∧ (fillBody [1, 2]).sectors.map (·.1) = small.ids
    ∧ crc32 (st.trackData small 63) = (filling.store.slot 63).check ∧ 1 ∈ filling.store.allowance
    ∧ ¬ (fillBody [2, 1]).sectors.map (·.1) = small.ids
    ∧ (∀ p ∈ (fillBody [1, 2]).sectors, p.2.length = small.size) ∧ Memory.wf filling.store.mem = true
    ∧ (2, List.replicate 128 0xE5) ∈ (fillBody [1, 2]).sectors
    ∧ ¬ 1 ∈ { filling.store with allowance := [0] }.allowance := by decide +kernel

theorem witness_ReleaseIsAppliedInItsSteps :
    (parseRelease ([1, 1, 1, 0, 2, 0, 0, 0, 7] ++ List.replicate 258 0)).map (fun b => (b.status, b.reason, b.track))
      = some (.good, .firstPass, 1)
    ∧ (parseRelease [1, 2, 3, 0, 2, 0, 0, 0, 0]).map (·.status) = some .lost ∧ (1 : StationId) ≠ member.station
    ∧ (answering .answer true).lc.releaseOrigin 0 .answer = some .answer
    ∧ (answering .source true).lc.releaseOrigin 0 .answer = some .source ∧ 1 < job.tracks
    ∧ (answering .answer true).ownCheckFails 0 = false
    ∧ (sendingRelease member .answer .answer).ownCheckFails 0 = true
    ∧ (sendingRelease member .answer .answer).store.linkPinned = some 63 ∧ member.lc.sending = none := by decide +kernel

/-- A MEMBER with one want entry. -/
def wantingEntry (w : Want) (need : Bool) : State :=
  { member with du := if need then { need := [w] } else { repair := [w] } }

theorem witness_WantDeadlinesAskAgainAndGiveUp :
    idle.jc.record = none ∧ member.du.find 1 = none
    ∧ (wantingEntry ⟨1, 1, false, .queued, some 40⟩ true).du.find 1 = some ⟨1, 1, false, .queued, some 40⟩
    ∧ (wantingEntry ⟨1, 1, false, .unsent, some 40⟩ false).du.find 1 = some ⟨1, 1, false, .unsent, some 40⟩
    ∧ (wantingEntry ⟨1, 2, false, .waiting, some 40⟩ true).du.find 1 = some ⟨1, 2, false, .waiting, some 40⟩
    ∧ 2 < member.pc.params.wantAttempts ∧ member.pc.params.wantAttempts ≤ 3
    ∧ (wantingEntry ⟨1, 3, false, .waiting, some 40⟩ true).du.find 1 = some ⟨1, 3, false, .waiting, some 40⟩
    ∧ (wantingEntry ⟨1, 3, true, .waiting, some 40⟩ true).du.find 1 = some ⟨1, 3, true, .waiting, some 40⟩
    ∧ (wantingEntry ⟨1, 3, true, .waiting, some 40⟩ true).du.has 1 = true
    ∧ (wantingEntry ⟨1, 3, true, .waiting, some 40⟩ true).du.need.any (fun w => decide (w.track = 1)) = true
    ∧ (wantingEntry ⟨1, 3, true, .waiting, some 40⟩ false).du.need.any (fun w => decide (w.track = 1)) = false
    ∧ { job with mark := 1 }.mark + 1 = job.tracks ∧ job.lastRun = false ∧ job.mark + 1 ≠ job.tracks
    ∧ formatJob.kind = .format ∧ { job with mark := 1, lastRun := true }.lastRun = true := by decide +kernel

theorem witness_NeedTestAsksForTheWindow :
    1 ∈ (needing 1).window ∧ (withStore (holding 63 1 .cache) (needing 1)).held 1 = true
    ∧ (withStore (({} : Store).takeSlot 0 1 0) (needing 1)).isFilling 1 = true
    ∧ { needing 1 with du := { need := [{ track := 1 }] } }.du.has 1 = true
    ∧ (needing 1).held 1 = false ∧ (needing 1).isFilling 1 = false ∧ (needing 1).du.has 1 = false
    ∧ { needing 1 with du := { lost := [1] } }.du.lost = [1] ∧ ¬ 1 ∈ (needing 1).du.lost
    ∧ { job with mark := 1 }.released 1 = false ∧ { job with mark := 2 }.released 1 = true ∧ (needing 2).boot = .ready
    ∧ (needing 2).lc.has (.want 1) = false ∧ (queued (wants 5) (needing 2)).lc.queue.length < 6
    ∧ 6 ≤ (queued (wants 6) (needing 2)).lc.queue.length
    ∧ (withJob { job with mark := 2, repair := [0, 1] } member).jc.record.map (·.repair) = some [0, 1]
    ∧ (withJob { job with mark := 2 } member).eligible { job with mark := 2 } 1 = true
    ∧ (withJob job member).eligible job 1 = false
    ∧ { member with du := { repair := [⟨3, 1, false, .queued, none⟩, ⟨4, 1, false, .queued, none⟩,
        ⟨5, 1, false, .queued, none⟩] } }.du.repair.length = 3
    ∧ (needing 1).callsNeedTest member = true ∧ (needing 1).callsNeedTest (needing 1) = false
    ∧ (withJob { job with repair := [1] } member).repairGained member = true ∧ member.repairGained member = false := by decide +kernel

/-! ### What meets the hypotheses: the rest -/

theorem witness_CompletionAndSettleLeaveTheRest :
    (1 : StationId) ≠ idle.station ∧ idle.lc.has .holdOff = false ∧ (queued [onAir .holdOff] idle).lc.has .holdOff = true
    ∧ idle.lc.view = none ∧ (heldOff []).lc.view.isSome = true ∧ idle.lc.waiting .claim = false ∧ idle.cs.state ≠ .claim
    ∧ idle.cs.state ≠ .tally ∧ idle.lc.waiting .jobClose = false ∧ idle.lc.lossFor = none ∧ idle.jc.record = none := by
  decide +kernel

/-- A station with a drive. -/
def withDrive (dp : Drive) (s : State) : State := { s with dp := dp }

theorem witness_IndexEdgeCapturesAndCounts :
    (withDrive turning member).dp.motor = true ∧ member.cs.state ≠ .write ∧ turning.qualify = none ∧ turning.spindle.lastEdge = none
    ∧ { turning with spindle := { lastEdge := some 0 } }.spindle.lastEdge = some 0
    ∧ (204000 - small.nominal.period) * 1000 ≤ small.nominal.period * small.tolerance
    ∧ ¬ (204001 - small.nominal.period) * 1000 ≤ small.nominal.period * small.tolerance
    ∧ { turning with motor := false }.motor = false ∧ idle.jc.record = none := by decide +kernel

theorem witness_WriteGateOpensAndDrops :
    (writing .armed member).cs.state = .write ∧ (writing .armed (withMaster member)).dp.wprot = true
    ∧ (writing .armed member).cs.phase = some .armed ∧ (writing .armed (withDrive turning member)).dp.wprot = false
    ∧ member.role = some .member ∧ turning.motor = true ∧ turning.select = true ∧ turning.motion = none
    ∧ (writing .writing member).cs.phase = some .writing ∧ (writing .seeking member).cs.phase ≠ some .armed
    ∧ (writing .seeking member).cs.phase ≠ some .writing
    ∧ member.dp.wgate = false ∧ { turning with wgate := true }.wgate = true ∧ member.cs.state ≠ .write
    ∧ (withJob observerJob idle).role ≠ some .member ∧ idle.dp.motor = false := by decide +kernel

/-- A drive whose qualify request is open. -/
def asking (seen : Bool) : Drive := { turning with qualify := some ⟨1000000, seen⟩, spindle := { qualified := true } }

/-- The SOURCE in a master read at a phase. -/
def masterRead (p : ReadPhase) : State :=
  { source .read with ss := { state := .read, present := true, read := some { track := 1, phase := p, slot := some 5, unsettled := [1, 2] } } }

theorem witness_QualifyRequestIsAnsweredOrExpires :
    (asking true).qualify = some ⟨1000000, true⟩ ∧ (asking true).spindle.qualified = true
    ∧ (cycle .spinup member).cs.state = .spinup ∧ (asking true).motion = none ∧ (asking true).wgate = false
    ∧ (asking true).trk0 = false ∧ (writing .requalify member).cs.phase = some .requalify
    ∧ (masterRead .requalify).role = some .source ∧ (masterRead .requalify).ss.state ≠ .spinup
    ∧ (masterRead .requalify).ss.read.map (·.phase) = some .requalify ∧ turning.qualify = none
    ∧ (source .spinup).ss.state = .spinup ∧ observerJob.role = .observer
    ∧ { asking true with trk0 := true }.trk0 = true ∧ (source .spinup).role = some .source
    ∧ turning.spindle.qualified = false := by decide +kernel

theorem witness_WriteCompletionJudgesTheWrite :
    member.cs.state ≠ .write ∧ (writing .completing member).cs.phase = some .completing
    ∧ { turning with spindle := { inTol := true, period := some 200000 } }.spindle.inTol = true ∧ turning.spindle.inTol = false
    ∧ small.reachesGap4 200000 = true ∧ small.reachesGap4 0 = false
    ∧ ((holding 63 0 .home).takeDrivePin 63).drivePinned = some 63
    ∧ crc32 (((holding 63 0 .home).upset 63 []).trackData small 63) ≠ ((holding 63 0 .home).slot 63).check
    ∧ (filling.store.slot 63).damaged = false
    ∧ crc32 (((Store.fillSectors small 63 none (fillBody [1, 2]).sectors filling.store).upset 63 []).trackData small 63)
      = (filling.store.slot 63).check
    ∧ ({ damaged := true } : Slot).damaged = true
    ∧ small.verify ≠ .off ∧ { small with verify := .off }.verify = .off ∧ 0 + 1 < job.tracks ∧ job.tracks ≤ 1 + 1
    ∧ (writing .completing member).cs.disk.serial.isSome = true
    ∧ DiskFault.speed ≠ .storeDamage ∧ 1 + 1 ≤ small.writeRetry ∧ small.writeRetry < 2 + 1
    ∧ [DiskFault.speed, .storeDamage] ≠ [] ∧ DiskFault.storeDamage ∈ [DiskFault.speed, .storeDamage]
    ∧ ¬ DiskFault.storeDamage ∈ [DiskFault.speed, .overrun] ∧ ({ first := some .speed } : Disk).first.isSome = true := by decide +kernel

theorem witness_CounterExpiryAndNoIndexEndTheRead :
    turning.counter ≠ some 0 ∧ { turning with counter := some 0 }.counter = some 0
    ∧ (verifying member).cs.state = .verify ∧ (verifying member).vu.map (·.running) = some true
    ∧ (verifying member).vu.bind VerifyRecord.fault = some .verifyMissing
    ∧ VerifyRecord.fault { track := 0, cylinder := 0, head := 0, entries := [{ id := 1, outcome := .ok }] } = none
    ∧ { small with verify := .check }.verify ≠ .full ∧ small.verify = .full ∧ formatJob.kind = .format
    ∧ (masterRead .searching).ss.read.map (·.phase) = some .searching
    ∧ { turning with spindle := { watch := some 0 } }.spindle.watch = some 0 ∧ { turning with motor := false }.motor = false
    ∧ (writing .writing member).cs.phase = some .writing ∧ (writing .completing member).cs.phase = some .completing
    ∧ (source .serve).ss.read = none ∧ (cycle .fetch member).cs.state ≠ .write
    ∧ member.vu = none ∧ (masterRead .seeking).ss.read.map (·.phase) = some .seeking
    ∧ (source .serve).role = some .source := by decide +kernel

/-- A drive in a motion. -/
def moving (m : Motion) : Drive := { turning with motion := some m }

theorem witness_HeadMotionsBeginStepAndSettle :
    (moving { kind := .seek 3 false, ends := 0 }).motion.isSome = true ∧ turning.motion = none ∧ turning.wgate = false
    ∧ turning.cylinder = some 0 ∧ (0 : Nat) ≠ 83 ∧ turning.head = false ∧ { turning with trk0 := true }.trk0 = true
    ∧ turning.trk0 = false
    ∧ (moving { kind := .seek 3 false, settling := true, ends := 0 }).motion.map (·.settling) = some true
    ∧ (moving { kind := .seek 3 false, toGo := 1, ends := 0 }).motion.map (·.toGo) = some 1
    ∧ (moving { kind := .recalibrate none, pulses := 89, ends := 0 }).motion.map (·.pulses) = some 89
    ∧ (moving { kind := .recalibrate none, pulses := 90, ends := 0 }).motion.map (·.pulses) = some 90
    ∧ member.role = some .member ∧ (cycle .home member).cs.state = .home
    ∧ ¬((1 : Nat) = 0 ∧ false = false) ∧ (writing .seeking member).cs.phase = some .seeking
    ∧ (asking true).spindle.qualified = true ∧ turning.spindle.qualified = false
    ∧ (withDrive (moving { kind := .seek 1 false, settling := true, ends := 0 }) (masterRead .seeking)).dp.motion.map (·.settling) = some true
    ∧ (masterRead .seeking).ss.read.map (·.phase) = some .seeking ∧ (source .home).ss.state = .home
    ∧ (moving { kind := .recalibrate (some (3, true)), settling := true, ends := 0 }).motion.map (·.kind)
      = some (.recalibrate (some (3, true))) ∧ (3 : Nat) ≠ 0 := by decide +kernel

theorem witness_DisketteIsSeatedEjectedOrPulled :
    turning.ejectEnds = none ∧ { turning with ejectEnds := some 100000 }.ejectEnds = some 100000
    ∧ (withMaster idle).dp.diskin = true ∧ idle.dp.diskin = false ∧ idle.cs.state = .empty ∧ idle.boot ≠ .clearing true
    ∧ idle.boot ≠ .loading ∧ State.reset.boot = .clearing true ∧ (cycle .standby idle).cs.state ≠ .empty
    ∧ (cycle .standby (withMaster member)).role = some .member ∧ (cycle .out member).cs.state = .out
    ∧ (cycle .spinup member).cs.pulled = false ∧ (writing .writing member).cs.pulled = false
    ∧ (cycle .standby (source .serve)).cs.state = .standby ∧ (source .serve).ss.firstTrack < sourceJob.tracks
    ∧ (source .ending).role = some .source ∧ (source .ending).ss.state = .ending
    ∧ { idle with ss := { state := .ending } }.role = none
    ∧ (cycle .claim member).lc.has .claim = false ∧ (queued [onAir (.claim 5 4)] (cycle .claim member)).lc.waiting .claim = false
    ∧ (queued [onAir (.tally .accepted (some 5) none 0 2)] (cycle .tally member)).lc.has .tally = true
    ∧ (cycle .tally member).cs.disk.conflict = false := by decide +kernel

theorem witness_SlotGrantBeginsTheMasterRead :
    (source .serve).ss.read = none ∧ (masterRead .seeking).ss.read.map (·.phase) = some .seeking
    ∧ (masterRead .slotWait).ss.read.map (·.phase) = some .slotWait
    ∧ (withStore (holding 63 1 .home) (masterRead .slotWait)).held 1 = true ∧ (masterRead .slotWait).held 1 = false
    ∧ ((withStore (({} : Store).takeSlot 0 1 0) (masterRead .slotWait)).store.entry 1).presence ≠ .absent
    ∧ ((masterRead .slotWait).store.entry 1).presence = .absent ∧ (masterRead .slotWait).store.allocation 1 = some 0
    ∧ allPinned.allocation 1 = none ∧ turning.motion = none ∧ turning.cylinder = some 0 ∧ turning.wgate = false
    ∧ 1 / small.heads ≠ 0
    ∧ { turning with cylinder := some 83 }.cylinder = some 83 ∧ 1 / small.heads ≠ 83 ∧ (source .read).ss.abandon = none
    ∧ (source .read).du.restores = [] ∧ (source .read).ss.firstTrack < sourceJob.tracks
    ∧ ¬ { source .read with ss := { firstTrack := 2 } }.ss.firstTrack < sourceJob.tracks
    ∧ (withStore (holding 63 1 .home) (source .serve)).store.heldSlot 1 = some 63 ∧ (source .serve).store.heldSlot 1 = none
    ∧ (source .serve).ss.present = false ∧ (masterRead .slotWait).ss.present = true
    ∧ { source .serve with ss := { abandon := some .operator } }.ss.abandon ≠ none
    ∧ (queued (wants 5) (source .serve)).lc.queue.length < 6 ∧ 6 ≤ (queued (wants 6) (source .serve)).lc.queue.length := by decide +kernel

theorem witness_RecordsAndMarkersAreSoughtInAVerify :
    (verifying member).vu.map (fun v => (v.running, v.reading, v.cylinder, v.head)) = some (true, none, 0, 0)
    ∧ small.sizeCode = 0
    ∧ (∃ e ∈ ((verifying member).vu.map (·.entries)).getD [], e.id = (2 : Byte).toNat ∧ e.outcome ≠ .ok)
    ∧ crc16 [0xB5, 0xB5, 0, 0, 2, 0] = small.idCheck [0, 0, 2, 0] ∧ ¬ crc16 [0xB5, 0xB5, 0, 0, 2, 0] = 0
    ∧ ¬ (1 : Byte).toNat = 0
    ∧ ((verifying member).vu.map fun v => { v with reading := some 2 }.reading) = some (some 2)
    ∧ (masterRead .searching).cs.state ≠ .verify ∧ (masterRead .searching).ss.read.map (·.phase) = some .searching
    ∧ member.cs.state ≠ .verify ∧ member.ss.read = none
    ∧ (2 : Byte).toNat ∈ small.ids ∧ (2 : Byte).toNat ∈ [1, 2] ∧ ¬ (2 : Byte).toNat ∈ [1] ∧ ¬ (3 : Byte).toNat ∈ small.ids
    ∧ (1 : Byte).toNat = 1 / small.heads ∧ (0 : Byte).toNat = 1 % small.heads := by decide +kernel

/-- Data of one sector in fill bytes. -/
def fillData : List Byte := List.replicate 128 0xD9

theorem witness_DataRecordIsObservedOrStored :
    let e : SectorEntry := { id := 2, stamp := [(0, 5)] }
    ([{ id := 1 }, e] : List SectorEntry).find? (fun e => decide (e.id = 2)) = some e
    ∧ (verifying member).store.drivePinned = none ∧ fillData.length = small.size
    ∧ crc16 ([small.dataMarker, small.dataMarker] ++ fillData) ≠ 0
    ∧ crc16 ([small.dataMarker, small.dataMarker] ++ fillData) = small.dataCheck fillData
    ∧ (∃ p ∈ e.stamp, fillData[p.1]? ≠ some p.2) ∧ ¬ (∃ p ∈ e.stamp, (fillData.set 0 5)[p.1]? ≠ some p.2)
    ∧ small.verify = .full ∧ formatJob.kind = .format
    ∧ (∃ k < small.size, (∀ p ∈ e.stamp, p.1 ≠ k) ∧ ((fillData.set 0 5).set 127 0)[k]? ≠ some small.fill)
    ∧ ¬ (∃ k < small.size, (∀ p ∈ e.stamp, p.1 ≠ k) ∧ (fillData.set 0 5)[k]? ≠ some small.fill)
    ∧ (∃ e ∈ ([{ id := 1 }, { id := 2, outcome := .ok }] : List SectorEntry), e.outcome ≠ .ok)
    ∧ [1, 2].erase 2 ≠ [] ∧ ((masterRead .searching).ss.read.bind (·.slot)) = some 5
    ∧ [(0 : Byte)].length ≠ small.size
    ∧ (0 : Nat) ≤ 0 + small.cellTime (small.size + 2) ∧ ¬ 10000 ≤ 0 + small.cellTime (small.size + 2)
    ∧ (∀ e ∈ ([{ id := 2, outcome := .ok }] : List SectorEntry), e.outcome = .ok) ∧ [2].erase 2 = []
    ∧ ((holding 63 0 .home).takeDrivePin 63).drivePinned = some 63
    ∧ ((holding 63 0 .home).sectorData small 63 2)[127]? ≠ fillData[127]?
    ∧ VerifyRecord.fault { track := 0, cylinder := 0, head := 0, entries := [{ id := 1, outcome := .ok }] } = none
    ∧ VerifyRecord.fault { track := 0, cylinder := 0, head := 0, entries := [{ id := 1 }] } = some .verifyMissing := by decide +kernel

/-- A verify record of these outcomes. -/
def outcomes (os : List SectorOutcome) : VerifyRecord where
  track := 0
  cylinder := 0
  head := 0
  entries := os.map fun o => { id := 1, outcome := o }

theorem witness_VerifyFaultFollowsTheOrder :
    (∀ e ∈ (outcomes [.ok, .ok]).entries, e.outcome = .ok) ∧ (outcomes [.ok, .ok]).fault = none
    ∧ (∃ e ∈ (outcomes [.dataCheck, .missing]).entries, e.outcome = .missing)
    ∧ (∀ e ∈ (outcomes [.mismatch, .idCheck]).entries, e.outcome ≠ .missing)
    ∧ (∃ e ∈ (outcomes [.mismatch, .idCheck]).entries, e.outcome = .idCheck ∨ e.outcome = .dataCheck)
    ∧ (∀ e ∈ (outcomes [.mismatch, .stampMismatch]).entries,
      e.outcome = .ok ∨ e.outcome = .stampMismatch ∨ e.outcome = .mismatch)
    ∧ (∃ e ∈ (outcomes [.mismatch, .stampMismatch]).entries, e.outcome = .stampMismatch)
    ∧ (∀ e ∈ (outcomes [.mismatch, .ok]).entries, e.outcome ≠ .stampMismatch)
    ∧ (∃ e ∈ (outcomes [.mismatch, .ok]).entries, e.outcome = .mismatch) := by decide +kernel

theorem witness_CallsMoveThePresenceTable :
    parseCall [2, 1, 1, 0x10, 0] = some ⟨false, true, 1, 0x1000⟩ ∧ parseCall [1, 0, 1, 0, 0] = some ⟨true, false, 1, 0⟩
    ∧ inMask job.roster 2 = false ∧ inMask { job with departed := 2 }.departed 1 = true ∧ (1 : StationId) ≠ member.station := by
  decide +kernel

theorem witness_CallFirstDepartsARosterStation :
    parseCall [1, 1, 1, 0, 0] = some ⟨true, true, 1, 0⟩ ∧ inMask job.roster 1 = true ∧ inMask job.departed 1 = false
    ∧ (1 : StationId) ≠ member.station ∧ { job with departed := addMask job.departed 1 }.remaining ≠ []
    ∧ { observerJob with roster := 2, departed := addMask 0 1 }.remaining = []
    ∧ { job with departed := addMask job.departed 1 }.remaining.head? = some member.station ∧ job.mark < job.tracks
    ∧ job.state = .opened ∧ (1 : StationId) = job.opener
    ∧ inMask { job with roster := 7, departed := 2, opener := 1 }.departed 1 = true
    ∧ { job with roster := 7, departed := 2 }.remaining.head? ≠ some 2 := by decide +kernel

theorem witness_HomeRepairRebuildsTheHolding :
    formatJob.kind = .format ∧ observerJob.role = .observer ∧ job.kind = .copy ∧ job.role ≠ .observer
    ∧ ((holding 63 1 .cache).slot 63).track = some 1 ∧ ((holding 63 1 .cache).slot 63).state = .cache
    ∧ ((holding 63 1 .home).slot 63).state = .home
    ∧ (stationsOf 0xFFFF).Nodup ∧ 83 ∈ homesAmong (stationsOf 0xFFFF) 84 3 5 ∧ ¬ 84 ∈ homesAmong (stationsOf 0xFFFF) 84 3 5 := by decide +kernel

/-- A state in which every invariant says something. -/
def lively : State :=
  writing .writing { withJob { claimed with accepted := 0 } (queued [onAir (.want 1 1 false)] idle) with
    dp := { turning with wgate := true }
    store := { holding 63 0 .home with mem := [(3, 5)] }
    pc := { history := [⟨.pulled, none, none, 0, 0, none⟩] } }

/-- A QUERY body. -/
def queryBody (target page : Nat) (count : Nat) (clear : Bool) : List Byte :=
  [byteOf target, byteOf page] ++ beBytes 2 0 ++ beBytes 2 count ++ [flagByte clear]

theorem witness_QueryIsAnsweredByItsTarget :
    parseReply [7, 0, 0, 1] = some (7, 0) ∧ parseQuery (queryBody 0 7 36 true) = some ⟨0, 7, 0, 36, true⟩
    ∧ parseQuery (queryBody 0 7 256 false) = some ⟨0, 7, 0, 256, false⟩ ∧ (1 : Nat) ≠ idle.station.val
    ∧ (queued [wait (.reply 7 0 .ok [])] idle).lc.has (.reply 7 0) = true ∧ 6 ≤ (queued (wants 6) idle).lc.queue.length
    ∧ idle.lc.has (.reply 7 0) = false ∧ (queued (wants 5) idle).lc.queue.length < 6
    ∧ idle.page 7 = some (List.replicate 36 0) ∧ 8 < 9 ∧ ¬ (1 : Nat) ≤ 0 ∧ (256 : Nat) < 257
    ∧ (List.replicate 36 (0 : Byte)).length < 37
    ∧ member.jc.record = some job ∧ sourceJob.role = .source ∧ claimed.claims[1]? = some ⟨6, 0⟩
    ∧ (wantingEntry ⟨1, 1, false, .queued, none⟩ true).du.need[0]? = some ⟨1, 1, false, .queued, none⟩
    ∧ (wantingEntry ⟨1, 1, false, .waiting, some 40000⟩ false).du.repair[5 - 5]? = some ⟨1, 1, false, .waiting, some 40000⟩
    ∧ lively.pc.history[0]? = some ⟨.pulled, none, none, 0, 0, none⟩ := by decide +kernel

/-- A configuration store: signature and directory with a station block at 40 and recipe 0 at its end. -/
def configBytes : List Byte := [0x5C, 0, 22, 0, 10, 0, 73, 1, 0xED] ++ List.replicate 2039 0

theorem witness_WrittenRecordsReadBackAsTheyWere :
    stamped.valid = true ∧ terms.recipe.valid = true ∧ terms.limit < 4294967296
    ∧ (withJob job (withStore (holding 63 167 .home) idle)).store.heldSlot 167 = some 63
    ∧ (withStore ((holding 63 167 .cache).takeLinkPin 63) idle).store.linkPinned = some 63
    ∧ (((holding 63 167 .cache).takeLinkPin 63).slot 63).track = some 167
    ∧ Params.ofBytes ({} : Params).toBytes = some {} ∧ ({} : Params).serialSpan < 4294967296
    ∧ beAt configBytes 1 2 = 22 ∧ beAt configBytes 3 2 * 4 = 40 ∧ beAt configBytes (1 + 4 * (0 + 1)) 2 = 73
    ∧ beAt configBytes (1 + 4 * (7 + 1)) 2 = 0 ∧ 37 ≤ beAt configBytes (1 + 4 * (0 + 1) + 2) 2 * 4
    ∧ beAt configBytes (1 + 4 * (0 + 1) + 2) 2 * 4 + 73 ≤ 2048 ∧ configBytes.head? = some 0x5C ∧ configBytes.length = 2048 := by decide +kernel

theorem witness_PhysicalOrderIsInterleavedAndRotated : small.valid = true ∧ 1 < small.sectors := by decide +kernel

theorem witness_BuiltTrackHasItsLengthAndChecks :
    stamped.valid = true ∧ (List.replicate 256 (0 : Byte)).length = stamped.sectors * stamped.size
    ∧ 1 ∈ stamped.ids ∧ (⟨0, 1, 8, 4, .binary⟩ : Span) ∈ stamped.spans ∧ 8 + 3 < 8 + 4 ∧ ¬ 8 + 4 < 8 + 4
    ∧ (⟨0, 1, 0, 6, .decimal⟩ : Span).form = .decimal := by decide +kernel

theorem witness_EveryStepKeepsTheAccount : claimed.balanced ∧ claimed.claimsSound := by
  refine ⟨rfl, ?_, ?_, ?_⟩ <;> decide +kernel

theorem witness_EveryStepKeepsTheWriteGateLaw :
    lively.dp.wgate = true ∧ lively.dp.wprot = false ∧ lively.role = some .member ∧ lively.cs.state = .write
    ∧ lively.cs.phase = some .writing ∧ lively.dp.motor = true ∧ lively.dp.select = true := by decide +kernel

theorem witness_EveryStepKeepsMemoryQueueAndBounds :
    Memory.wf lively.store.mem = true ∧ lively.lc.queue.length ≤ 8 ∧ (lively.lc.queue.map Frame.key).Nodup
    ∧ (lively.lc.queue.filter (·.started)).length ≤ 1 ∧ lively.pc.history.length ≤ 8 := by decide +kernel

/-! ### Hypotheses of the clauses on pins, reads, seeks, a rejected disk and a high mark none heard -/

theorem witness_QueueTakesFramesAndOffersTheLowestClass_withdrawn :
    let waiting : State := { queued [wait (.want 1 1 false)] idle with
      lc := { queue := [wait (.want 1 1 false)], lossCount := 2, lossFor := some (.want 1) } }
    waiting.lc.lossFor = some (.want 1) ∧ (waiting.withdrawKey (.want 1)).lc = {}
    ∧ (waiting.withdrawKey (.want 2)) = waiting
    ∧ ((queued [onAir (.want 1 1 false)] idle).withdrawKey (.want 1)).lc.queue = [onAir (.want 1 1 false)] := by
  decide +kernel

/-- A RELEASE offered of a track that is not held here, before a REPLY. -/
def offering (s : State) (reason : ReleaseReason) (o : ReleaseOrigin) : State :=
  queued [wait (.release 0 .good reason o 0 2 0), wait (.reply 7 0 .ok [])] s

theorem witness_ArbitrationStartsTheFramePicked_notHeld :
    (queued [] idle).pick = none ∧ (queued [] idle).lc.sending = none ∧ State.reset.boot ≠ .ready
    ∧ (offering member .answer .answer).pick = some (wait (.release 0 .good .answer .answer 0 2 0))
    ∧ (offering member .answer .answer).store.heldSlot 0 = none
    ∧ (offering (source .serve) .restore .duRestore).pick = some (wait (.release 0 .good .restore .duRestore 0 2 0))
    ∧ (offering (source .serve) .restore .source).pick = some (wait (.release 0 .good .restore .source 0 2 0))
    ∧ (offering (source .release) .firstPass .source).pick = some (wait (.release 0 .good .firstPass .source 0 2 0))
    ∧ (offering (source .release) .firstPass .source).ss.abandon = none
    ∧ (after .arbitrationStart (offering (source .release) .firstPass .source)).lc.queue = [onAir (.reply 7 0 .ok [])]
    ∧ (after .arbitrationStart (offering (source .release) .firstPass .source)).ss.state = .read
    ∧ { source .release with ss := { state := .release, abandon := some .masterRemoved } }.ss.abandon ≠ none := by
  decide +kernel

/-- A station whose slot 0 is HOME with track 167 and damaged, slot 63 CACHE with track 0, both with a drive pin or a
link pin. -/
def pinned (e c : Slot) : State :=
  withStore { ((({} : Store).setSlot 0 { e with state := .home, track := some 167 }).setSlot 63
      { c with state := .cache, track := some 0 }).setEntry 167 { presence := .held, slot := some 0 } with cache := [63, 5] } member

theorem witness_DamageCutsTheReleaseOffAndFreesTheSlot_pins :
    (pinned { drivePin := true, damaged := true } {}).store.drivePinned = some 0
    ∧ (pinned {} { linkPin := true, freePending := true }).store.linkPinned = some 63
    ∧ (pinned { drivePin := true, linkPin := true, damaged := true } {}).store.drivePinned = some 0
    ∧ (pinned {} {}).store.drivePinned = none ∧ (pinned {} {}).store.linkPinned = none
    ∧ (let t := (pinned { drivePin := true, damaged := true } {}).releaseDrivePin
      t.store.slot 0 = {} ∧ (t.store.entry 167).presence = .absent ∧ t.store.reservation = 1
      ∧ t.jc.record.map (·.repair) = some [167])
    ∧ (pinned {} { linkPin := true }).releaseLinkPin.store.cache = [5, 63]
    ∧ (pinned {} { linkPin := true, freePending := true }).releaseLinkPin.store.cache = [5]
    ∧ ((pinned {} { linkPin := true }).requestFree 63).store.slot 63
      = { state := .cache, track := some 0, linkPin := true, freePending := true }
    ∧ ((pinned {} {}).requestFree 63).store.slot 63 = {} := by decide +kernel

/-- A MEMBER in FETCH with track 0 current. -/
def fetching (r : JobRecord) : State :=
  withJob r { idle with cs := { state := .fetch, disk := { serial := some 5, track := some 0, live := true } } }

theorem witness_ReleaseIsAppliedInItsSteps_fetch :
    let held := withStore (holding 63 0 .home) (fetching job)
    held.jc.record = some job ∧ held.cs.disk.track = some 0 ∧ held.cs.state = .fetch ∧ held.store.drivePinned = none
    ∧ (held.store.entry 0).presence = .held ∧ (held.store.entry 0).slot = some 63
    ∧ (held.store.slot 63).damaged = false ∧ (held.store.slot 63).freePending = false
    ∧ held.fetchTry.cs.state = .write ∧ held.fetchTry.store.drivePinned = some 63
    ∧ (fetching job).fetchTry = fetching job
    ∧ (withStore ((holding 63 0 .home).takeDrivePin 62) (fetching job)).store.drivePinned ≠ none
    ∧ (fetching formatJob).fetchTry.cs.state = .write ∧ (fetching formatJob).fetchTry.store.drivePinned = none
    ∧ formatJob.kind = .format ∧ job.kind = .copy ∧ member.cs.state ≠ .fetch := by decide +kernel

theorem witness_WantDeadlinesAskAgainAndGiveUp_leaves :
    let listed := wantingEntry ⟨1, 1, false, .waiting, some 40⟩ false
    listed.du.has 1 = true ∧ listed.du.has 2 = false ∧ (listed.removeWant 1).du = {}
    ∧ listed.boot = .ready ∧ listed.lc.has (.want 1) = false ∧ (queued (wants 5) listed).lc.queue.length < 6
    ∧ 6 ≤ (queued (wants 6) listed).lc.queue.length ∧ State.reset.boot ≠ .ready
    ∧ ((queued (wants 6) listed).resendWant ⟨1, 2, false, .waiting, some 40⟩ 0x1000).du.repair
      = [⟨1, 2, false, .unsent, some (member.pc.params.wantTimeout * 1000)⟩]
    ∧ (cycle .verify member).cs.state = .verify ∧ member.cs.state ≠ .fetch ∧ member.cs.state ≠ .write
    ∧ member.cs.state ≠ .verify := by decide +kernel

theorem witness_WriteGateOpensAndDrops_rejected :
    let disk := { (fetching job).cs.disk with track := some 0 }
    disk.serial.isSome = true ∧ ((fetching job).reject .speed).cs.state = .tally
    ∧ { disk with serial := none, conflict := true }.conflict = true
    ∧ (cycle .spinup member).cs.disk.serial = none ∧ (cycle .spinup member).cs.disk.conflict = false
    ∧ ((cycle .spinup member).reject .speed).cs.state = .out
    ∧ ((cycle .spinup member).reject .speed).pc.history = [⟨.rejected, none, some .speed, 0, 0, none⟩]
    ∧ (verifying member).vu.isSome = true ∧ member.vu = none := by decide +kernel

/-- A disk in FETCH at a drive, its current track the last. -/
def seeking (dp : Drive) (t : Nat) : State :=
  withJob { job with recipe := { small with heads := 2 } } { idle with
    dp := dp, cs := { state := .fetch, disk := { serial := some 5, track := some t, live := true } } }

theorem witness_WriteCompletionJudgesTheWrite_seek :
    (seeking turning 3).cs.disk.track = some 3
    ∧ (seeking (moving { kind := .recalibrate none, ends := 9 }) 3).dp.motion ≠ none
    ∧ (seeking turning 0).dp.motion = none ∧ (seeking turning 0).dp.wgate = false
    ∧ (seeking turning 0).dp.cylinder = some 0 ∧ (seeking turning 0).dp.head = decide (0 % 2 = 1)
    ∧ (seeking turning 1).dp.head ≠ decide (1 % 2 = 1) ∧ (0 : Nat) ≠ 3 / 2
    ∧ (seeking { turning with spindle := { qualified := true } } 0).toWrite.cs.phase = some .armed
    ∧ (seeking turning 0).toWrite.cs.phase = some .requalify
    ∧ (seeking turning 1).toWrite.dp.motion.map (·.settling) = some true
    ∧ (seeking turning 3).toWrite.dp.step = true ∧ (seeking turning 3).toWrite.dp.dir = true
    ∧ (seeking { turning with cylinder := none } 3).dp.trk0 = false
    ∧ (seeking { turning with cylinder := none } 3).toWrite.dp.motion.map (·.kind) = some (.recalibrate (some (1, true)))
    ∧ (seeking { turning with cylinder := none, trk0 := true } 3).toWrite.dp.motion.map (·.kind) = some (.seek 1 true)
    ∧ (seeking { turning with cylinder := none, trk0 := true } 0).toWrite.cs.phase = some .requalify := by decide +kernel

theorem witness_SlotGrantBeginsTheMasterRead_sequencer :
    let read := masterRead .searching
    let restore := { read with ss := { read.ss with state := .serve, restoring := some 1 } }
    let reserved := { source .release with ss := { state := .release, reserve := some ⟨0, .good, .firstPass⟩ } }
    read.jc.record = some sourceJob ∧ read.ss.abandon = none ∧ read.ss.reserve = none
    ∧ (read.readFailed .masterUnreadable).ss.abandon = some .masterUnreadable
    ∧ (read.readFailed .masterUnreadable).lc.queue = [wait (.jobAbandon .masterUnreadable)]
    ∧ ((restore.readFailed .masterUnreadable).lc.queue.map (·.key)) = [.release 1 .restore]
    ∧ reserved.ss.reserve ≠ none ∧ (reserved.sourceAbandon .masterRemoved).ss.reserve = none
    ∧ (queued ((wants 7) ++ [wait .jobStop]) read).lc.queue.length = 8
    ∧ (State.enterAbandon .operator (queued ((wants 7) ++ [wait .jobStop]) read)).jc.abandonDue = [.operator]
    ∧ (withStore (holding 63 0 .cache) (source .read)).store.drivePinned = none
    ∧ (State.releaseTrack 0 (withStore (holding 63 0 .cache) (source .read))).store.drivePinned = some 63
    ∧ (source .read).ss.firstTrack < sourceJob.tracks ∧ restore.masterRemoved.ss.abandon = some .masterRemoved
    ∧ restore.masterRemoved.lc.has (.release 1 .restore) = false
    ∧ ({ restore with ss := { restore.ss with firstTrack := 2 } }).masterRemoved.lc.has (.release 1 .restore) = true := by
  decide +kernel

theorem witness_BuiltTrackHasItsLengthAndChecks_stream :
    let held := withStore ((holding 63 0 .home).takeDrivePin 63) (fetching job)
    let streams (g : Bool) (now : Nat) := { fetching formatJob with
      now := now, tb := some ⟨0⟩, dp := { turning with wgate := g } }
    held.jc.record = some job ∧ held.cs.disk.live = true ∧ held.cs.disk.track = some 0 ∧ held.store.drivePinned = some 63
    ∧ member.tb = none ∧ (streams false 0).wdata = none ∧ (streams true 0).wdata = some { value := small.fill }
    ∧ (streams true 0).buildPosition = some (.gapI, 0, 0)
    ∧ (streams true 200000).wdata = some { value := small.fill } ∧ 0 < small.sectors
    ∧ small.buildPosition (small.gapI - 1) = (.gapI, 0, small.gapI - 1)
    ∧ small.buildPosition small.gapI = (.idRecord, 0, 0)
    ∧ small.buildPosition (small.gapI + small.sectors * (small.sync + 8 + small.gap2 + small.sync + 4 + 128 + small.gap3))
      = (.gap4, 2, 0) := by decide +kernel

/-- The job before any serial has been heard, opened by station 0 or 1. -/
def unheard (opener : StationId) : JobRecord := { job with opener := opener, base := 0, high := 4294967295, noneHeard := true }

theorem witness_ClaimIsAppliedInItsSteps_noneHeard :
    (claimRx 1 0 4294967295).body.length = 8 ∧ (unheard 1).noneHeard = true ∧ (unheard 1).base ≤ 0
    ∧ beAt (claimRx 1 0 4294967295).body 0 4 = 0 ∧ beAt (claimRx 1 0 4294967295).body 4 4 = 4294967295
    ∧ (after (.claim (claimRx 1 0 4294967295)) (withJob (unheard 1) idle)).account
      = some { (unheard 1).account with heard := 1, high := 0, noneHeard := false, claims := [⟨0, 1⟩] }
    ∧ (after (.tally (tallyRx 1 .accepted (some 7))) (withJob (unheard 1) idle)).jc.record.map (·.noneHeard) = some false := by
  decide +kernel

theorem witness_JobCloseAndAbandonEndTheJob_noneHeard :
    (unheard 0).opener = idle.station ∧ (unheard 0).noneHeard = true
    ∧ (after (.jobAbandon (rx 0 [1, 1])) (withJob (unheard 0) idle)).jc.nextBase = 0
    ∧ (after .restart (withJob (unheard 0) idle)).jc.nextBase = 0
    ∧ (after (.jobAbandon (rx 1 [1, 6])) { member with pc := { sequence := some (.operator, 0) } }).pc.sequence
      = some (.sourceLost, 0) := by decide +kernel

theorem test_removed_fill_bytes : (after .restart filling).store.mem = filling.store.mem := by decide +kernel

theorem test_six_need_entries :
    let s := { needing 7 with du := { need := [⟨1, 1, false, .queued, none⟩, ⟨2, 1, false, .queued, none⟩,
      ⟨3, 1, false, .queued, none⟩, ⟨4, 1, false, .queued, none⟩, ⟨5, 1, false, .queued, none⟩] } }
    (s.addNeed 0 0x1000).du.need.length = 6 := by decide +kernel

/-! ### Hypotheses of the clauses on departures, slot grants, failed recalibrates and what a job's end takes with it -/

/-- A MEMBER whose CLAIM waits in the queue while its disk, pulled in CLAIM, waits for it. -/
def pulledClaim : State := queued [wait (.claim 5 4)]
  { member with cs := { state := .tally, pulled := true, disk := { first := some .pulled } } }

theorem witness_StopPressesStopPauseOrAbandon_pulled :
    pulledClaim.boot = .ready ∧ pulledClaim.jc.record = some job ∧ job.opener ≠ pulledClaim.station ∧ job.role = .member
    ∧ pulledClaim.lc.waiting .claim = true ∧ pulledClaim.cs.state = .tally ∧ pulledClaim.cs.pulled = true
    ∧ pulledClaim.cs.outcome = none
    ∧ (after .stopBriefPress pulledClaim).cs.state = .empty ∧ (after .stopBriefPress pulledClaim).lc.queue = []
    ∧ (after .stopBriefPress pulledClaim).pc.history = [⟨.pulled, none, some .pulled, 0, 0, none⟩] := by decide +kernel

theorem witness_ArbitrationLossKeepsTheFrame_pulled :
    let last := { pulledClaim with jc := { record := some { job with high := 100 } } }
    last.lc.waiting .claim = true ∧ last.claimConditions = false ∧ last.cs.state = .tally ∧ last.cs.pulled = true
    ∧ last.cs.outcome = none ∧ last.claimRefill.cs.state = .empty
    ∧ (cycle .fetch last).cs.state ≠ .claim ∧ (cycle .fetch last).cs.state ≠ .tally := by decide +kernel

theorem witness_RestartClearsKeepsAndEndsTheDisk_counters :
    let s := { writing .writing member with lc := { counters := { badFrames := 3, rejected := 7 } } }
    s.cs.state.busy = true ∧ s.cs.pulled = false ∧ (after .restart s).lc.counters = { badFrames := 3, rejected := 8 }
    ∧ pulledClaim.cs.state.busy = true ∧ member.cs.state.busy = false
    ∧ (after .restart pulledClaim).lc.counters = pulledClaim.lc.counters
    ∧ (List.replicate 8 (⟨.accepted, none, none, 0, 0, none⟩ : HistoryEntry)).length = 8 := by decide +kernel

/-- The SOURCE with a master in the drive, a RELEASE held in reserve and an abandon called for. -/
def reserving : State :=
  { withMaster (source .release) with ss := { state := .release, reserve := some ⟨0, .good, .firstPass⟩ } }

theorem witness_JobCloseAndAbandonEndTheJob_reserve :
    sourceJob.role = .source ∧ reserving.cs.state.busy = false ∧ reserving.dp.diskin = true
    ∧ (after (.jobAbandon (rx 1 [1, 1])) reserving).ss = { state := .ending }
    ∧ (after .queuePlaceFreeing (withJob job (after (.jobAbandon (rx 1 [1, 1])) reserving))).lc.queue = [] := by
  decide +kernel

theorem witness_TallyWithoutSerialWithdrawsTheEntry_bad :
    parseTally (tallyRx 2 .rejected none).body = some ⟨.rejected, none, none, 0, 2⟩ ∧ inMask job.roster 2 = false
    ∧ parseTally (tallyRx 1 .accepted none).body = some ⟨.accepted, none, none, 0, 2⟩
    ∧ parseTally (tallyRx 1 .pulled none).body = some ⟨.pulled, none, none, 0, 2⟩
    ∧ (after (.tally (tallyRx 1 .accepted none)) (withJob claimed idle)).lc.counters.badFrames = 1 := by decide +kernel

theorem witness_ReleaseSettlesTheFill_repair :
    let s := withJob { job with repair := [0, 1] } filling
    s.jc.record = some { job with repair := [0, 1] } ∧ s.store.fillOf 1 = some 63 ∧ 1 ∈ s.store.allowance
    ∧ (s.settleFill (fillBody [1, 2])).jc.record = some { job with repair := [0] }
    ∧ ¬ 1 ∈ { s.store with allowance := [] }.allowance := by decide +kernel

theorem witness_CompletionAndSettleLeaveTheRest_return :
    (heldOff []).lc.view.isSome = true ∧ idle.lc.view = none ∧ idle.closeConditions = false
    ∧ { withJob { sourceJob with state := .draining } (source .serve) with station := 1 }.closeConditions = true
    ∧ (State.afterCompletion { idle with lc := { lossCount := 6, lossFor := some (.want 1) } } (heldOff [])).lc.has .holdOff = true
    ∧ (State.afterCompletion (cycle .claim member) member).lc.queue = [wait (.claim 5 4)] := by decide +kernel

/-- A recalibrate whose 90th step time ends at cylinder unknown. -/
def overrunning (goal : Option (Nat × Bool)) : Drive :=
  { turning with cylinder := none, motion := some { kind := .recalibrate goal, pulses := 90, ends := 9 } }

theorem witness_HeadMotionsBeginStepAndSettle_recalibrates :
    ({ turning with cylinder := none } : Drive).cylinder = none ∧ ({ turning with trk0 := true } : Drive).trk0 = true
    ∧ (overrunning none).motion = some { kind := .recalibrate none, pulses := 90, ends := 9 } ∧ 90 ≤ 90
    ∧ sourceJob.role = .source ∧ (source .home).ss.state = .home ∧ observerJob.role = .observer
    ∧ (after (.stepTimeEnd false) (withDrive (overrunning none) (source .home))).ss.abandon = some .masterUnreadable
    ∧ (masterRead .seeking).ss.read.map (·.phase) = some .seeking
    ∧ (after (.stepTimeEnd false) (withDrive (overrunning (some (1, false))) (masterRead .seeking))).ss.read = none
    ∧ (after (.stepTimeEnd false) (withDrive (overrunning (some (1, false))) (writing .seeking member))).cs.disk.first
      = some .noTrack0
    ∧ (after (.headSettleEnd true) (withDrive (moving { kind := .recalibrate (some (0, false)), settling := true, ends := 9 })
      (writing .seeking member))).cs.phase = some .requalify
    ∧ (after (.headSettleEnd true) (withDrive (moving { kind := .recalibrate (some (0, false)), settling := true, ends := 9 })
      (masterRead .seeking))).ss.read.map (·.phase) = some .requalify
    ∧ (after (.headSettleEnd true) (withDrive (moving { kind := .recalibrate (some (0, true)), settling := true, ends := 9 })
      (masterRead .seeking))).dp.motion = some { kind := .seek 0 true, settling := true, ends := 15009 } := by decide +kernel

/-- A master read of track t that waits for a slot, in a job with two heads. -/
def waitingRead (t : Nat) (dp : Drive) : State :=
  withDrive dp (withJob { sourceJob with recipe := { small with heads := 2 } } { idle with
    station := 1, ss := { state := .read, present := true, read := some { track := t } } })

theorem witness_SlotGrantBeginsTheMasterRead_seeks :
    (waitingRead 1 turning).ss.read = some { track := 1 } ∧ (waitingRead 1 turning).held 1 = false
    ∧ ((waitingRead 1 turning).store.entry 1).presence = .absent ∧ (waitingRead 1 turning).store.allocation 1 = some 0
    ∧ (turning.requestSeek small 0 0 true).2 = false ∧ (turning.requestSeek small 0 0 false).2 = true
    ∧ (after .masterReadSlotGrant (waitingRead 1 turning)).dp.motion.map (·.settling) = some true
    ∧ (after .masterReadSlotGrant (waitingRead 0 turning)).ss.read.map (·.phase) = some .requalify
    ∧ (after .masterReadSlotGrant (waitingRead 0 { turning with spindle := { qualified := true } })).ss.read.map (·.phase)
      = some .searching
    ∧ (after .masterReadSlotGrant (waitingRead 0 { turning with cylinder := none })).dp.motion.map (·.kind)
      = some (.recalibrate (some (0, false)))
    ∧ (after .masterReadSlotGrant (waitingRead 0 (moving { kind := .recalibrate none, ends := 9 }))).ss.read.map (·.phase)
      = some .seeking := by decide +kernel

/-- A CALL FIRST frame. -/
def callRx (i : StationId) : Rx := rx i [1, 1, 1, 0, 0]

theorem witness_CallFirstDepartsARosterStation_steps :
    (parseCall (callRx 1).body).map (·.first) = some true ∧ inMask job.roster 1 = true ∧ inMask job.departed 1 = false
    ∧ ({ job with departed := addMask job.departed 1 }.closing = some 0 ∧ job.closing ≠ some 0)
    ∧ ({ job with opener := 0, departed := addMask job.departed 1 }.closing = some 0
      ∧ { job with opener := 0 }.closing = some 0 ∧ (1 : StationId) ≠ 0)
    ∧ { job with departed := addMask job.departed 1 }.remaining ≠ []
    ∧ { job with roster := 2, departed := addMask job.departed 1 }.remaining = []
    ∧ (after (.callFirst (callRx 1)) member).lc.queue.map (·.body.key) = [.jobAbandon, .call false]
    ∧ (after (.callFirst (callRx 0)) member).departed = some 1 ∧ (after (.callFirst (callRx 0)) member).lc.queue = [] := by
  decide +kernel

theorem witness_HomeRepairRebuildsTheHolding_order :
    let promoted := { holding 63 0 .cache with cache := [5, 63] }
    (withStore promoted (withJob { job with departed := 2 } idle)).homeRepair.store.cache = [5]
    ∧ (withStore (holding 63 1 .home) (withJob { job with r := 1, roster := 7, departed := 0 } idle)).homeRepair.store.cache
      = [63] := by decide +kernel

theorem witness_QueryIsAnsweredByItsTarget_part :
    let q : List Byte := [0, 7, 0, 2, 0, 3, 1]
    let s := { idle with lc := { counters := { badFrames := 3, sendFaults := 4, holdOffs := 5 } } }
    parseQuery q = some ⟨0, 7, 2, 3, true⟩ ∧ (s.answer ⟨0, 7, 2, 3, true⟩).1 = .ok
    ∧ (after (.query (rx 9 q)) s).lc.counters = { holdOffs := 5 } := by decide +kernel

theorem witness_JobOpenCreatesTheRecord_overtaken :
    let s := queued [wait (.jobOpen terms)] idle
    let f := openRx 1 { terms with r := 1, base := 100 }
    let t := after (.jobOpen f) s
    f.sender ≠ s.station ∧ s.lc.waiting .jobOpen = true ∧ (∀ g ∈ s.lc.queue, g.key = .jobOpen → g.started = false)
    ∧ t.pc.refusal = some .rigBusy ∧ t.pc.flash = some 3000000 ∧ t.lc.has .jobOpen = false := by decide +kernel

theorem witness_JobStopDrainsTheJob_close :
    let r := { job with opener := 0 }
    let s := withJob r (queued (wants 7) idle)
    let own := withJob r (queued (wait .jobStop :: wants 7) idle)
    let source := withJob { r with role := .source } idle
    r.state = .opened ∧ r.claims = [] ∧ r.closing = some s.station ∧ r.role ≠ .source ∧ s.lc.queue.length < 8
    ∧ (after (.jobStop (rx 1 [0, 1])) s).lc.has .jobClose = true
    ∧ own.lc.has .jobStop = true ∧ own.lc.queue.length = 8 ∧ (after (.jobStop (rx 0 [0, 1])) own).lc.has .jobClose = true
    ∧ source.ss.restoring = none ∧ (after (.jobStop (rx 1 [0, 1])) source).lc.has .jobClose = true := by decide +kernel

/-- A closing station in OPEN whose job wants one copy, claimed by a station. -/
def oneCopy (i : StationId) : JobRecord := { job with opener := 0, wanted := 1, heard := 1, claims := [⟨5, i⟩] }

theorem witness_TallySettlesItsSerial_close :
    let last := withJob lastClaim (queued (wants 7) idle)
    let own := withJob (oneCopy 0) (cycle .tally (queued (wait (.tally .accepted (some 5) none 0 2) :: wants 7) idle))
    lastClaim.tallyPasses 1 ⟨.pulled, some 5, none, 0, 2⟩ = true ∧ last.lc.queue.length < 8 ∧ lastClaim.claims ≠ []
    ∧ (∀ c ∈ lastClaim.claims.eraseP (fun c => decide (c.station = 1)), c.serial = 5 → c.station ≠ last.station)
    ∧ (after (.tally (tallyRx 1 .pulled (some 5))) last).lc.has .jobClose = true
    ∧ (oneCopy 0).state = .opened ∧ (oneCopy 0).closing = some own.station ∧ (oneCopy 0).tallyPasses 0 ⟨.accepted, some 5, none, 0, 2⟩ = true
    ∧ own.lc.has .tally = true ∧ own.lc.queue.length = 8
    ∧ (after (.tally (tallyRx 0 .accepted (some 5))) own).jobState = some .draining
    ∧ (after (.tally (tallyRx 0 .accepted (some 5))) own).lc.has .jobClose = true
    ∧ (withJob { lastClaim with role := .source } idle).ss.restoring = none := by decide +kernel

theorem witness_TallySettlesItsSerial_start :
    let s := withJob (oneCopy 1) (cycle .standby idle)
    let t := after (.tally (tallyRx 1 .rejected none)) s
    (oneCopy 1).tallyPasses 1 ⟨.rejected, none, none, 0, 2⟩ = true ∧ s.cs.state = .standby ∧ s.dp.wprot = false
    ∧ (oneCopy 1).role = .member ∧ s.cs.paused = false ∧ t.jobState = some .opened
    ∧ t.cs.state = .spinup ∧ t.dp.motor = true ∧ t.dp.select = true ∧ t.dp.lock = true
    ∧ (after (.tally (tallyRx 1 .rejected none)) (withMaster s)).cs.state = .out
    ∧ (after (.tally (tallyRx 1 .accepted (some 5))) s).cs = s.cs := by decide +kernel

theorem witness_OwnClaimAndTallyMoveTheDisk_taken :
    let s := withJob claimed (writing .writing (queued (wants 7) idle))
    let pulled := withJob claimed { idle with cs := { state := .tally, pulled := true } }
    let f := tallyRx 1 .accepted (some 6)
    parseTally f.body = some ⟨.accepted, some 6, none, 0, 2⟩ ∧ f.sender ≠ s.station ∧ inMask claimed.roster 1 = true
    ∧ claimed.base ≤ 6 ∧ 6 ≤ claimed.limit ∧ ¬ ⟨6, 1⟩ ∈ claimed.claims
    ∧ (claimed.claims.eraseP fun c => decide (c.station = 1)).find? (fun c => decide (c.serial = 6)) = some ⟨6, 0⟩
    ∧ (0 : StationId) = s.station ∧ s.lc.has .tally = false ∧ s.lc.queue.length < 8 ∧ s.cs.state = .write
    ∧ wait (.tally .rejected none (some .serialConflict) 0 0) ∈ (after (.tally f) s).lc.queue
    ∧ (after (.tally f) s).cs.disk.serial = none ∧ (after (.tally f) s).dp.wgate = false
    ∧ pulled.cs.outcome = none ∧ (after (.tally f) pulled).cs.outcome = some .rejected
    ∧ (after (.tally f) pulled).lc.has .tally = true := by decide +kernel

theorem witness_ReleaseIsAppliedInItsSteps_mark :
    let last := withJob { job with mark := 1, lastRun := true } idle
    let b : ReleaseBody := { fillBody [1, 2] with reason := .answer }
    (1 : Nat) + 1 = job.tracks ∧ b.status = .good ∧ b.reason ≠ .firstPass ∧ b.track = 1 ∧ job.kind = .copy
    ∧ (last.markRelease b).mark = some 2 ∧ (member.markRelease b).mark = some 0 ∧ job.lastRun = false
    ∧ (member.markRelease { b with track := 2, reason := .firstPass }).mark = some 0 ∧ job.tracks ≤ 2
    ∧ (last.markRelease { b with track := 0 }).mark = some 1 := by decide +kernel

/-- The overrun of the recipes chapter, by the lengths of the rules (log 61). -/
theorem test_overrun_position :
    Recipe.builtIn.bytesIn 186000 = 5812 ∧ Recipe.builtIn.reachesGap4 186000 = false
    ∧ Recipe.builtIn.buildPosition 5812 = (.dataRecord, 8, 490)
    ∧ Recipe.builtIn.buildPosition 5850 = (.gap3, 8, 0) := by decide +kernel

/-! ### One step of each command on a small state -/

theorem test_powerOn : after (.powerOn 7 true false true) (source .serve)
    = { State.reset with station := 7, dp := { diskin := true, trk0 := true } } := by decide +kernel

theorem test_storeClear : (after (.storeClearCompletion false) State.reset).boot = .loading := by decide +kernel

theorem test_configurationLoad :
    let t := after (.configurationLoadCompletion [] false) { State.reset with boot := .loading, dp := { diskin := true } }
    t.boot = .ready ∧ t.lc.queue = [{ body := .call true true 0, jobId := 0 }] ∧ t.cs.state = .standby
    ∧ t.pc.directory[0] = some Recipe.builtIn := by decide +kernel

theorem test_restart : (after .restart (writing .writing (withDrive turning member))).cs.state = .out
    ∧ (after .restart (source .serve)).jc.nextBase = 5 := by decide +kernel

theorem test_loadPress : (after (.loadPress 0) (loadable small)).lc.queue
    = [{ body := .jobOpen ⟨.format, 1, 2, 0, 1, 100000, small⟩, jobId := 0 }]
    ∧ (after (.loadPress 1) (loadable small)).pc.refusal = some .recipeInvalid := by decide +kernel

theorem test_stopBrief : (after .stopBriefPress (source .serve)).lc.queue = [wait .jobStop]
    ∧ (after .stopBriefPress member).cs.paused = true := by decide +kernel

theorem test_stopHeld : (after .stopHeld member).lc.queue = [wait (.jobAbandon .operator)] := by decide +kernel

theorem test_flashEnd : (after .refusalFlashEnd { idle with pc := { flash := some 9 } }).pc.flash = none := by decide +kernel

theorem test_sequenceEnd :
    (after .abandonSequenceEnd { idle with pc := { sequence := some (.operator, 0) } }).now = 1500000 := by decide +kernel

theorem test_arbitrationStart : (after .arbitrationStart twoWait).lc.queue
    = [wait (.call true true 0), onAir (.want 1 1 false)] := by decide +kernel

theorem test_joinStart_heldOff : after .joinStart (heldOff (wants 2)) = heldOff (wants 2) := by decide +kernel

theorem test_arbitrationLoss : (after .arbitrationLoss (queued [onAir (.want 1 1 false)] idle)).lc.lossCount = 1
    ∧ (after .arbitrationLoss (queued [onAir (.want 1 1 false)] idle)).lc.queue = [wait (.want 1 1 false)] := by
  decide +kernel

theorem test_sendFault :
    (after .sendFault (queued [{ onAir (.jobOpen terms) with faults := 3 }] idle)).lc.queue = []
    ∧ (after .sendFault (queued [onAir .holdOff] idle)).lc.counters.sendFaults = 1 := by decide +kernel

theorem test_releaseCutOff :
    let t := after (.releaseCutOff []) (sendingRelease member .answer .answer)
    t.lc.queue = [] ∧ t.lc.counters.damaged = 1 ∧ t.store.slot 63 = {} ∧ (t.store.entry 0).presence = .absent := by
  decide +kernel

theorem test_frameBreak : (after (.frameBreak 3 [] true) filling).lc.counters.badFrames = 1
    ∧ (after (.frameBreak 3 [] true) filling).store.slot 63 = {}
    ∧ Memory.readBytes (after (.frameBreak 5 ([0x51, 0x10, 0, 1, 11, 1, 1, 1, 0, 2, 0, 0, 0, 0] ++ [2, 9, 8]) true) filling).store.mem
      (63 * 12288 + 127) 4 = [0, 9, 8, 0] := by decide +kernel

theorem test_queuePlaceFreeing :
    (after .queuePlaceFreeing { member with cs := { state := .tally, outcome := some .rejected, disk := { conflict := true } } }).lc.queue
    = [wait (.tally .rejected none none 0 0)] := by decide +kernel

theorem test_holdOff : (after (.holdOff (rx 3 [])) idle).lc.view = some ⟨3, 20000⟩ := by decide +kernel

theorem test_holdOffTimer : (after .holdOffTimerExpiry (heldOff [])).lc.view = none
    ∧ (after .holdOffTimerExpiry (heldOff [])).now = 20000 := by decide +kernel

theorem test_jobOpen :
    let t := after (.jobOpen (openRx 1 terms)) (cycle .standby idle)
    t.jc.record.map (fun r => (r.role, r.high, r.jobId)) = some (.member, 0, 0x1000) ∧ t.cs.state = .spinup
    ∧ t.store.allowance = [0, 1] := by decide +kernel

theorem test_jobStop : (after (.jobStop (rx 1 [1, 1])) member).jobState = some .draining := by decide +kernel

theorem test_jobClose :
    let t := after (.jobClose (rx 0 (idle.bodyBytes (.jobClose 0 0 0 9)))) (source .serve)
    t.jc.record = none ∧ t.jc.nextBase = 10
    ∧ (after (.jobClose (rx 0 (idle.bodyBytes (.jobClose 0 0 0 9)))) (cycle .standby (withMaster (source .serve)))).amber = .off := by
  decide +kernel

theorem test_jobAbandon :
    let t := after (.jobAbandon (rx 1 [1, 6])) (cycle .fetch member)
    t.jc.record = none ∧ t.cs.state = .out ∧ t.pc.sequence = some (.sourceLost, 0) := by decide +kernel

theorem test_claim_own :
    let t := after (.claim (claimRx 0 5 4)) (cycle .claim member)
    t.cs.state = .fetch ∧ t.cs.disk.serial = some 5 ∧ t.account = some { job.account with heard := 1, high := 5, claims := [⟨5, 0⟩] }
    ∧ (after (.claim (claimRx 0 5 4)) (cycle .claim (withJob { claimed with claims := [⟨5, 1⟩] } idle))).cs.disk.serial = some 5 := by
  decide +kernel

theorem test_claim_collision : (after (.claim (claimRx 1 6 6)) (withJob claimed idle)).account
    = some { claimed.account with heard := 3, void := 1, withdrawn := 1, high := 6, claims := [⟨6, 0⟩] } := by decide +kernel

theorem test_tally : (after (.tally (tallyRx 1 .accepted (some 5))) (withJob claimed idle)).account
    = some { claimed.account with accepted := 1, high := 5, claims := [⟨6, 0⟩] } := by decide +kernel

theorem test_want : (after (.want (rx 1 [0, 1, 0])) (withStore (holding 63 0 .home) member)).lc.queue
    = [wait (.release 0 .good .answer .answer 0 2 0)] := by decide +kernel

theorem test_releaseBegin :
    let t := after (.releaseBegin (head 1)) wanting
    t.store.slot 0 = { state := .filling, track := some 1, check := 7 } ∧ t.store.fills = [0] := by decide +kernel

/-- A RELEASE body of track 1 in fill bytes. -/
def releaseBytes : List Byte :=
  [1, 1, 1, 0, 2] ++ beBytes 4 (crc32 (List.replicate 256 0xE5)).toNat
  ++ [1] ++ List.replicate 128 0xE5 ++ [2] ++ List.replicate 128 0xE5

theorem test_release :
    let t := after (.release (rx 1 releaseBytes)) filling
    (t.store.entry 1).presence = .held ∧ (t.store.slot 63).state = .home ∧ t.store.reservation = 1 ∧ t.mark = some 2 := by
  decide +kernel

theorem test_callFirst :
    let t := after (.callFirst (rx 1 [1, 1, 1, 0, 0])) (withJob claimed idle)
    t.departed = some 2 ∧ t.account = some { claimed.account with void := 1, claims := [⟨6, 0⟩] }
    ∧ t.lc.queue.any (fun f => decide (f.key = .call false)) = true := by decide +kernel

theorem test_callAnswer : (after (.callAnswer (rx 9 [2, 1, 1, 0x10, 0])) idle).lc.presence[9] = ⟨true, true, 1, 0x1000⟩ := by
  decide +kernel

theorem test_query : (after (.query (rx 9 (queryBody 0 7 4 true))) { idle with lc := { counters := { badFrames := 3 } } }).lc.queue
    = [{ body := .reply 7 0 .ok [0, 0, 0, 3], jobId := 0 }]
    ∧ (after (.query (rx 9 (queryBody 0 7 4 true))) { idle with lc := { counters := { badFrames := 3 } } }).lc.counters = {} := by
  decide +kernel

theorem test_reply : after (.reply (rx 9 [7, 0, 0, 1])) idle = idle := by decide +kernel

theorem test_wantDeadline :
    (after (.wantDeadlineExpiry 1) (wantingEntry ⟨1, 3, false, .waiting, some 40⟩ true)).lc.queue = [wait (.want 1 3 true)] := by
  decide +kernel

theorem test_lastTrackTimeout :
    (after .lastTrackTimeout (withJob { job with mark := 1 } idle)).jc.record.map (·.lastRun) = some true := by decide +kernel

theorem test_indexEdge :
    (after (.indexEdge 204000 false) (withDrive { turning with spindle := { lastEdge := some 0, count := 2 } } member)).dp.spindle
    = ⟨some 204000, true, 3, true, some 204000, some 204000⟩ := by decide +kernel

theorem test_indexEdge_arms :
    let t := after (.indexEdge 7 false) (writing .armed (withDrive turning (withJob formatJob idle)))
    t.dp.wgate = true ∧ t.tb = some ⟨7⟩ ∧ t.wdata = some ⟨0xD9, false⟩ := by decide +kernel

theorem test_writeCompletion :
    let dp := { turning with wgate := true, spindle := { inTol := true, period := some 200000 } }
    let t := after (.writeCompletion []) (writing .completing (withDrive dp (withJob formatJob idle)))
    t.cs.state = .verify ∧ t.dp.wgate = false ∧ t.dp.counter = some 2 := by decide +kernel

theorem test_counterExpiry :
    let t := after (.revolutionCounterExpiry []) (verifying (withDrive { turning with counter := some 0 } (withJob formatJob idle)))
    t.cs.state = .write ∧ t.cs.disk.first = some .verifyMissing ∧ t.cs.disk.attempts = 1 := by decide +kernel

theorem test_idRecord : (after (.idRecord 0 0 2 0 (small.idCheck [0, 0, 2, 0])) (verifying member)).vu.map (·.reading)
    = some (some 2) := by decide +kernel

theorem test_dataRecord :
    let v := (verifying (withJob formatJob idle)).vu.map fun v => { v with reading := some 2 }
    (after (.dataRecord fillData (small.dataCheck fillData) []) { verifying (withJob formatJob idle) with vu := v }).vu.map (·.entries)
    = some [{ id := 1 }, { id := 2, outcome := .ok }]
    ∧ (after (.dataRecord fillData (small.dataCheck fillData) []) { verifying (withJob formatJob idle) with vu := v, now := 10000 }).vu.map
      (·.entries) = some [{ id := 1 }, { id := 2 }] := by decide +kernel

theorem test_dataRecord_master :
    let ss := { (masterRead .searching).ss with read := some { track := 1, slot := some 5, phase := .searching, unsettled := [1, 2], reading := some 2 } }
    let t := after (.dataRecord fillData (small.dataCheck fillData) []) { masterRead .searching with ss := ss }
    t.store.sectorData small 5 2 = fillData ∧ t.ss.read.map (·.unsettled) = some [1] := by decide +kernel

theorem test_dataMarkerReach :
    let v := (verifying member).vu.map fun v => { v with reading := some 2 }
    (after .dataMarkerReachExpiry { verifying member with vu := v }).vu.map (·.reading) = some none := by decide +kernel

theorem test_markerOfAnotherValue :
    let v := (verifying member).vu.map fun v => { v with entries := [{ id := 2, outcome := .dataCheck }], reading := some 2 }
    (after .markerOfAnotherValue { verifying member with vu := v }).vu.map (·.entries) = some [{ id := 2 }] := by decide +kernel

theorem test_noIndex :
    let t := after .noIndex (verifying (withDrive { turning with spindle := { watch := some 0, qualified := true } } (withJob formatJob idle)))
    t.dp.spindle.qualified = false ∧ t.cs.disk.first = some .noIndex ∧ t.now = 400000 := by decide +kernel

theorem test_qualifyLimit :
    (after .qualifyLimitExpiry (cycle .spinup (withDrive { turning with qualify := some ⟨5, true⟩ } member))).cs.disk.first
    = some .speed := by decide +kernel

theorem test_stepTimeEnd :
    (after (.stepTimeEnd false) (withDrive (moving { kind := .seek 3 true, pulses := 1, toGo := 0, ends := 6000 }) member)).dp
    = { turning with head := true, motion := some { kind := .seek 3 true, pulses := 1, settling := true, ends := 21000 } } := by
  decide +kernel

theorem test_headSettleEnd :
    let t := after (.headSettleEnd true) (cycle .home (withDrive (moving { kind := .recalibrate none, settling := true, ends := 9 }) member))
    t.cs.state = .claim ∧ t.lc.queue = [wait (.claim 5 4)] ∧ t.dp.cylinder = some 0
    ∧ (after (.headSettleEnd true) { queued [wait (.jobClose 0 0 0 4)]
        (withDrive (moving { kind := .recalibrate none, settling := true, ends := 9 })
          (withJob { sourceJob with state := .draining } (source .home))) with du := { restores := [1] } }).lc.has .jobClose = false := by
  decide +kernel

theorem test_ejectPulseEnd : (after .ejectPulseEnd (withDrive { turning with ejectEnds := some 100000 } (source .ending))).ss = {} := by
  decide +kernel

theorem test_diskinActive : (after .diskinActive member).cs.state = .spinup := by decide +kernel

theorem test_diskinInactive :
    let t := after .diskinInactive (writing .writing (withDrive { turning with diskin := true, wgate := true } member))
    t.cs.state = .tally ∧ t.lc.queue = [wait (.tally .pulled (some 5) (some .pulled) 0 0)] ∧ t.dp.wgate = false := by
  decide +kernel

theorem test_wprotChange :
    let t := after (.wprotChange true) (writing .writing (withDrive { turning with wgate := true } member))
    t.dp.wgate = false ∧ t.cs.disk.first = some .protected_ := by decide +kernel

theorem test_slotGrant :
    let t := after .masterReadSlotGrant (withDrive { turning with cylinder := some 0 } { masterRead .slotWait with
      ss := { state := .read, present := true, read := some { track := 1 } } })
    (t.store.slot 0).track = some 1 ∧ t.dp.dir = true ∧ t.ss.read.map (·.phase) = some .seeking := by decide +kernel

end Sys2Proof.Tests
end

section
/-! SUPPORT. Frames of classes 1 to 5 against the job record: what the completion of each starts from. -/

namespace Sys2Proof.Machine

/-! ### A frame of the job, or with no job (R159) -/

/-- A frame of the job held acts on the state that its completion leaves. -/
theorem State.completed_own {α : Type} {raw : List Byte} {body : Option α} {k : α → FrameKey} {i : StationId}
    {j : JobId} {note : State → State} {apply : α → State → State} {s : State} {b : α} {r : JobRecord}
    (h : s.receives) (hb : body = some b) (hr : (s.heard (k b) i).jc.record = some r) (hj : j = r.jobId) :
    s.completed raw body (fun b => some (k b)) i (fun b t => t.inJob j note (apply b))
      = (apply b (s.heard (k b) i)).afterCompletion s := by
  rw [State.completed_heard _ _ _ _ _ _ _ h hb (k b) rfl]
  simp [State.inJob, hr, hj]

/-- A frame of a job with no record held acts on the note alone. -/
theorem State.completed_noted {α : Type} {raw : List Byte} {body : Option α} {k : α → FrameKey} {i : StationId}
    {j : JobId} {note : State → State} {apply : α → State → State → State} {s : State} {b : α}
    (h : s.receives) (hb : body = some b) (hr : (s.heard (k b) i).jc.record = none) :
    s.completed raw body (fun b => some (k b)) i (fun b t => t.inJob j note (apply b t))
      = (note (s.heard (k b) i)).afterCompletion s := by
  rw [State.completed_heard _ _ _ _ _ _ _ h hb (k b) rfl]
  simp [State.inJob, hr]

/-- Unless the frame is a RELEASE, its completion leaves the record. -/
theorem State.heard_record {k : FrameKey} (i : StationId) {s : State} {o : Option JobRecord}
    (hk : ∀ t r, k ≠ .release t r) (hr : s.jc.record = o) : (s.heard k i).jc.record = o := by
  rw [(s.heard_plain k i hk).1, hr]

/-! ### Nothing closes without a record (R37) -/

/-- A slot freed as closing leaves the Job Controller where no record is held. -/
theorem State.freeIfClosing_noJob {s : State} (i : Nat) (h : s.jc.record = none) :
    (s.freeIfClosing i).jc = s.jc := by
  simp only [State.freeIfClosing]
  split
  · split <;> simp [State.rejoinRepair, h]; rw [← h]
  · rfl

theorem State.releaseLinkPin_noJob {s : State} (h : s.jc.record = none) : s.releaseLinkPin.jc = s.jc := by
  unfold State.releaseLinkPin
  split
  · exact State.freeIfClosing_noJob _ h
  · rfl

/-- A completion leaves the Job Controller where no record is held. -/
theorem State.heard_noJob (k : FrameKey) (i : StationId) {s : State} (h : s.jc.record = none) :
    (s.heard k i).jc = s.jc := by
  simp only [State.heard, State.ownLeaves]
  split
  · cases k
    case release => simpa using State.releaseLinkPin_noJob (s := s.dequeue _) (by simpa using h)
    all_goals simp
  · simp

/-- Without a record the completion of a frame is handed on for the HOLD-OFF test and the lapse of JOB CLOSE alone. -/
theorem State.afterCompletion_noJob_eq {x s : State} (h : x.jc.record = none) :
    x.afterCompletion s = (s.holdOffReturn x).closeLapse := by
  have refill : (s.holdOffReturn x).claimRefill = s.holdOffReturn x := by simp [State.claimRefill, h]
  have again : (s.holdOffReturn x).claimAgain = s.holdOffReturn x := by simp [State.claimAgain, State.askClaim, h]
  have tally : (s.holdOffReturn x).enterTally = s.holdOffReturn x := by simp [State.enterTally, h]
  rw [State.afterCompletion, refill, again, tally]

theorem State.afterCompletion_noJob_tb {x s : State} (h : x.jc.record = none) : (x.afterCompletion s).tb = x.tb := by
  simp [State.afterCompletion_noJob_eq h]

end Sys2Proof.Machine
end

section
/-! PROOFS. JOB OPEN where it creates no record (R6, R8, R15), the foreign-job note and JOB STOP (R9). -/

namespace Sys2Proof.Machine

/-! ### JOB OPEN at a station that holds a record (R8) -/

/-- A JOB OPEN heard at a station that holds a record does nothing of its own. -/
theorem execJobOpen_held {f : Rx} {s : State} {r : JobRecord} (h : s.receives) (hr : s.jc.record = some r)
    (hp : (parseOpen f.body).isSome = true) :
    exec (.jobOpen f) s = .next ((s.heard .jobOpen f.sender).afterCompletion s) := by
  obtain ⟨b, hb⟩ := Option.isSome_iff_exists.mp hp
  have hh : (s.heard .jobOpen f.sender).jc.record = some r := State.heard_record _ (by simp) hr
  show Host.Outcome.next _ = _
  rw [State.completed_heard _ _ _ _ _ _ _ h hb .jobOpen rfl]
  simp [State.openHeard, hh]

/-- A LOAD press at a station that holds a record enters no frame. -/
theorem State.loadPressed_held {s : State} {r : JobRecord} (sel : Fin 8) (hb : s.boot = .ready)
    (hr : s.jc.record = some r) :
    (s.loadPressed sel).jc = s.jc ∧ (s.loadPressed sel).lc.queue = s.lc.queue := by
  simp only [State.loadPressed, hb, hr, if_true]
  split <;> simp [State.mapCopy]

/-- Settles O23. -/
theorem jobOpenIsIgnoredWhileARecordIsHeld : Obligations.JobOpenIsIgnoredWhileARecordIsHeld := by
  intro f s r h hr hp
  refine ⟨execJobOpen_held h hr hp, ?_, ?_, fun sel => ⟨_, rfl, ?_, ?_⟩⟩
  · simpa using State.heard_record f.sender (by simp) hr
  · simp [State.afterCompletion_counters]
  · exact congrArg _ (State.loadPressed_held sel h.1 hr).1
  · exact (State.loadPressed_held sel h.1 hr).2

/-! ### The foreign-job note (R6, R15) -/

/-- A body that fails one of the checks of R6 has no recipe to open with. -/
theorem openRecipe_none {i : StationId} {b : OpenBody}
    (h : inMask b.roster i = false ∨ b.r < 1 ∨ 3 < b.r ∨ b.limit < b.base ∨ b.recipe = none
      ∨ ∃ recipe, b.recipe = some recipe ∧ (recipe.valid = false ∨ recipe.serialsFit b.limit = false)) :
    openRecipe i b = none := by
  unfold openRecipe
  split
  · rename_i recipe hrec
    rw [if_neg]
    simp only [inRange, Bool.and_eq_true, decide_eq_true_eq]
    rintro ⟨⟨⟨⟨hin, hr⟩, hbase⟩, hvalid⟩, hfit⟩
    rcases h with h | h | h | h | h | ⟨recipe', hrec', h⟩
    · simp [hin] at h
    · omega
    · omega
    · omega
    · simp [h] at hrec
    · obtain rfl : recipe = recipe' := Option.some.inj (hrec.symm.trans hrec')
      rcases h with h | h
      · simp [hvalid] at h
      · simp [hfit] at h
  · rfl

/-- A JOB OPEN that fails R6 in job state NONE is discarded. -/
theorem execJobOpen_discarded {f : Rx} {b : OpenBody} {s : State} (h : s.receives) (hr : s.jc.record = none)
    (hb : parseOpen f.body = some b) (ho : openRecipe f.sender b = none) :
    exec (.jobOpen f) s = .next (((s.heard .jobOpen f.sender).discardOpen f).afterCompletion s) := by
  have hh : (s.heard .jobOpen f.sender).jc.record = none := State.heard_record _ (by simp) hr
  show Host.Outcome.next _ = _
  rw [State.completed_heard _ _ _ _ _ _ _ h hb .jobOpen rfl]
  simp [State.openHeard, hh, ho]

/-- What a completion in job state NONE keeps where the frame's own rule moves the note alone. -/
theorem State.noted_kept {x y s : State} (hr : x.jc.record = none)
    (h : ∃ note, y = { x with lc := { x.lc with foreign := note } }) :
    (y.afterCompletion s).jc = x.jc ∧ (y.afterCompletion s).store = x.store ∧ (y.afterCompletion s).du = x.du
    ∧ (y.afterCompletion s).ss = x.ss ∧ (y.afterCompletion s).cs = x.cs ∧ (y.afterCompletion s).dp = x.dp
    ∧ (y.afterCompletion s).pc = x.pc ∧ (y.afterCompletion s).lc.presence = x.lc.presence
    ∧ (y.afterCompletion s).lc.counters = x.lc.counters ∧ (y.afterCompletion s).now = x.now := by
  obtain ⟨note, rfl⟩ := h
  obtain ⟨hcs, hdp, hpc, hcount⟩ := State.afterCompletion_noJob { x with lc := { x.lc with foreign := note } } s hr
  simp [hcs, hdp, hpc, hcount]

theorem State.clearNote_eq (j : JobId) (s : State) :
    s.clearNote j = { s with lc := { s.lc with
      foreign := if s.lc.foreign = some j then none else s.lc.foreign } } := by
  unfold State.clearNote
  split <;> simp_all

/-- Without a record no check of an own RELEASE fails: there is no recipe to check by. -/
theorem State.ownCheckFails_noJob {s : State} (i : StationId) (hr : s.jc.record = none) :
    s.ownCheckFails i = false := by
  have : ∀ k, s.useFails k = false := fun k => by simp [State.useFails, State.recipe, hr]
  unfold State.ownCheckFails
  cases s.sendingSlot <;> simp [this]

/-- In job state NONE a JOB STOP, CLAIM, TALLY, WANT or RELEASE sets the note and does nothing else. -/
theorem exec_sets_note {f : Rx} {s : State} {c : Instr} (h : s.receives) (hr : s.jc.record = none)
    (hc : (c = .jobStop f ∧ (parseStop f.body).isSome = true) ∨ (c = .claim f ∧ (parseClaim f.body).isSome = true)
      ∨ (c = .tally f ∧ (parseTally f.body).isSome = true) ∨ (c = .want f ∧ (parseWant f.body).isSome = true)
      ∨ (c = .release f ∧ (parseRelease f.body).isSome = true)) :
    ∃ k, exec c s = .next (((s.heard k f.sender).setNote f.jobId).afterCompletion s) := by
  have gone (k : FrameKey) : (s.heard k f.sender).jc.record = none := by rw [State.heard_noJob k _ hr, hr]
  have calm (k : FrameKey) : (((s.heard k f.sender).setNote f.jobId).afterCompletion s).settle s
      = ((s.heard k f.sender).setNote f.jobId).afterCompletion s := State.settle_noJob _ _ (by simp [gone])
  rcases hc with ⟨rfl, hp⟩ | ⟨rfl, hp⟩ | ⟨rfl, hp⟩ | ⟨rfl, hp⟩ | ⟨rfl, hp⟩ <;>
    obtain ⟨b, hb⟩ := Option.isSome_iff_exists.mp hp
  · exact ⟨.jobStop, congrArg Host.Outcome.next (State.completed_noted h hb (gone _))⟩
  · refine ⟨.claim, ?_⟩
    rw [← calm, ← State.completed_noted (k := fun _ => .claim) (raw := [])
      (apply := fun b _ => State.claimHeard f.sender b.1 b.2) h hb (gone _)]
    rfl
  · refine ⟨.tally, ?_⟩
    rw [← calm, ← State.completed_noted (k := fun _ => .tally) (raw := [])
      (apply := fun b _ => State.tallyHeard f.sender b) h hb (gone _)]
    rfl
  · refine ⟨.want b.track, ?_⟩
    rw [← State.completed_noted (k := fun b : WantBody => .want b.track) (raw := [])
      (apply := fun b t => if f.sender = t.station then State.ownWant b else State.otherWant b) h hb (gone _)]
    rfl
  · refine ⟨.release b.track b.reason, ?_⟩
    rw [← calm, ← State.completed_noted (k := fun b : ReleaseBody => .release b.track b.reason) (raw := f.body)
      (apply := fun b _ => State.releaseHeard (decide (f.sender = s.station)) (s.lc.releaseOrigin b.track b.reason) b)
      h hb (gone _)]
    show execRelease f s = _
    rw [execRelease, State.ownCheckFails_noJob _ hr]
    rfl

/-- In job state NONE a JOB CLOSE or JOB ABANDON clears the note of its id and does nothing else. -/
theorem exec_clears_note {f : Rx} {s : State} {c : Instr} (h : s.receives) (hr : s.jc.record = none)
    (hc : (c = .jobClose f ∧ (parseClose f.body).isSome = true)
      ∨ (c = .jobAbandon f ∧ (parseAbandon f.body).isSome = true)) :
    ∃ k, (∀ t r, k ≠ .release t r)
      ∧ exec c s = .next (((s.heard k f.sender).clearNote f.jobId).afterCompletion s) := by
  have gone (k : FrameKey) : (s.heard k f.sender).jc.record = none := by rw [State.heard_noJob k _ hr, hr]
  rcases hc with ⟨rfl, hp⟩ | ⟨rfl, hp⟩ <;> obtain ⟨b, hb⟩ := Option.isSome_iff_exists.mp hp
  · exact ⟨.jobClose, by simp, congrArg Host.Outcome.next (State.completed_noted h hb (gone _))⟩
  · exact ⟨.jobAbandon, by simp, congrArg Host.Outcome.next (State.completed_noted h hb (gone _))⟩

/-- Settles O24. -/
theorem discardedAndForeignFramesMoveTheNote : Obligations.DiscardedAndForeignFramesMoveTheNote := by
  refine ⟨fun f b s h hr hb hbad => ?_, fun f s h hr => ⟨fun c hc => ?_, fun c hc => ?_⟩⟩
  · rw [execJobOpen_discarded h hr hb (openRecipe_none hbad)]
    simp [State.discardOpen, State.badFrame, State.count, bump, Config.max32]
  · obtain ⟨k, hk⟩ := exec_sets_note h hr hc
    have hh := State.heard_noJob k f.sender hr
    have kept := State.noted_kept (y := (s.heard k f.sender).setNote f.jobId) (s := s)
      (show (s.heard k f.sender).jc.record = none by rw [hh, hr]) ⟨_, rfl⟩
    simp only [State.heard_kept, hh] at kept
    obtain ⟨jc, -, du, ss, cs, dp, pc, presence, counters, now⟩ := kept
    exact ⟨_, hk, by simp [State.setNote], jc, du, ss, cs, dp, pc, by simp, presence, counters, now⟩
  · obtain ⟨k, hplain, hk⟩ := exec_clears_note h hr hc
    obtain ⟨hjc, hstore⟩ := State.heard_plain k f.sender s hplain
    have kept := State.noted_kept (y := (s.heard k f.sender).clearNote f.jobId) (s := s)
      (show (s.heard k f.sender).jc.record = none by rw [hjc, hr]) ⟨_, State.clearNote_eq _ _⟩
    simp only [State.heard_kept, hjc, hstore] at kept
    obtain ⟨jc, store, du, ss, cs, dp, pc, presence, counters, now⟩ := kept
    exact ⟨_, hk, jc, store, du, ss, cs, dp, pc, presence, counters, now, by simp [State.clearNote_eq]⟩

/-! ### JOB STOP (R9) -/

/-- JOB STOP of the job, heard. -/
theorem execJobStop_own {f : Rx} {s : State} {r : JobRecord} (h : s.receives) (hr : s.jc.record = some r)
    (hj : f.jobId = r.jobId) (hl : f.body.length = 2) (hb : byteAt f.body 1 = 1) :
    exec (.jobStop f) s = .next ((s.heard .jobStop f.sender).stopHeard.afterCompletion s) := by
  have hp : parseStop f.body = some () := by simp [parseStop, hl, hb]
  exact congrArg Host.Outcome.next (State.completed_own h hp (State.heard_record _ (by simp) hr) hj)

theorem State.stopHeard_opened {s : State} {r : JobRecord} (hr : s.jc.record = some r) (ho : r.state = .opened) :
    s.stopHeard = s.drain.closeTest := by simp [State.stopHeard, hr, ho]

theorem State.stopHeard_draining {s : State} {r : JobRecord} (hr : s.jc.record = some r) (ho : r.state = .draining) :
    s.stopHeard = s := by simp [State.stopHeard, hr, ho]

theorem State.drain_record {s : State} {r : JobRecord} (hr : s.jc.record = some r) :
    s.drain.jc.record = some { r with state := .draining } := by simp [State.drain, hr]

/-- The close conditions, from the record held (R11). -/
theorem State.closeConditions_iff {s : State} {r : JobRecord} (hr : s.jc.record = some r) :
    s.closeConditions = true ↔ r.closing = some s.station ∧ r.state = .draining ∧ r.claims = []
      ∧ (r.role ≠ .source ∨ s.ss.restoring = none) := by
  simp [State.closeConditions, hr, and_assoc]

/-- Settles O25. -/
theorem jobStopDrainsTheJob : Obligations.JobStopDrainsTheJob := by
  intro f s r h hr hj hl hb
  have hh : (s.heard .jobStop f.sender).jc.record = some r := State.heard_record _ (by simp) hr
  have hplain := State.heard_plain .jobStop f.sender s (by simp)
  rw [execJobStop_own h hr hj hl hb]
  refine ⟨fun ho => ?_, fun hd => by rw [State.stopHeard_draining hh hd]⟩
  rw [State.stopHeard_opened hh ho]
  refine ⟨_, rfl, by simp [State.drain_record hh], by simp [hplain], by simp, by simp, by simp, by simp, by simp,
    by simp, by simp, by simp, fun hclaims hclosing hrole hplace => ?_⟩
  have hrec := State.drain_record hh
  have conditions : (s.heard .jobStop f.sender).drain.closeConditions = true :=
    (State.closeConditions_iff hrec).2 ⟨(show r.closing = _ by simpa using hclosing), rfl, hclaims, by simpa using hrole⟩
  refine State.afterCompletion_close _ _ ?_ (State.closeTest_enters _ conditions (by simpa using h.1) ?_)
  · rw [← conditions]
    apply State.closeConditions_congr <;> simp
  · simpa using State.heard_length s .jobStop f.sender (by simp) hplace

end Sys2Proof.Machine
end

section
/-! PROOFS. The drain test of R4 on the account that a CLAIM or a TALLY leaves. -/

namespace Sys2Proof.Machine

/-- In OPEN the drain test moves the job to DRAINING where copies or serials are used up, and in DRAINING it leaves
it (R4). -/
theorem JobRecord.drainTest_state (r : JobRecord) :
    r.drainTest.state = .draining ↔ r.state = .draining ∨ r.drained = true := by
  unfold JobRecord.drainTest
  split
  · rename_i h; simp [h.2]
  · rename_i h
    rcases hs : r.state with _ | _ <;> simp_all

theorem JobRecord.drained_iff (r : JobRecord) :
    r.drained = true ↔ (r.wanted ≠ 0 ∧ r.wanted ≤ r.accepted) ∨ r.noneHeard = false ∧ r.high = r.limit := by
  simp [JobRecord.drained]

/-- Records of one fixed part and one account drain alike. -/
theorem JobRecord.drained_congr {r u : JobRecord} (hf : u.fixed = r.fixed) (ha : u.account = r.account) :
    u.drained = r.drained := by
  simp only [JobRecord.fixed, JobRecord.account, FixedFields.mk.injEq, Account.mk.injEq] at hf ha
  simp [JobRecord.drained, hf, ha]

/-- A record `u` has the fixed part, the account and the job state of `r`. -/
structure JobRecord.Agrees (u r : JobRecord) : Prop where
  fixed    : u.fixed = r.fixed
  account  : u.account = r.account
  state    : u.state = r.state
  departed : u.departed = r.departed

/-- A record that stands in place of `r` with the same fixed part, account, state and departed set agrees with it. -/
theorem recordAgrees {o : Option JobRecord} {r : JobRecord} (hf : o.map (·.fixed) = some r.fixed)
    (ha : o.map (·.account) = some r.account) (hs : o.map (·.state) = some r.state)
    (hd : o.map (·.departed) = some r.departed) : ∃ u, o = some u ∧ u.Agrees r := by
  cases o with
  | none => simp at hf
  | some u => exact ⟨u, rfl, by simpa using hf, by simpa using ha, by simpa using hs, by simpa using hd⟩

/-- The record that a CLAIM of the job leaves, up to what does not belong to the account. -/
theorem State.claimHeard_agrees {s : State} {r : JobRecord} {i : StationId} {v c : Nat} (hr : s.jc.record = some r)
    (hp : r.claimPasses i v = true) :
    ∃ u, (s.claimHeard i v c).jc.record = some u ∧ u.Agrees (r.applyClaim i v c).1.drainTest := by
  simp only [State.claimHeard, hr, hp, if_true]
  apply recordAgrees <;> simp [State.setAccount]

/-- The record that a TALLY of the job leaves, up to what does not belong to the account. -/
theorem State.tallyHeard_agrees {s : State} {r : JobRecord} {i : StationId} {b : TallyBody} (hr : s.jc.record = some r)
    (hp : r.tallyPasses i b = true) :
    ∃ u, (s.tallyHeard i b).jc.record = some u ∧ u.Agrees (r.applyTally i b).1.drainTest := by
  simp only [State.tallyHeard, hr, hp, if_true]
  apply recordAgrees <;> (repeat' split) <;> simp [State.setAccount]

/-- What follows a completion keeps those parts. -/
theorem State.settled_agrees {x before before' : State} {r u : JobRecord} (hx : x.jc.record = some u) (hu : u.Agrees r) :
    ∃ u', ((x.afterCompletion before).settle before').jc.record = some u' ∧ u'.Agrees r := by
  apply recordAgrees <;> simp [hx, hu.fixed, hu.account, hu.state, hu.departed]

/-- CLAIM of the job, heard. -/
theorem execClaim_own {f : Rx} {s : State} {r : JobRecord} {p : Nat × Nat} (h : s.receives)
    (hr : s.jc.record = some r) (hj : f.jobId = r.jobId) (hp : parseClaim f.body = some p) :
    exec (.claim f) s = .next ((((s.heard .claim f.sender).claimHeard f.sender p.1 p.2).afterCompletion s).settle s) := by
  rw [← State.completed_own (k := fun _ => .claim) (raw := []) (note := State.setNote f.jobId)
    (apply := fun b => State.claimHeard f.sender b.1 b.2) h hp (State.heard_record _ (by simp) hr) hj]
  rfl

/-- TALLY of the job, heard. -/
theorem execTally_own {f : Rx} {s : State} {r : JobRecord} {b : TallyBody} (h : s.receives)
    (hr : s.jc.record = some r) (hj : f.jobId = r.jobId) (hp : parseTally f.body = some b) :
    exec (.tally f) s = .next ((((s.heard .tally f.sender).tallyHeard f.sender b).afterCompletion s).settle s) := by
  rw [← State.completed_own (k := fun _ => .tally) (raw := []) (note := State.setNote f.jobId)
    (apply := fun b => State.tallyHeard f.sender b) h hp (State.heard_record _ (by simp) hr) hj]
  rfl

/-- A CLAIM or a TALLY that passes its check leaves a record that agrees with the drain test of some record in the
state of the one before. -/
theorem exec_account_agrees {f : Rx} {s t : State} {r u : JobRecord} {c : Instr} (h : s.receives)
    (hr : s.jc.record = some r) (hj : f.jobId = r.jobId)
    (hc : c = .claim f ∧ (∃ p, parseClaim f.body = some p ∧ r.claimPasses f.sender p.1 = true)
      ∨ c = .tally f ∧ ∃ b, parseTally f.body = some b ∧ r.tallyPasses f.sender b = true)
    (ht : exec c s = .next t) (hu : t.jc.record = some u) :
    ∃ q : JobRecord, q.state = r.state ∧ u.Agrees q.drainTest := by
  obtain ⟨rfl, p, hp, hpass⟩ | ⟨rfl, b, hp, hpass⟩ := hc
  · rw [execClaim_own h hr hj hp] at ht
    obtain ⟨x, hx, agrees⟩ := State.claimHeard_agrees (c := p.2) (State.heard_record f.sender (k := .claim) (by simp) hr) hpass
    obtain ⟨y, hy, agrees⟩ := State.settled_agrees (before := s) (before' := s) hx agrees
    obtain rfl := Host.Outcome.next.inj ht
    obtain rfl := Option.some.inj (hu.symm.trans hy)
    exact ⟨_, by simp, agrees⟩
  · rw [execTally_own h hr hj hp] at ht
    obtain ⟨x, hx, agrees⟩ := State.tallyHeard_agrees (State.heard_record f.sender (k := .tally) (by simp) hr) hpass
    obtain ⟨y, hy, agrees⟩ := State.settled_agrees (before := s) (before' := s) hx agrees
    obtain rfl := Host.Outcome.next.inj ht
    obtain rfl := Option.some.inj (hu.symm.trans hy)
    exact ⟨_, by simp, agrees⟩

/-- Settles O30. -/
theorem drainTestFollowsTheAccount : Obligations.DrainTestFollowsTheAccount := by
  intro f s t r u c h hr hj hc ht hu
  obtain ⟨q, hq, agrees⟩ := exec_account_agrees h hr hj hc ht hu
  have drains : u.state = .draining ↔ r.state = .draining ∨ u.drained = true := by
    rw [agrees.state, JobRecord.drainTest_state, hq, ← JobRecord.drained_congr (r := q) (u := u)]
    · simpa using agrees.fixed
    · rw [agrees.account, JobRecord.drainTest_account]
  refine ⟨fun hd => drains.2 (Or.inl hd), fun ho => ?_⟩
  rw [drains, ho, JobRecord.drained_iff]
  simp

end Sys2Proof.Machine
end

section
/-! PROOFS. What a completion does first and last, and what settle leaves. -/

namespace Sys2Proof.Machine

/-! ### First: the own frame leaves, and the sender's view ends (R152, R156) -/

theorem State.heard_other {k : FrameKey} {i : StationId} {s : State} (h : i ≠ s.station ∨ s.lc.has k = false) :
    s.heard k i = s.endViewOf i := by
  have hn : ¬ (i = s.station ∧ s.lc.has k = true) := by
    rintro ⟨hi, hk⟩
    rcases h with h | h
    · exact h hi
    · simp [hk] at h
  simp [State.heard, State.ownLeaves, hn]

/-- An own RELEASE leaves the queue with its link pin (R34). -/
theorem State.heard_own_release {t : Nat} {reason : ReleaseReason} {i : StationId} {s : State} (hi : i = s.station)
    (hk : s.lc.has (.release t reason) = true) :
    s.heard (.release t reason) i = (s.dequeue (.release t reason)).releaseLinkPin.endViewOf i := by
  simp [State.heard, State.ownLeaves, hi, hk]

theorem State.heard_own_plain {k : FrameKey} {i : StationId} {s : State} (hp : ∀ t reason, k ≠ .release t reason)
    (hi : i = s.station) (hk : s.lc.has k = true) : s.heard k i = (s.dequeue k).endViewOf i := by
  cases k
  case release t reason => exact absurd rfl (hp t reason)
  all_goals simp [State.heard, State.ownLeaves, hi, hk]

/-! ### Last: HOLD-OFF test, CLAIM, TALLY and JOB CLOSE (R11, R63, R64, R69, R155) -/

theorem State.holdOffReturn_ended {before s : State} (hb : before.lc.view.isSome = true) (hs : s.lc.view = none) :
    before.holdOffReturn s = s.holdOffTest := by simp [State.holdOffReturn, hb, hs]

theorem State.holdOffReturn_same {before s : State} (h : before.lc.view = none ∨ s.lc.view.isSome = true) :
    before.holdOffReturn s = s := by
  unfold State.holdOffReturn
  rw [if_neg]
  rintro ⟨hb, hs⟩
  rcases h with h | h
  · simp [h] at hb
  · simp [hs] at h

theorem State.claimRefill_none {s : State} (h : s.lc.waiting .claim = false) : s.claimRefill = s := by
  unfold State.claimRefill
  split <;> simp [h]

theorem State.claimAgain_elsewhere {s : State} (h : s.cs.state ≠ .claim) : s.claimAgain = s := by
  simp [State.claimAgain, h]

theorem State.enterTally_elsewhere {s : State} (h : s.cs.state ≠ .tally) : s.enterTally = s := by
  unfold State.enterTally
  split <;> simp [h]

/-- With no JOB CLOSE waiting its lapse changes nothing. -/
theorem State.closeLapse_none {s : State} (h : s.lc.waiting .jobClose = false) (hl : s.lc.lossFor = none) :
    s.closeLapse = s := by
  unfold State.closeLapse
  split
  · rfl
  · refine State.withdraw_none s _ (fun f hf hk => ?_) (fun k hk => by simp [hl] at hk)
    simp only [Link.waiting, List.any_eq_false] at h
    simpa [show f.key = .jobClose by simpa using hk] using h f hf

/-- With no CLAIM of its own waiting, no TALLY owed, no JOB CLOSE queued and no view ended, nothing is done last. -/
theorem State.afterCompletion_calm {before s : State} (hv : before.lc.view = none ∨ s.lc.view.isSome = true)
    (hw : s.lc.waiting .claim = false) (hclaim : s.cs.state ≠ .claim) (htally : s.cs.state ≠ .tally)
    (hclose : s.lc.waiting .jobClose = false) (hl : s.lc.lossFor = none) : s.afterCompletion before = s := by
  rw [State.afterCompletion, State.holdOffReturn_same hv, State.claimRefill_none hw,
    State.claimAgain_elsewhere hclaim, State.enterTally_elsewhere htally, State.closeLapse_none hclose hl]

/-- The end of a view after a frame has left, which leaves the view (R156). -/
theorem State.endViewOf_left {left s : State} (i : StationId) (hv : left.lc.view = s.lc.view) :
    left.endViewOf i = { left with lc := { left.lc with
      view := match s.lc.view with
        | some v => if v.holder = i then none else some v
        | none => none } } := by
  rw [← hv]
  exact State.endViewOf_eq i left

/-- Settles O38. -/
theorem completionAndSettleLeaveTheRest : Obligations.CompletionAndSettleLeaveTheRest := by
  refine ⟨fun k i s => ⟨fun h => ?_, fun hi hk => ?_⟩, fun s before => ?_, fun s before => ?_⟩
  · exact (State.heard_other h).trans (State.endViewOf_left i rfl)
  · cases k
    case release t reason =>
      have kept : (s.dequeue (.release t reason)).releaseLinkPin.lc.view = s.lc.view := by simp
      exact (State.heard_own_release hi hk).trans (State.endViewOf_left i kept)
    all_goals exact (State.heard_own_plain (by simp) hi hk).trans (State.endViewOf_left i (by simp))
  · exact ⟨rfl, State.holdOffReturn_ended, State.holdOffReturn_same, fun h => by simp [State.closeLapse, h],
      fun h => by simp [State.closeLapse, h], by simp, by simp, by simp, by simp, by simp,
      State.afterCompletion_counters _ _, by simp, by simp, by simp, by simp, by simp, by simp,
      State.afterCompletion_calm⟩
  · refine ⟨State.settle_noJob s before, ?_⟩
    simp [State.fixed, State.account, State.jobState, State.mark, State.departed]

end Sys2Proof.Machine
end

section
/-! PROOFS. Home assignment (R18) and home repair (R20). -/

namespace Sys2Proof.Machine

/-! ### Home assignment (R18) -/

theorem homePosition_iff {n rr p t : Nat} : homePosition n rr p t = true ↔ ∃ j < rr, (t + j) % n = p := by
  simp [homePosition]

theorem mem_homeTracks {tracks n rr p t : Nat} :
    t ∈ homeTracks tracks n rr p ↔ t < tracks ∧ ∃ j < rr, (t + j) % n = p := by
  simp [homeTracks, homePosition_iff]

/-- In a list without repetition a station stands at one position alone. -/
theorem idxOf?_eq_some_of_nodup {l : List StationId} {i : StationId} {p : Nat} (hl : l.Nodup) :
    l.idxOf? i = some p ↔ l[p]? = some i := by
  rw [List.idxOf?_eq_some_iff, List.getElem?_eq_some_iff]
  refine exists_congr fun hp => and_iff_left_of_imp fun he j hj hij => ?_
  exact List.pairwise_iff_getElem.1 hl j p (Nat.lt_trans hj hp) hp hj (hij.trans he.symm)

/-- The home stations of a track are those at the positions that R18 gives. -/
theorem mem_homesAmong {l : List StationId} {tracks rr u : Nat} {i : StationId} (hl : l.Nodup) :
    u ∈ homesAmong l tracks rr i ↔ u < tracks ∧ ∃ j < min rr l.length, l[(u + j) % l.length]? = some i := by
  unfold homesAmong
  split
  · rename_i p hp
    rw [mem_homeTracks]
    rw [idxOf?_eq_some_of_nodup hl] at hp
    have hlt : p < l.length := (List.getElem?_eq_some_iff.1 hp).1
    simp only [← hp, List.getElem?_inj (Nat.mod_lt _ (Nat.zero_lt_of_lt hlt)) hl]
  · rename_i hn
    have hi : i ∉ l := List.idxOf?_eq_none_iff.1 hn
    simp only [List.not_mem_nil, false_iff]
    rintro ⟨-, j, -, hj⟩
    exact hi (List.mem_of_getElem? hj)

/-! ### The want list's repair part (R20) -/

/-- An entry of the repair part that a removal leaves was there, and is of another track. -/
theorem State.mem_repair_removeWant {t : Nat} {s : State} {w : Want} (h : w ∈ (s.removeWant t).du.repair) :
    w ∈ s.du.repair ∧ w.track ≠ t := by
  unfold State.removeWant at h
  split at h
  · simpa [State.mapDu] using h
  · rename_i hn
    refine ⟨h, fun ht => hn ?_⟩
    simp only [Distribution.has, Distribution.find, List.find?_isSome]
    exact ⟨w, by simp [h], by simp [ht]⟩

/-- The entries of a list of tracks leave the want list. -/
def State.removeWants (l : List Want) (s : State) : State := l.foldl (fun s w => s.removeWant w.track) s

theorem State.removeWants_jc (l : List Want) (s : State) : (s.removeWants l).jc = s.jc :=
  State.foldl_kept (·.jc) _ (by simp) l s

theorem State.removeWants_store (l : List Want) (s : State) : (s.removeWants l).store = s.store :=
  State.foldl_kept (·.store) _ (by simp) l s

theorem State.mem_repair_removeWants {l : List Want} {s : State} {w : Want} (h : w ∈ (s.removeWants l).du.repair) :
    w ∈ s.du.repair ∧ ∀ v ∈ l, w.track ≠ v.track := by
  induction l generalizing s with
  | nil => exact ⟨h, by simp⟩
  | cons v l ih =>
    obtain ⟨hs, hl⟩ := ih (s := s.removeWant v.track) h
    obtain ⟨hs, hv⟩ := State.mem_repair_removeWant hs
    exact ⟨hs, by simpa [hv] using hl⟩

/-! ### The holding rebuilt (R19, R20) -/

/-- The home marks read as they were set. -/
theorem Store.entry_setMarks (st : Store) (h : List Nat) {u : Nat} (hu : u < 168) :
    (st.setMarks h).entry u = { st.entry u with home := decide (u ∈ h) } := by
  have hu' : u < Config.trackCount := hu
  simp [Store.entry, Store.setMarks, hu']

/-- Home repair places the first tracks in their slots: HOME with a place, CACHE without. -/
theorem Slot.repaired_placed {l : List Nat} {e : Slot} {u : Nat} (ht : e.track = some u)
    (hs : e.state = .cache ∨ e.state = .home) : e.repaired l = { e with state := if u ∈ l then .home else .cache } := by
  obtain ⟨state, track, check, drivePin, linkPin, damaged, freePending⟩ := e
  obtain rfl : track = some u := ht
  rcases hs with rfl | rfl <;> by_cases hu : u ∈ l <;> simp [Slot.repaired, hu]

/-- The held home tracks that get the first places (R20). -/
def Store.placedFirst (st : Store) (h : List Nat) : List Nat := (st.heldForRepair h).take Config.allowancePlaces

/-- The home tracks not held that get the places left: the repair list (R20). -/
def Store.placedSecond (st : Store) (h : List Nat) : List Nat :=
  (h.filter fun t => !decide ((st.entry t).presence = .held)).take
    (Config.allowancePlaces - (st.placedFirst h).length)

/-- The store as home repair rebuilds it for a home set (R20). -/
def Store.repaired (st : Store) (h : List Nat) : Store :=
  { st.setMarks h with
    slots := st.slots.map (Slot.repaired (st.placedFirst h))
    cache := (st.cache.filter fun i => !((st.slot i).track.any fun t => decide (t ∈ st.placedFirst h)))
      ++ st.demoted (st.placedFirst h)
    reservation := (st.placedSecond h).length
    allowance := h.filter fun t => decide (t ∈ st.placedFirst h) || decide (t ∈ st.placedSecond h) }

/-- Home repair of a COPY job at a MEMBER or the SOURCE, in its parts. -/
theorem State.homeRepair_eq {s : State} {r : JobRecord} (hr : s.jc.record = some r) (hk : r.kind = .copy)
    (ho : r.role ≠ .observer) :
    s.homeRepair = State.removeWants
      (s.du.repair.filter fun w => !decide (w.track ∈ s.store.placedSecond (r.homes s.station)))
      { s.mapRecord (fun r' => { r' with
          repair := s.store.placedSecond (r.homes s.station)
          homeShort := (r.homes s.station).length - (s.store.placedFirst (r.homes s.station)).length
            - (s.store.placedSecond (r.homes s.station)).length }) with
        store := s.store.repaired (r.homes s.station) } := by
  simp only [State.homeRepair, hr, hk, ho, ne_eq, not_false_eq_true, and_self, if_true]
  rfl

theorem State.homeRepair_none {s : State} {r : JobRecord} (hr : s.jc.record = some r)
    (h : r.kind = .format ∨ r.role = .observer) : s.homeRepair = s := by
  rcases h with h | h <;> simp [State.homeRepair, hr, h]

theorem Store.repaired_slot {st : Store} (h : List Nat) {i u : Nat} (hi : i < 64) (ht : (st.slot i).track = some u)
    (hs : (st.slot i).state = .cache ∨ (st.slot i).state = .home) :
    (st.repaired h).slot i = { st.slot i with state := if u ∈ st.placedFirst h then .home else .cache } := by
  rw [← Slot.repaired_placed ht hs]
  have hi' : i < Config.slotCount := hi
  simp [Store.repaired, Store.slot, hi']

/-- Settles O52. -/
theorem homeRepairRebuildsTheHolding : Obligations.HomeRepairRebuildsTheHolding := by
  refine ⟨fun l tracks rr u i hl => mem_homesAmong hl, fun r i => ⟨fun hk => ?_, fun hk => ?_⟩,
    fun s r hr => ⟨State.homeRepair_none hr, fun hk ho => ?_⟩⟩
  · simp [JobRecord.homes, hk]
  · simp [JobRecord.homes, hk]
  · intro h first second t
    have store : t.store = s.store.repaired h := by
      simp only [t, State.homeRepair_eq hr hk ho, State.removeWants_store, h]
    have record : t.jc.record = some { r with
        repair := second, homeShort := h.length - first.length - second.length } := by
      simp only [t, State.homeRepair_eq hr hk ho, State.removeWants_jc, State.mapRecord_jc, hr]
      rfl
    rw [store]
    refine ⟨record, rfl, rfl, fun u hu => s.store.entry_setMarks h hu, fun i hi u ht hs => Store.repaired_slot h hi ht hs,
      fun w hw => ?_, rfl⟩
    simp only [t, State.homeRepair_eq hr hk ho] at hw
    obtain ⟨hw, hgone⟩ := State.mem_repair_removeWants hw
    refine Classical.byContradiction fun hn => ?_
    exact hgone w (List.mem_filter.2 ⟨hw, by simpa using (show w.track ∉ s.store.placedSecond h from hn)⟩) rfl

end Sys2Proof.Machine
end

section
/-! PROOFS. The settlement of a RELEASE's fill (R30, R31). -/

namespace Sys2Proof.Machine

/-! ### Bytes read off a canonical memory -/

/-- A scan of a canonical list from its bound reads byte by byte. -/
theorem Memory.scan_eq {m : List Host.Cell} {a : Nat} (n : Nat) (h : Memory.wfFrom a m = true) :
    Memory.scan m a n = (List.range n).map fun k => Memory.read m (a + k) := by
  induction n generalizing m a with
  | zero => cases m <;> rfl
  | succ n ih =>
    have shift (m' : List Host.Cell) : ((List.range n).map fun k => Memory.read m' (a + 1 + k))
        = (List.range n).map fun k => Memory.read m' (a + (k + 1)) := by
      simp only [Nat.add_assoc, Nat.add_comm 1]
    rw [List.range_succ_eq_map, List.map_cons, List.map_map]
    match m, h with
    | [], _ => simp only [Memory.scan, ih (m := []) (a := a + 1) rfl, shift]; rfl
    | (x, b) :: rest, h =>
      simp only [Memory.wfFrom, Bool.and_eq_true, decide_eq_true_eq] at h
      obtain ⟨⟨hax, hb⟩, hrest⟩ := h
      by_cases hx : x = a
      · subst hx
        simp only [Memory.scan, if_true, ih hrest, shift, Memory.read, Nat.add_zero, Function.comp_def]
        congr 1
        refine List.map_congr_left fun k _ => ?_
        rw [if_neg (by omega)]
      · have above : Memory.wfFrom (a + 1) ((x, b) :: rest) = true := by
          simp only [Memory.wfFrom, Bool.and_eq_true, decide_eq_true_eq]
          exact ⟨⟨by omega, hb⟩, hrest⟩
        have unread : Memory.read ((x, b) :: rest) a = Config.unwrittenByte :=
          Memory.read_none fun c hc => by have := (Memory.wfFrom_mem above c hc).1; omega
        simp only [Memory.scan, if_neg hx, ih above, shift, Nat.add_zero, unread, Function.comp_def]

/-- A block read off a canonical memory is its bytes one by one. -/
theorem Memory.readBytes_eq {m : List Host.Cell} (a n : Nat) (h : Memory.wf m = true) :
    Memory.readBytes m a n = (List.range n).map fun k => Memory.read m (a + k) := by
  have above : Memory.wfFrom a (m.filter fun c => decide (a ≤ c.1)) = true :=
    Memory.wfFrom_raise (Memory.wfFrom_filter _ h) fun c hc => by simpa using (List.mem_filter.mp hc).2
  rw [Memory.readBytes, Memory.scan_eq n above]
  exact List.map_congr_left fun k _ => Memory.read_filter (fun x => decide (a ≤ x)) (by simp)

/-- A block whose bytes are those of a list reads as the list. -/
theorem Memory.readBytes_of_read {m : List Host.Cell} {a : Nat} {data : List Byte} (h : Memory.wf m = true)
    (hd : ∀ k < data.length, Memory.read m (a + k) = data.getD k 0) :
    Memory.readBytes m a data.length = data := by
  rw [Memory.readBytes_eq _ _ h]
  refine List.ext_getElem (by simp) fun k hk _ => ?_
  have hk : k < data.length := by simpa using hk
  simp [hd k hk, hk]

/-! ### Where a sector's bytes lie (R30) -/

/-- The address of a sector's first byte in a slot. -/
def Recipe.sectorBase (r : Recipe) (i sector : Nat) : Nat := slotBase i + (sector - r.firstId) * r.size

theorem Recipe.mem_ids {r : Recipe} {z : Nat} : z ∈ r.ids ↔ r.firstId ≤ z ∧ z < r.firstId + r.sectors := by
  simp only [Recipe.ids, List.mem_map, List.mem_range]
  constructor
  · rintro ⟨k, hk, rfl⟩; omega
  · rintro ⟨h1, h2⟩; exact ⟨z - r.firstId, by omega, by omega⟩

theorem Recipe.ids_ascend (r : Recipe) : r.ids.Pairwise (· < ·) :=
  List.pairwise_map.2 (List.pairwise_lt_range.imp fun h => by omega)

/-- A lower sector ends before a higher one begins. -/
theorem Recipe.sectorBase_lt {r : Recipe} (i : Nat) {y z : Nat} (hy : r.firstId ≤ y) (h : y < z) :
    r.sectorBase i y + r.size ≤ r.sectorBase i z := by
  have : (y - r.firstId + 1) * r.size ≤ (z - r.firstId) * r.size := Nat.mul_le_mul_right _ (by omega)
  rw [Nat.succ_mul] at this
  simp only [Recipe.sectorBase]
  omega

/-- The recipe's sectors lie inside the track's bytes of the slot. -/
theorem Recipe.sectorBase_bounds {r : Recipe} (i : Nat) {z : Nat} (hz : z ∈ r.ids) :
    slotBase i ≤ r.sectorBase i z ∧ r.sectorBase i z + r.size ≤ slotBase i + r.sectors * r.size := by
  obtain ⟨h1, h2⟩ := Recipe.mem_ids.1 hz
  have : (z - r.firstId + 1) * r.size ≤ r.sectors * r.size := Nat.mul_le_mul_right _ (by omega)
  rw [Nat.succ_mul] at this
  simp only [Recipe.sectorBase]
  omega

theorem Store.read_writeSector (st : Store) (r : Recipe) (i z : Nat) (data : List Byte) (x : Nat) :
    Memory.read (st.writeSector r i z data).mem x =
      if r.sectorBase i z ≤ x ∧ x < r.sectorBase i z + data.length then data.getD (x - r.sectorBase i z) 0
      else Memory.read st.mem x := Memory.read_write _ _ _ _

/-! ### The sectors of a body in the slot (R30) -/

/-- A sector whose ID is the recipe's and follows the one before is written. -/
theorem Store.fillSectors_cons {r : Recipe} {z : Nat} {prev : Option Nat} (i : Nat) (data : List Byte)
    (l : List (Nat × List Byte)) (st : Store) (hz : z ∈ r.ids) (hprev : ∀ q, prev = some q → q < z) :
    Store.fillSectors r i prev ((z, data) :: l) st = Store.fillSectors r i (some z) l (st.writeSector r i z data) := by
  cases prev with
  | none => simp [Store.fillSectors, hz]
  | some q => simp [Store.fillSectors, hz, hprev q rfl]

/-- A byte that lies in none of the sectors of a body stays. -/
theorem Store.read_fillSectors_other {r : Recipe} {i x : Nat} {l : List (Nat × List Byte)} (prev : Option Nat)
    (st : Store) (h : ∀ p ∈ l, p.1 ∈ r.ids → x < r.sectorBase i p.1 ∨ r.sectorBase i p.1 + p.2.length ≤ x) :
    Memory.read (Store.fillSectors r i prev l st).mem x = Memory.read st.mem x := by
  induction l generalizing prev st with
  | nil => rfl
  | cons p l ih =>
    obtain ⟨z, data⟩ := p
    simp only [Store.fillSectors]
    rw [ih _ _ fun q hq => h q (List.mem_cons_of_mem _ hq)]
    generalize hf : (decide (z ∈ r.ids) && _) = written
    cases written with
    | false => rfl
    | true =>
      have hz : z ∈ r.ids := by simp only [Bool.and_eq_true, decide_eq_true_eq] at hf; exact hf.1
      rw [if_pos rfl, Store.read_writeSector, if_neg]
      have := h _ List.mem_cons_self hz
      dsimp only at this
      omega

/-- The sectors of a body whose IDs are the recipe's and rise are read back. -/
theorem Store.read_fillSectors {r : Recipe} {i : Nat} {l : List (Nat × List Byte)} (prev : Option Nat) (st : Store)
    (hids : ∀ p ∈ l, p.1 ∈ r.ids) (hasc : l.Pairwise fun p q => p.1 < q.1)
    (hprev : ∀ q, prev = some q → ∀ p ∈ l, q < p.1) (hlen : ∀ p ∈ l, p.2.length = r.size)
    {z k : Nat} {data : List Byte} (hz : (z, data) ∈ l) (hk : k < r.size) :
    Memory.read (Store.fillSectors r i prev l st).mem (r.sectorBase i z + k) = data.getD k 0 := by
  induction l generalizing prev st with
  | nil => simp at hz
  | cons p l ih =>
    obtain ⟨y, bytes⟩ := p
    rw [List.pairwise_cons] at hasc
    obtain ⟨hhead, hasc⟩ := hasc
    have hy : y ∈ r.ids := hids _ List.mem_cons_self
    rw [Store.fillSectors_cons i _ _ _ hy fun q hq => hprev q hq _ List.mem_cons_self]
    rcases List.mem_cons.1 hz with he | hz
    · obtain ⟨rfl, rfl⟩ := Prod.mk.inj he
      rw [Store.read_fillSectors_other]
      · rw [Store.read_writeSector, hlen _ List.mem_cons_self, if_pos (by omega), Nat.add_sub_cancel_left]
      · intro q hq _
        have := Recipe.sectorBase_lt (r := r) i (Recipe.mem_ids.1 hy).1 (hhead q hq)
        omega
    · exact ih _ _ (fun q hq => hids q (List.mem_cons_of_mem _ hq)) hasc
        (fun q hq p hp => by obtain rfl := Option.some.inj hq; exact hhead p hp)
        (fun q hq => hlen q (List.mem_cons_of_mem _ hq)) hz

/-! ### The settlement (R31, R46) -/

/-- The state once the arrived sectors of a fill stand in its slot. -/
def State.filled (s : State) (r : Recipe) (i : Nat) (b : ReleaseBody) : State :=
  { s with store := { Store.fillSectors r i none b.sectors s.store with fills := s.store.fills.erase i } }

/-- A fill is good: the recipe's sectors in order, with the track check of its slot. -/
def State.fillGood (s : State) (r : Recipe) (i : Nat) (b : ReleaseBody) : Prop :=
  b.sectors.map (·.1) = r.ids
  ∧ crc32 ((Store.fillSectors r i none b.sectors s.store).trackData r i) = (s.store.slot i).check

theorem State.filled_slot (s : State) (r : Recipe) (i j : Nat) (b : ReleaseBody) :
    (s.filled r i b).store.slot j = s.store.slot j := by simp [State.filled, Store.slot]

theorem State.filled_entry (s : State) (r : Recipe) (i t : Nat) (b : ReleaseBody) :
    (s.filled r i b).store.entry t = s.store.entry t := by simp [State.filled, Store.entry]

section
variable {s : State} {r : JobRecord} {b : ReleaseBody} {i : Nat}

theorem State.settleFill_good (hr : s.jc.record = some r) (hi : s.store.fillOf b.track = some i)
    (hg : s.fillGood r.recipe i b) :
    s.settleFill b = ((s.filled r.recipe i b).settleGood i b.track).removeWant b.track := by
  have hcheck : (s.filled r.recipe i b).store.trackCheck r.recipe i = ((s.filled r.recipe i b).store.slot i).check := by
    rw [State.filled_slot]; exact hg.2
  have hrec : s.recipe = some r.recipe := by simp [State.recipe, hr]
  simp only [State.settleFill, hi, hrec]
  exact if_pos ⟨hg.1, hcheck⟩

theorem State.settleFill_bad (hr : s.jc.record = some r) (hi : s.store.fillOf b.track = some i)
    (hg : ¬ s.fillGood r.recipe i b) :
    s.settleFill b = ({ s.filled r.recipe i b with store := (s.filled r.recipe i b).store.freeSlot i }).count
      fun c => { c with damaged := bump c.damaged } := by
  have hrec : s.recipe = some r.recipe := by simp [State.recipe, hr]
  simp only [State.settleFill, hi, hrec]
  refine if_neg fun h => hg ⟨h.1, ?_⟩
  exact h.2.trans (congrArg Slot.check (State.filled_slot s r.recipe i i b))

theorem State.settleFill_bytes (hr : s.jc.record = some r) (hi : s.store.fillOf b.track = some i) :
    (s.settleFill b).store.mem = (Store.fillSectors r.recipe i none b.sectors s.store).mem
    ∧ (s.settleFill b).store.fills = s.store.fills.erase i := by
  by_cases hg : s.fillGood r.recipe i b
  · rw [State.settleFill_good hr hi hg]; simp [State.filled]
  · rw [State.settleFill_bad hr hi hg]; simp [State.filled]

end

/-- The end of a good fill: the track is HELD in its slot, HOME where it has a place and CACHE elsewhere (R31). -/
theorem State.settleGood_held (s : State) {i t : Nat} (hi : i < 64) (ht : t < 168) :
    (s.settleGood i t).store.entry t = { s.store.entry t with presence := .held, slot := some i }
    ∧ ((s.settleGood i t).store.slot i).state = if t ∈ s.store.allowance then .home else .cache := by
  unfold State.settleGood
  by_cases h : t ∈ s.store.allowance
  · simp only [h, if_true]
    exact ⟨Store.entry_setEntry _ _ _ ht, congrArg Slot.state (Store.slot_setSlot s.store i _ hi)⟩
  · simp only [h, if_false]
    exact ⟨Store.entry_setEntry _ _ _ ht, congrArg Slot.state (Store.slot_setSlot s.store i _ hi)⟩

/-- The lists and counts after a good fill: a place is filled, or the cache order list gains the slot (R21, R25). -/
theorem State.settleGood_lists (s : State) (i t : Nat) :
    (s.settleGood i t).store.cache = (if t ∈ s.store.allowance then s.store.cache else s.store.cache ++ [i])
    ∧ (s.settleGood i t).store.reservation =
      (if t ∈ s.store.allowance then s.store.reservation - 1 else s.store.reservation) := by
  unfold State.settleGood
  by_cases h : t ∈ s.store.allowance <;> simp [h, Store.setEntry]

theorem State.settleGood_jc (s : State) (i t : Nat) :
    (s.settleGood i t).jc = if t ∈ s.store.allowance then
      { s.jc with record := s.jc.record.map fun r => { r with repair := r.repair.erase t } } else s.jc := by
  unfold State.settleGood
  by_cases h : t ∈ s.store.allowance
  · simp only [h, if_true]
    rfl
  · simp only [h, if_false]

/-- Settles O34. -/
theorem releaseSettlesTheFill : Obligations.ReleaseSettlesTheFill := by
  intro s r b i hr hfill hi ht st good
  obtain ⟨mem, fills⟩ := State.settleFill_bytes hr hfill
  refine ⟨mem, fills, fun hlen => ⟨fun hsound hids z data hz => ?_, fun a ha => ?_⟩, fun hg => ?_, fun hg => ?_⟩
  · have sectors : ∀ p ∈ b.sectors, p.1 ∈ r.recipe.ids := fun p hp => hids ▸ List.mem_map_of_mem hp
    have ascend : b.sectors.Pairwise fun p q => p.1 < q.1 :=
      List.pairwise_map.1 (hids ▸ r.recipe.ids_ascend)
    rw [mem]
    have hl : data.length = r.recipe.size := hlen _ hz
    rw [← hl]
    refine Memory.readBytes_of_read (Store.wf_fillSectors _ _ _ _ hsound) fun k hk => ?_
    rw [hl]
    exact Store.read_fillSectors none s.store sectors ascend (by simp) hlen hz (hl ▸ hk)
  · rw [mem]
    refine Store.read_fillSectors_other none s.store fun p hp hid => ?_
    have := Recipe.sectorBase_bounds i hid
    rw [hlen p hp]
    simp only [slotBase, Config.slotBytes] at this
    omega
  · rw [State.settleFill_good hr hfill hg]
    have allowance : (s.filled r.recipe i b).store.allowance = s.store.allowance := by simp [State.filled]
    obtain ⟨entry, state⟩ := (s.filled r.recipe i b).settleGood_held hi ht
    obtain ⟨cache, reservation⟩ := (s.filled r.recipe i b).settleGood_lists i b.track
    have jc := (s.filled r.recipe i b).settleGood_jc i b.track
    rw [allowance] at state cache reservation jc
    simp only [State.removeWant_kept]
    refine ⟨by rw [entry], by rw [entry], state, ?_, ?_, State.removeWant_has _ _, fun h => ?_, fun h => ?_⟩
    · simpa [State.filled] using cache
    · simpa [State.filled] using reservation
    · simpa [h, State.filled, hr] using jc
    · simpa [h, State.filled] using jc
  · have htrack : (s.store.slot i).track = some b.track := by
      simpa [Store.fillOf] using List.find?_some hfill
    rw [State.settleFill_bad hr hfill hg]
    refine ⟨Store.freeSlot_slot _ _ hi, ?_, by simp [State.filled, bump, Config.max32], by simp [State.filled]⟩
    exact congrArg MapEntry.presence (Store.freeSlot_entry _ _ _ ht (by rw [State.filled_slot, htrack]))

end Sys2Proof.Machine
end

section
/-! PROOFS. The end of the job at JOB CLOSE and JOB ABANDON (R12 to R14, R92, R119). -/

namespace Sys2Proof.Machine

/-! ### What the job's end does to the disk (R92) -/

/-- At a JOB CLOSE an unclaimed disk waits in STANDBY with the motor stopped and the door unlocked. -/
theorem State.copyJobEnd_unclaimed {s : State}
    (h : s.cs.state = .spinup ∨ s.cs.state = .home ∨ s.cs.state = .claim) :
    s.copyJobEnd .close = { s with
      cs := { s.cs with paused := false, state := .standby }
      dp := { s.dp.stopMotor with lock := false }
      tb := none } := by
  rcases h with h | h | h <;> simp only [State.copyJobEnd, h, if_true] <;> rfl

/-- A disk in use that is neither unclaimed at a JOB CLOSE nor pulled is ended with ABANDONED. -/
theorem State.copyJobEnd_abandons {s : State} {cause : EndCause} (hb : s.cs.state.busy = true)
    (hp : ¬(s.cs.state = .tally ∧ s.cs.pulled = true))
    (hc : cause = .close → s.cs.state ≠ .spinup ∧ s.cs.state ≠ .home ∧ s.cs.state ≠ .claim) :
    s.copyJobEnd cause = (s.mapCopy fun cs => { cs with paused := false }).abandonDisk cause := by
  by_cases h : cause = .close
  · obtain ⟨h1, h2, h3⟩ := hc h
    cases hs : s.cs.state <;> simp_all [State.copyJobEnd, CycleState.busy]
  · cases hs : s.cs.state <;> simp_all [State.copyJobEnd, CycleState.busy]

/-- A pulled disk that waits for its TALLY is entered as PULLED. -/
theorem State.copyJobEnd_pulled {s : State} {cause : EndCause} (hs : s.cs.state = .tally) (hp : s.cs.pulled = true) :
    s.copyJobEnd cause = (s.mapCopy fun cs => { cs with paused := false }).leavePulled .pulled (some cause) := by
  simp [State.copyJobEnd, hs, hp]

/-- With no disk in use only the paused flag is cleared. -/
theorem State.copyJobEnd_idle {s : State} {cause : EndCause} (hb : s.cs.state.busy = false) :
    s.copyJobEnd cause = s.mapCopy fun cs => { cs with paused := false } := by
  cases hs : s.cs.state <;> simp_all [State.copyJobEnd, CycleState.busy]

/-- The job's end clears the paused flag. -/
theorem State.copyJobEnd_paused (s : State) (cause : EndCause) : (s.copyJobEnd cause).cs.paused = false := by
  have abandons : ((s.mapCopy fun cs => { cs with paused := false }).abandonDisk cause).cs.paused = false := by
    simp [State.mapCopy]
  cases hs : s.cs.state <;> simp only [State.copyJobEnd, hs]
  case spinup | home | claim => split; · rfl
                                · exact abandons
  case tally => split; · simp [State.mapCopy]
                · exact abandons
  case fetch | write | verify => exact abandons
  all_goals rfl

theorem Disk.record_first (d : Disk) (f : DiskFault) : (d.record f).first = some (d.first.getD f) := by
  unfold Disk.record
  split <;> simp_all

/-- A disk abandoned stands in OUT, REJECTED, with the motor stopped, the door unlocked and its history entry. -/
theorem State.abandonDisk_out (s : State) (cause : EndCause) :
    (s.abandonDisk cause).cs.state = .out ∧ (s.abandonDisk cause).cs.outcome = some .rejected
    ∧ (s.abandonDisk cause).dp.motor = false ∧ (s.abandonDisk cause).dp.lock = false
    ∧ (s.abandonDisk cause).cs.disk.first = some (s.cs.disk.first.getD .abandoned)
    ∧ ((s.abandonDisk cause).pc.history.getLast?.map fun h => (h.outcome, h.cause)) = some (.rejected, some cause) := by
  refine ⟨?_, ?_, ?_, ?_, ?_, ?_⟩
  · simp [State.abandonDisk, State.enterOut, State.mapCopy]
  · simp [State.abandonDisk, State.enterOut, State.mapCopy]
  · simp [State.abandonDisk, State.enterOut, State.endUse_dp, Drive.stopMotor_lines, Drive.ejectRequest, State.mapDrive]
  · simp [State.abandonDisk, State.enterOut, Drive.ejectRequest, State.mapDrive]
  · simp [State.abandonDisk, State.enterOut, State.mapCopy, State.endUse_cs, State.fault_cs, Disk.record_first]
  · simp [State.abandonDisk, State.enterOut, State.appendHistory_last, Disk.entry]

/-! ### What the job's end does to the source (R119) -/

theorem State.endRead_ss (s : State) : s.endRead.ss = { s.ss with read := none } := by
  unfold State.endRead
  split
  · split <;> rfl
  · rename_i h; rw [← h]

theorem State.sourceEnding_eject {s : State} (hd : s.dp.diskin = true) :
    s.sourceEnding.ss = { s.ss with state := .ending, read := none, reserve := none, abandon := none }
    ∧ s.sourceEnding.dp.motor = false ∧ s.sourceEnding.dp.lock = false
    ∧ s.sourceEnding.dp.ejectEnds = some (s.dp.ejectEnds.getD (s.now + 100000)) := by
  simp only [State.sourceEnding, hd, if_true]
  refine ⟨by simp [State.endRead_ss], by simp [State.stopMotor, Drive.stopMotor], by simp [Drive.ejectRequest], ?_⟩
  simp only [Drive.ejectRequest]
  have : (s.endRead.releaseDrivePin.stopMotor).dp.ejectEnds = s.dp.ejectEnds := by
    simp [State.stopMotor, State.endRead_eject]
  rw [this]
  cases s.dp.ejectEnds <;> simp [Config.ejectPulse]

theorem State.sourceEnding_empty {s : State} (hd : s.dp.diskin = false) :
    s.sourceEnding.ss = {} ∧ s.sourceEnding.dp.motor = false ∧ s.sourceEnding.dp.lock = false := by
  simp [State.sourceEnding, hd, State.stopMotor, Drive.stopMotor]

/-! ### The end of the job (R14) -/

/-- The job's frames leave, and the Copy Sequencer and, at the SOURCE, the Source Sequencer end their use. -/
def State.usesEnded (r : JobRecord) (cause : EndCause) (s : State) : State :=
  let s1 := (s.setQueue (s.lc.queue.filter fun f => !f.ofJob r.jobId)).copyJobEnd cause
  if r.role = .source then s1.sourceEnding else s1

theorem State.endJob_eq {s : State} {r : JobRecord} (cause : EndCause) (hr : s.jc.record = some r) :
    s.endJob cause = State.idlePort { s.usesEnded r cause with
      jc := { (s.usesEnded r cause).jc with record := none, stopDue := false, abandonDue := [] }
      store := (s.usesEnded r cause).store.cleared
      du := {}
      tb := none
      dp := (s.usesEnded r cause).dp.dropGate } := by
  simp only [State.endJob, hr, State.usesEnded]
  cases hrole : r.role <;> simp

theorem State.usesEnded_member {s : State} {r : JobRecord} {cause : EndCause} (h : r.role ≠ .source) :
    s.usesEnded r cause = (s.setQueue (s.lc.queue.filter fun f => !f.ofJob r.jobId)).copyJobEnd cause := by
  simp [State.usesEnded, h]

theorem State.usesEnded_source {s : State} {r : JobRecord} {cause : EndCause} (h : r.role = .source) :
    s.usesEnded r cause
      = ((s.setQueue (s.lc.queue.filter fun f => !f.ofJob r.jobId)).copyJobEnd cause).sourceEnding := by
  simp [State.usesEnded, h]

theorem State.usesEnded_mem (s : State) (r : JobRecord) (cause : EndCause) :
    (s.usesEnded r cause).store.mem = s.store.mem := by
  unfold State.usesEnded
  split <;> simp

theorem State.usesEnded_paused (s : State) (r : JobRecord) (cause : EndCause) :
    (s.usesEnded r cause).cs.paused = false := by
  unfold State.usesEnded
  split <;> simp [State.copyJobEnd_paused]

section
variable {s : State} {r : JobRecord} {cause : EndCause} (hr : s.jc.record = some r)
include hr

/-- No frame of the job stays in the queue. -/
theorem State.endJob_queue {g : Frame} (hg : g ∈ (s.endJob cause).lc.queue) : g.ofJob r.jobId = false := by
  have hu : g ∈ (s.usesEnded r cause).lc.queue := by simpa [State.endJob_eq cause hr] using hg
  have hq : g ∈ ((s.setQueue (s.lc.queue.filter fun f => !f.ofJob r.jobId)).copyJobEnd cause).lc.queue := by
    unfold State.usesEnded at hu
    split at hu <;> simpa using hu
  simpa [State.setQueue] using (List.mem_filter.1 (State.copyJobEnd_queue cause _ g hq)).2

/-- The store is at its reset value but for the slots' bytes. -/
theorem State.endJob_store : (s.endJob cause).store = { mem := s.store.mem } := by
  simp [State.endJob_eq cause hr, Store.cleared, State.usesEnded_mem]

theorem State.endJob_cs : (s.endJob cause).cs = (s.usesEnded r cause).cs := by simp [State.endJob_eq cause hr]

theorem State.endJob_ss : (s.endJob cause).ss = (s.usesEnded r cause).ss := by simp [State.endJob_eq cause hr]

theorem State.endJob_pc : (s.endJob cause).pc = (s.usesEnded r cause).pc := by simp [State.endJob_eq cause hr]

/-- The lines that the end of the use has dropped stay down. -/
theorem State.endJob_lines :
    (s.endJob cause).dp.motor = (s.usesEnded r cause).dp.motor
    ∧ (s.endJob cause).dp.select = (s.usesEnded r cause).dp.select
    ∧ (s.endJob cause).dp.ejectEnds = (s.usesEnded r cause).dp.ejectEnds
    ∧ ((s.usesEnded r cause).dp.lock = false → (s.endJob cause).dp.lock = false) := by
  simp only [State.endJob_eq cause hr, State.idlePort_eq]
  split <;> simp [Drive.atRest, Drive.dropGate]

/-- Where no Source Sequencer is in ENDING the port has no user, and its lines are at rest (R137). -/
theorem State.endJob_atRest (h : (s.usesEnded r cause).ss.state ≠ .ending) :
    (s.endJob cause).dp.head = false ∧ (s.endJob cause).dp.dir = false ∧ (s.endJob cause).dp.step = false
    ∧ (s.endJob cause).dp.lock = false ∧ (s.endJob cause).dp.wgate = false := by
  simp only [State.endJob_eq cause hr, State.idlePort_eq]
  rw [if_pos (by simp [State.portUser, h])]
  simp [Drive.atRest, Drive.dropGate]

end

/-! ### JOB CLOSE and JOB ABANDON, heard -/

/-- A cause of the job's end brings the abandon sequence where it is an abandon (R168). -/
def State.sequenceOf (cause : EndCause) (s : State) : State :=
  match cause with
  | .abandon reason => s.startSequence reason
  | _ => s

/-- The frame of a job's end with its cause, and what sets the opener's next serial base. -/
structure EndFrame (f : Rx) (c : Instr) (cause : EndCause) (k : FrameKey) (base : JobRecord → Nat) : Prop where
  plain : ∀ t r, k ≠ .release t r
  heard : ∀ {s : State} {r : JobRecord}, s.receives → s.jc.record = some r → f.jobId = r.jobId →
    exec c s = .next (((((s.heard k f.sender).setNextBase base).endJob cause).sequenceOf cause).afterCompletion s)

theorem endFrame_close {f : Rx} {carried : Nat} (hp : parseClose f.body = some carried) :
    EndFrame f (.jobClose f) .close .jobClose (JobRecord.nextBaseAtClose carried) where
  plain := by simp
  heard h hr hj := congrArg Host.Outcome.next
    (State.completed_own (k := fun _ => .jobClose) (raw := []) (note := State.clearNote f.jobId)
      (apply := State.closeHeard) h hp (State.heard_record _ (by simp) hr) hj)

theorem endFrame_abandon {f : Rx} {reason : AbandonReason} (hp : parseAbandon f.body = some reason) :
    EndFrame f (.jobAbandon f) (.abandon reason) .jobAbandon JobRecord.nextBase where
  plain := by simp
  heard h hr hj := congrArg Host.Outcome.next
    (State.completed_own (k := fun _ => .jobAbandon) (raw := []) (note := State.clearNote f.jobId)
      (apply := State.abandonHeard) h hp (State.heard_record _ (by simp) hr) hj)

/-- The state that the end of the job starts from: the frame heard, and the opener's next serial base set. -/
def State.ending (k : FrameKey) (i : StationId) (base : JobRecord → Nat) (s : State) : State :=
  (s.heard k i).setNextBase base

@[simp] theorem State.ending_kept (k : FrameKey) (i : StationId) (base : JobRecord → Nat) (s : State) :
    (s.ending k i base).now = s.now ∧ (s.ending k i base).station = s.station ∧ (s.ending k i base).cs = s.cs
    ∧ (s.ending k i base).ss = s.ss ∧ (s.ending k i base).dp = s.dp ∧ (s.ending k i base).pc = s.pc
    ∧ (s.ending k i base).lc.presence = s.lc.presence ∧ (s.ending k i base).lc.foreign = s.lc.foreign
    ∧ (s.ending k i base).jc.seq = s.jc.seq ∧ (s.ending k i base).store.mem = s.store.mem := by
  simp [State.ending]

theorem State.ending_record {k : FrameKey} (i : StationId) (base : JobRecord → Nat) {s : State} {r : JobRecord}
    (hk : ∀ t r, k ≠ .release t r) (hr : s.jc.record = some r) : (s.ending k i base).jc.record = some r := by
  simp [State.ending, State.heard_record i hk hr]

/-- The opener's next serial base follows its record; another station's stays (R75). -/
theorem State.ending_base {k : FrameKey} (i : StationId) (base : JobRecord → Nat) {s : State} {r : JobRecord}
    (hk : ∀ t r, k ≠ .release t r) (hr : s.jc.record = some r) :
    (s.ending k i base).jc.nextBase = if r.opener = s.station then base r else s.jc.nextBase := by
  have hh := State.heard_record i hk hr
  split
  · rename_i ho
    exact State.setNextBase_opener hh (by simpa using ho)
  · rename_i ho
    rw [State.ending, State.setNextBase_other]
    · simp
    · intro r' hr'
      obtain rfl : r = r' := Option.some.inj (hh.symm.trans hr')
      simpa using ho

@[simp] theorem State.sequenceOf_kept (cause : EndCause) (s : State) :
    (s.sequenceOf cause).now = s.now ∧ (s.sequenceOf cause).station = s.station ∧ (s.sequenceOf cause).lc = s.lc
    ∧ (s.sequenceOf cause).jc = s.jc ∧ (s.sequenceOf cause).store = s.store ∧ (s.sequenceOf cause).du = s.du
    ∧ (s.sequenceOf cause).cs = s.cs ∧ (s.sequenceOf cause).ss = s.ss ∧ (s.sequenceOf cause).tb = s.tb
    ∧ (s.sequenceOf cause).dp = s.dp ∧ (s.sequenceOf cause).pc.history = s.pc.history
    ∧ (s.sequenceOf cause).pc.params = s.pc.params ∧ (s.sequenceOf cause).pc.directory = s.pc.directory
    ∧ (s.sequenceOf cause).pc.refusal = s.pc.refusal := by
  cases cause <;> simp [State.sequenceOf]

section
variable {f : Rx} {c : Instr} {cause : EndCause} {k : FrameKey} {base : JobRecord → Nat} {s : State} {r : JobRecord}

/-- The state after the frame of a job's end. -/
def State.jobEnded (k : FrameKey) (i : StationId) (base : JobRecord → Nat) (cause : EndCause) (s : State) : State :=
  (((s.ending k i base).endJob cause).sequenceOf cause).afterCompletion s

theorem EndFrame.exec (e : EndFrame f c cause k base) (h : s.receives) (hr : s.jc.record = some r)
    (hj : f.jobId = r.jobId) : exec c s = .next (s.jobEnded k f.sender base cause) := e.heard h hr hj

variable (hk : ∀ t r, k ≠ .release t r) (hr : s.jc.record = some r) (i : StationId)
include hk hr

/-- What follows the end of the job finds no record, and leaves cycle, port and history. -/
theorem State.jobEnded_uses :
    (s.jobEnded k i base cause).cs = ((s.ending k i base).endJob cause).cs
    ∧ (s.jobEnded k i base cause).ss = ((s.ending k i base).endJob cause).ss
    ∧ (s.jobEnded k i base cause).dp = ((s.ending k i base).endJob cause).dp
    ∧ (s.jobEnded k i base cause).pc.history = ((s.ending k i base).endJob cause).pc.history
    ∧ (s.jobEnded k i base cause).tb = ((s.ending k i base).endJob cause).tb := by
  have hy := State.ending_record i base hk hr
  have gone : (((s.ending k i base).endJob cause).sequenceOf cause).jc.record = none := by
    simp [State.endJob_fields _ _ cause hy]
  obtain ⟨cs, dp, pc, -⟩ := State.afterCompletion_noJob _ s gone
  refine ⟨cs.trans (by simp), by simp [State.jobEnded], dp.trans (by simp), (congrArg Panel.history pc).trans (by simp),
    (State.afterCompletion_noJob_tb gone).trans (by simp)⟩

/-- A frame left in the queue is none of the job. -/
theorem State.jobEnded_queue {g : Frame} (hg : g ∈ (s.jobEnded k i base cause).lc.queue) (hj : g.jobId = r.jobId) :
    g.body.cls < 1 ∨ 5 < g.body.cls := by
  have hy := State.ending_record i base hk hr
  rcases State.afterCompletion_noJob_queue _ s (by simp [State.endJob_fields _ _ cause hy]) g hg with hg | hg
  · have := State.endJob_queue hy (by simpa using hg)
    simp only [Frame.ofJob, hj, decide_true, Bool.true_and, Bool.and_eq_false_iff, decide_eq_false_iff_not] at this
    omega
  · simp [hg]

/-- What the end of the job leaves of the record, the store, the want list, the lines and the panel. -/
theorem State.jobEnded_leaves :
    let t := s.jobEnded k i base cause
    t.jc.record = none ∧ t.jc.stopDue = false ∧ t.jc.abandonDue = []
    ∧ t.store = { mem := s.store.mem } ∧ t.du = {} ∧ t.tb = none ∧ t.dp.wgate = false ∧ t.cs.paused = false
    ∧ t.jc.nextBase = (if r.opener = s.station then base r else s.jc.nextBase)
    ∧ t.now = s.now ∧ t.station = s.station ∧ t.lc.presence = s.lc.presence ∧ t.lc.foreign = s.lc.foreign
    ∧ t.jc.seq = s.jc.seq ∧ t.pc.params = s.pc.params ∧ t.pc.directory = s.pc.directory
    ∧ t.pc.refusal = s.pc.refusal := by
  intro t
  have hy := State.ending_record i base hk hr
  obtain ⟨record, stopDue, abandonDue, du, tb, wgate⟩ := State.endJob_fields _ _ cause hy
  obtain ⟨cs', -, dp', -, tb'⟩ := State.jobEnded_uses (base := base) (cause := cause) hk hr i
  refine ⟨?_, ?_, ?_, ?_, ?_, tb'.trans tb, ?_, ?_, ?_, ?_⟩
  · simp [t, State.jobEnded, record]
  · simp [t, State.jobEnded, stopDue]
  · simp [t, State.jobEnded, abandonDue]
  · simp [t, State.jobEnded, State.endJob_store hy]
  · simp [t, State.jobEnded, du]
  · exact (congrArg Drive.wgate dp').trans wgate
  · rw [cs', State.endJob_cs hy, State.usesEnded_paused]
  · rw [← State.ending_base i base hk hr]
    simp [t, State.jobEnded]
  · simp [t, State.jobEnded]

end

/-! ### The next serial base (R75) -/

theorem beNat_lt (bs : List Byte) : beNat bs < 256 ^ bs.length := by
  induction bs with
  | nil => simp [beNat]
  | cons b bs ih =>
    have hb : b.toNat * 256 ^ bs.length + 256 ^ bs.length ≤ 256 * 256 ^ bs.length := by
      rw [← Nat.succ_mul]
      exact Nat.mul_le_mul_right _ b.isLt
    rw [beNat_cons, List.length_cons, Nat.pow_succ]
    omega

theorem beAt_lt (bs : List Byte) (i k : Nat) : beAt bs i k < 256 ^ k :=
  Nat.lt_of_lt_of_le (beNat_lt _) (Nat.pow_le_pow_right (by decide) (List.length_take_le k (bs.drop i)))

/-- The base at JOB CLOSE where no serial has been heard: past the carried mark, if that is one (log 37). -/
theorem JobRecord.nextBaseAtClose_noneHeard {r : JobRecord} (bs : List Byte) (i : Nat) (h : r.noneHeard = true) :
    r.nextBaseAtClose (beAt bs i 4) = if beAt bs i 4 = 4294967295 then 0 else beAt bs i 4 + 1 := by
  have := beAt_lt bs i 4
  simp only [JobRecord.nextBaseAtClose, h, if_true, capNext, Config.max32]
  by_cases he : beAt bs i 4 = 4294967295
  · simp [he]
  · simp only [he, if_false]
    omega

theorem JobRecord.nextBaseAtClose_heard {r : JobRecord} (carried : Nat) (h : r.noneHeard = false) :
    r.nextBaseAtClose carried = min (max r.high carried + 1) 4294967295 := by
  simp [JobRecord.nextBaseAtClose, h, capNext, Config.max32]

theorem JobRecord.nextBase_heard {r : JobRecord} (h : r.noneHeard = false) :
    r.nextBase = min (r.high + 1) 4294967295 := by simp [JobRecord.nextBase, h, capNext, Config.max32]

theorem JobRecord.nextBase_noneHeard {r : JobRecord} (h : r.noneHeard = true) : r.nextBase = 0 := by
  simp [JobRecord.nextBase, h]

/-! ### A MEMBER's disk, the source and the port (R92, R119, R137) -/

section
variable {s : State} {r : JobRecord} {cause : EndCause} (hr : s.jc.record = some r)
include hr

/-- What the end of the job does to a MEMBER's disk (R92). -/
theorem State.endJob_member (hm : r.role = .member) :
    let t := s.endJob cause
    (s.cs.state = .spinup ∨ s.cs.state = .home ∨ s.cs.state = .claim → cause = .close →
      t.cs.state = .standby ∧ t.dp.motor = false ∧ t.dp.select = false ∧ t.dp.lock = false)
    ∧ (s.cs.state.busy = true → ¬(s.cs.state = .tally ∧ s.cs.pulled = true) →
      (cause = .close → s.cs.state ≠ .spinup ∧ s.cs.state ≠ .home ∧ s.cs.state ≠ .claim) →
      t.cs.state = .out ∧ t.cs.outcome = some .rejected ∧ t.dp.motor = false ∧ t.dp.lock = false
      ∧ t.cs.disk.first = some (s.cs.disk.first.getD .abandoned)
      ∧ (t.pc.history.getLast?.map fun h => (h.outcome, h.cause)) = some (.rejected, some cause))
    ∧ (s.cs.state = .tally → s.cs.pulled = true →
      t.cs.state = .empty
      ∧ (t.pc.history.getLast?.map fun h => (h.outcome, h.cause)) = some (.pulled, some cause))
    ∧ (s.cs.state.busy = false → t.cs.state = s.cs.state ∧ t.pc.history = s.pc.history) := by
  intro t
  obtain ⟨motor, select, -, lock⟩ := State.endJob_lines (cause := cause) hr
  have cs := State.endJob_cs (cause := cause) hr
  have pc := State.endJob_pc (cause := cause) hr
  rw [State.usesEnded_member (by simp [hm])] at motor select lock cs pc
  simp only [t, motor, select, cs, pc]
  refine ⟨fun hs hc => ?_, fun hb hp hc => ?_, fun hs hp => ?_, fun hb => ?_⟩
  · subst hc
    rw [State.copyJobEnd_unclaimed (by simpa using hs)] at lock ⊢
    exact ⟨rfl, by simp [Drive.stopMotor_lines], by simp [Drive.stopMotor_lines], lock rfl⟩
  · rw [State.copyJobEnd_abandons (by simpa using hb) (by simpa using hp) (by simpa using hc)] at lock ⊢
    obtain ⟨h1, h2, h3, h4, h5, h6⟩ := State.abandonDisk_out
      ((s.setQueue (s.lc.queue.filter fun f => !f.ofJob r.jobId)).mapCopy fun cs => { cs with paused := false }) cause
    exact ⟨h1, h2, h3, lock h4, by simpa [State.mapCopy] using h5, h6⟩
  · rw [State.copyJobEnd_pulled (by simpa using hs) (by simpa using hp)]
    exact ⟨by simp [State.leavePulled, State.mapCopy],
      by simp [State.leavePulled, State.appendHistory_last, Disk.entry]⟩
  · rw [State.copyJobEnd_idle (by simpa using hb)]
    simp [State.mapCopy]

/-- What the end of the job does to the source where no disk is in the copy cycle (R119). -/
theorem State.endJob_source (hs : r.role = .source) (hb : s.cs.state.busy = false) :
    let t := s.endJob cause
    (s.dp.diskin = true → t.ss = { s.ss with state := .ending, read := none, reserve := none, abandon := none }
      ∧ t.dp.motor = false ∧ t.dp.lock = false ∧ t.dp.ejectEnds = some (s.dp.ejectEnds.getD (s.now + 100000)))
    ∧ (s.dp.diskin = false → t.ss = {} ∧ t.dp.motor = false ∧ t.dp.lock = false) := by
  intro t
  obtain ⟨motor, -, eject, lock⟩ := State.endJob_lines (cause := cause) hr
  have ss := State.endJob_ss (cause := cause) hr
  rw [State.usesEnded_source hs, State.copyJobEnd_idle (by simpa using hb)] at motor eject lock ss
  simp only [t, motor, eject, ss]
  refine ⟨fun hd => ?_, fun hd => ?_⟩
  · obtain ⟨h1, h2, h3, h4⟩ := State.sourceEnding_eject
      (s := (s.setQueue (s.lc.queue.filter fun f => !f.ofJob r.jobId)).mapCopy fun cs => { cs with paused := false })
      (by simpa [State.mapCopy] using hd)
    exact ⟨by simpa [State.mapCopy] using h1, h2, lock h3, by simpa [State.mapCopy] using h4⟩
  · obtain ⟨h1, h2, h3⟩ := State.sourceEnding_empty
      (s := (s.setQueue (s.lc.queue.filter fun f => !f.ofJob r.jobId)).mapCopy fun cs => { cs with paused := false })
      (by simpa [State.mapCopy] using hd)
    exact ⟨h1, h2, lock h3⟩

end

/-- Where no pulse holds a Source Sequencer in ENDING, none is in ENDING after the end of the uses. -/
theorem State.usesEnded_notEnding {s : State} {r : JobRecord} {cause : EndCause}
    (h : r.role ≠ .source ∧ s.ss.state ≠ .ending ∨ r.role = .source ∧ s.dp.diskin = false) :
    (s.usesEnded r cause).ss.state ≠ .ending := by
  rcases h with ⟨hs, he⟩ | ⟨hs, hd⟩
  · simpa [State.usesEnded_member hs] using he
  · rw [State.usesEnded_source hs, (State.sourceEnding_empty (by simpa using hd)).1]
    simp

/-- Settles O26. -/
theorem jobCloseAndAbandonEndTheJob : Obligations.JobCloseAndAbandonEndTheJob := by
  refine ⟨fun f s r c reason h hr hj hc => ?_, fun f s r c cause h hr hj hc => ?_⟩
  · rcases hc with ⟨rfl, hl, rfl⟩ | ⟨rfl, hp, hsome⟩
    · have e := endFrame_close (f := f) (carried := beAt f.body 13 4) (by simp [parseClose, hl])
      obtain ⟨record, stopDue, abandonDue, store, du, tb, wgate, paused, base, rest⟩ :=
        State.jobEnded_leaves (base := JobRecord.nextBaseAtClose (beAt f.body 13 4)) (cause := .close) e.plain hr f.sender
      obtain ⟨now, station, presence, foreign, seq, params, directory, refusal⟩ := rest
      refine ⟨_, e.exec h hr hj, record, stopDue, abandonDue, fun g hg => State.jobEnded_queue e.plain hr _ hg,
        store, du, tb, wgate, paused, fun ho hn => ⟨fun _ => ?_, by simp⟩, fun ho hn => ⟨fun _ => ?_, by simp⟩,
        fun ho => ?_, now, station, presence, foreign, seq, params, directory, refusal, ?_⟩
      · rw [base, if_pos ho, JobRecord.nextBaseAtClose_heard _ hn]
      · rw [base, if_pos ho, JobRecord.nextBaseAtClose_noneHeard _ _ hn]
      · rw [base, if_neg ho]
      · simp [State.jobEnded, State.sequenceOf]
    · obtain ⟨why, rfl⟩ := Option.isSome_iff_exists.mp hsome
      have e := endFrame_abandon hp
      obtain ⟨record, stopDue, abandonDue, store, du, tb, wgate, paused, base, rest⟩ :=
        State.jobEnded_leaves (base := JobRecord.nextBase) (cause := .abandon why) e.plain hr f.sender
      obtain ⟨now, station, presence, foreign, seq, params, directory, refusal⟩ := rest
      refine ⟨_, e.exec h hr hj, record, stopDue, abandonDue, fun g hg => State.jobEnded_queue e.plain hr _ hg,
        store, du, tb, wgate, paused, fun ho hn => ⟨by simp, fun _ => ?_⟩, fun ho hn => ⟨by simp, fun _ => ?_⟩,
        fun ho => ?_, now, station, presence, foreign, seq, params, directory, refusal, ?_⟩
      · rw [base, if_pos ho, JobRecord.nextBase_heard hn]
      · rw [base, if_pos ho, JobRecord.nextBase_noneHeard hn]
      · rw [base, if_neg ho]
      · simp [State.jobEnded, State.sequenceOf]
  · obtain ⟨k, base, e⟩ : ∃ k base, EndFrame f c cause k base := by
      rcases hc with ⟨rfl, hp, rfl⟩ | ⟨why, rfl, hp, rfl⟩
      · obtain ⟨carried, hp⟩ := Option.isSome_iff_exists.mp hp
        exact ⟨_, _, endFrame_close hp⟩
      · exact ⟨_, _, endFrame_abandon hp⟩
    have hy := State.ending_record f.sender base e.plain hr
    obtain ⟨cs, ss, dp, history, -⟩ := State.jobEnded_uses (base := base) (cause := cause) e.plain hr f.sender
    refine ⟨_, e.exec h hr hj, ?_⟩
    rw [cs, ss, dp, history]
    refine ⟨fun hm => ?_, fun hs hb => ?_, fun hp => ?_⟩
    · simpa only [State.ending_kept] using State.endJob_member hy hm (cause := cause)
    · simpa only [State.ending_kept] using State.endJob_source hy hs (by simpa using hb) (cause := cause)
    · exact State.endJob_atRest hy (State.usesEnded_notEnding (by simpa using hp))

end Sys2Proof.Machine
end

section
/-! PROOFS. What keeps a frame in the queue, a JOB ABANDON called for, and the count of bad frames, to the end of a
command. -/

namespace Sys2Proof.Machine

/-! ### Frames that stay queued -/

/-- What follows a completion keeps every frame but a CLAIM and a JOB CLOSE. -/
theorem State.afterCompletion_keeps (x s : State) {k : FrameKey} (hclaim : k ≠ .claim) (hclose : k ≠ .jobClose)
    (h : x.lc.has k = true) : (x.afterCompletion s).lc.has k = true := by
  have tested : (s.holdOffReturn x).lc.has k = true := by
    unfold State.holdOffReturn State.holdOffTest
    repeat' split
    · exact x.enter_keeps _ _ _ h
    all_goals exact h
  have refilled : (s.holdOffReturn x).claimRefill.lc.has k = true := by
    unfold State.claimRefill
    repeat' split
    · exact State.refill_keeps _ _ _ _ hclaim.symm tested
    · rw [Link.has_queue (State.claimWithdrawn_queue _)]
      exact State.withdrawKey_keeps _ _ _ hclaim.symm tested
    all_goals exact tested
  have again : (s.holdOffReturn x).claimRefill.claimAgain.lc.has k = true := by
    unfold State.claimAgain State.askClaim
    repeat' split
    · exact State.enter_keeps _ _ _ _ refilled
    · rw [Link.has_queue (State.toStandby_queue _)]
      exact refilled
    all_goals exact refilled
  have tallied : (s.holdOffReturn x).claimRefill.claimAgain.enterTally.lc.has k = true := by
    unfold State.enterTally
    repeat' split
    · exact State.enter_keeps _ _ _ _ again
    all_goals exact again
  unfold State.afterCompletion State.closeLapse
  split
  · exact tallied
  · exact State.withdrawKey_keeps _ _ _ hclose.symm tallied

section
variable {k : FrameKey} (hk : ∀ t, k ≠ .want t)
include hk

theorem State.removeWant_keeps (t : Nat) {s : State} (h : s.lc.has k = true) : (s.removeWant t).lc.has k = true := by
  unfold State.removeWant
  split
  · exact State.withdrawKey_keeps _ _ _ (hk t).symm h
  · exact h

theorem State.removeWants_keeps (l : List Want) {s : State} (h : s.lc.has k = true) :
    (s.removeWants l).lc.has k = true := by
  induction l generalizing s with
  | nil => exact h
  | cons w l ih => exact ih (State.removeWant_keeps hk w.track h)

/-- Home repair withdraws WANTs alone. -/
theorem State.homeRepair_keeps {s : State} (h : s.lc.has k = true) : s.homeRepair.lc.has k = true := by
  cases hr : s.jc.record with
  | none => simpa [State.homeRepair, hr] using h
  | some r =>
    by_cases hc : r.kind = .copy ∧ r.role ≠ .observer
    · rw [State.homeRepair_eq hr hc.1 hc.2]
      exact State.removeWants_keeps hk _ h
    · rw [State.homeRepair_none hr (by cases hkind : r.kind <;> simp_all)]
      exact h

theorem State.needTestOf_keeps (u : Nat) {s : State} (h : s.lc.has k = true) : (s.needTestOf u).lc.has k = true := by
  unfold State.needTestOf
  repeat' split
  case isTrue.isFalse.isTrue => exact s.unobtainable_keeps _ hk h
  case isTrue.isFalse.isFalse.isTrue => exact State.enter_keeps _ _ _ _ h
  all_goals exact h

theorem State.needTest_keeps {s : State} (h : s.lc.has k = true) : s.needTest.lc.has k = true := by
  unfold State.needTest
  generalize s.window = l
  induction l generalizing s with
  | nil => exact h
  | cons u l ih => exact ih (State.needTestOf_keeps hk u h)

omit hk in
theorem State.feedOne_keeps {s : State} (h : s.lc.has k = true) : s.feedOne.lc.has k = true := by
  unfold State.feedOne
  repeat' split
  · exact State.enter_keeps _ _ _ _ h
  all_goals exact h

omit hk in
theorem State.repairFeed_keeps {s : State} (h : s.lc.has k = true) : s.repairFeed.lc.has k = true :=
  State.feedOne_keeps (State.feedOne_keeps (State.feedOne_keeps h))

/-- The Distribution Unit's tests withdraw WANTs alone. -/
theorem State.settle_keeps (x s : State) (h : x.lc.has k = true) : (x.settle s).lc.has k = true := by
  unfold State.settle
  refine State.repairFeed_keeps ?_
  repeat' split
  · exact State.needTest_keeps hk (State.repairFeed_keeps h)
  · exact State.needTest_keeps hk h
  · exact State.repairFeed_keeps h
  · exact h

end

/-! ### The reserve of JOB ABANDON, and bad frames counted -/

/-- Two states hold the same JOB ABANDONs in reserve and have counted the same bad frames. -/
def State.SameReserve (s t : State) : Prop :=
  s.jc.abandonDue = t.jc.abandonDue ∧ s.lc.counters.badFrames = t.lc.counters.badFrames

theorem State.SameReserve.trans {s t u : State} (h : s.SameReserve t) (h' : t.SameReserve u) : s.SameReserve u :=
  ⟨h.1.trans h'.1, h.2.trans h'.2⟩

theorem State.freeIfClosing_reserve (i : Nat) (s : State) : (s.freeIfClosing i).SameReserve s := by
  unfold State.freeIfClosing
  dsimp only
  repeat' split
  all_goals exact ⟨rfl, rfl⟩

theorem State.releaseDrivePin_reserve (s : State) : s.releaseDrivePin.SameReserve s := by
  unfold State.releaseDrivePin State.unpinned
  split
  · exact State.freeIfClosing_reserve _ _
  · exact ⟨rfl, rfl⟩

theorem State.endUse_reserve (s : State) : s.endUse.SameReserve s :=
  State.SameReserve.trans (t := s.stopWrite.endVerify.releaseDrivePin)
    ⟨by simp [State.endUse, State.mapCopy, State.stopMotor], by simp⟩
    ((State.releaseDrivePin_reserve _).trans ⟨by simp, by simp⟩)

theorem State.enterOut_reserve (o : DiskOutcome) (cause : Option EndCause) (s : State) :
    (s.enterOut o cause).SameReserve s := by
  refine ⟨by simp, ?_⟩
  cases o <;> simp [State.enterOut, State.appendHistory, Disk.entry, State.mapCopy]

theorem State.endDisk_reserve (o : DiskOutcome) (s : State) : (s.endDisk o).SameReserve s := by
  refine State.SameReserve.trans ?_ s.endUse_reserve
  unfold State.endDisk
  dsimp only
  split
  · exact ⟨by simp, by simp⟩
  · exact State.enterOut_reserve _ _ _

theorem State.unobtainable_reserve (s : State) : s.unobtainable.SameReserve s := by
  unfold State.unobtainable
  split
  · exact (State.endDisk_reserve _ _).trans ⟨by simp, by simp⟩
  · exact ⟨rfl, rfl⟩

theorem State.needTestOf_reserve (u : Nat) (s : State) : (s.needTestOf u).SameReserve s := by
  unfold State.needTestOf
  repeat' split
  case isTrue.isFalse.isTrue => exact s.unobtainable_reserve
  all_goals exact ⟨by simp, by simp⟩

theorem State.needTest_reserve (s : State) : s.needTest.SameReserve s := by
  unfold State.needTest
  generalize s.window = l
  induction l generalizing s with
  | nil => exact ⟨rfl, rfl⟩
  | cons u l ih => exact (ih _).trans (s.needTestOf_reserve u)

theorem State.repairFeed_reserve (s : State) : s.repairFeed.SameReserve s := ⟨by simp, by simp⟩

theorem State.settle_reserve (x s : State) : (x.settle s).SameReserve x := by
  unfold State.settle
  refine (State.repairFeed_reserve _).trans ?_
  repeat' split
  · exact (State.needTest_reserve _).trans x.repairFeed_reserve
  · exact State.needTest_reserve x
  · exact x.repairFeed_reserve
  · exact ⟨rfl, rfl⟩

theorem State.afterCompletion_reserve (x s : State) : (x.afterCompletion s).SameReserve x :=
  ⟨by simp, by rw [State.afterCompletion_counters]⟩

/-! ### A JOB ABANDON called for (R17) -/

/-- A JOB ABANDON for a reason is called for: one is queued, or the reason is held in reserve. -/
def State.abandons (reason : AbandonReason) (s : State) : Prop :=
  s.lc.has .jobAbandon = true ∨ reason ∈ s.jc.abandonDue

theorem State.abandons_of {reason : AbandonReason} {s t : State} (h : s.abandons reason)
    (hq : s.lc.has .jobAbandon = true → t.lc.has .jobAbandon = true) (hd : t.jc.abandonDue = s.jc.abandonDue) :
    t.abandons reason := by
  rcases h with h | h
  · exact Or.inl (hq h)
  · exact Or.inr (hd ▸ h)

/-- A JOB ABANDON entered while a record is held is queued or held in reserve. -/
theorem State.enterAbandon_abandons {reason : AbandonReason} {s : State} {r : JobRecord} (hr : s.jc.record = some r) :
    (s.enterAbandon reason).abandons reason := by
  simp only [State.enterAbandon, hr]
  split
  · left
    simp [Link.has, Frame.key, Body.key]
  · right
    unfold State.reserveAbandon
    split <;> simp_all

/-- What ends a command keeps a JOB ABANDON called for. -/
theorem State.settled_abandons {reason : AbandonReason} {x : State} (s s' : State) (h : x.abandons reason) :
    ((x.afterCompletion s).settle s').abandons reason :=
  State.abandons_of (s := x.afterCompletion s)
    (State.abandons_of h (State.afterCompletion_keeps x s (by simp) (by simp)) (State.afterCompletion_reserve x s).1)
    (State.settle_keeps (by simp) _ s') (State.settle_reserve _ s').1

end Sys2Proof.Machine
end

section
/-! PROOFS. Departure at CALL FIRST (R16, R17, R160). -/

namespace Sys2Proof.Machine

/-! ### The departed station (R10, R16) -/

theorem inMask_addMask (m : StationMask) (i x : StationId) : inMask (addMask m i) x = (inMask m x || decide (x = i)) := by
  have := bit_station x i
  simp only [inMask, addMask, BitVec.getLsbD_or]
  rw [← this]
  rfl

/-- The record with a station departed and its claim void (R16). -/
def JobRecord.departing (i : StationId) (r : JobRecord) : JobRecord :=
  { r with
    departed := addMask r.departed i
    void := r.void + if r.claims.any (fun c => decide (c.station = i)) then 1 else 0
    claims := r.claims.eraseP fun c => decide (c.station = i) }

/-- A departure makes this station the closing station, or finds it so when the opener departs (R17). -/
def JobRecord.comesToClose (r : JobRecord) (i station : StationId) : Prop :=
  (r.departing i).closing = some station ∧ (r.closing ≠ some station ∨ i = r.opener)

section
variable {s : State} {r : JobRecord} {i : StationId} (hr : s.jc.record = some r) (hin : inMask r.roster i = true)
  (hout : inMask r.departed i = false)
include hr hin hout

/-- The last roster station departs: the job ends here (R16). -/
theorem State.depart_last (h : (r.departing i).remaining = []) :
    s.depart i = State.endJob .close { s with jc := { s.jc with record := some (r.departing i) } } := by
  have e : ({ r with departed := addMask r.departed i } : JobRecord).voidEntry i = r.departing i := by
    rw [JobRecord.voidEntry_eq]; rfl
  simp only [State.depart, hr, hin, hout, e, h]
  rfl

/-- A departure that leaves this station closing: the SOURCE LOST test, the close test, home repair and the start test,
in this order (R11, R17, R20, R78). -/
theorem State.depart_closes (h : (r.departing i).remaining ≠ []) (hc : r.comesToClose i s.station) :
    s.depart i = (State.homeRepair (State.closeTest (State.sourceLostTest
      { s with jc := { s.jc with record := some (r.departing i) } }))).startTest := by
  have e : ({ r with departed := addMask r.departed i } : JobRecord).voidEntry i = r.departing i := by
    rw [JobRecord.voidEntry_eq]; rfl
  have became : (decide ((r.departing i).closing = some s.station)
      && (decide (r.closing ≠ some s.station) || decide (i = r.opener))) = true := by simpa [JobRecord.comesToClose] using hc
  simp only [State.depart, hr, hin, hout, e, List.isEmpty_iff, h, became]
  rfl

/-- Any other departure goes without the SOURCE LOST test. -/
theorem State.depart_stays (h : (r.departing i).remaining ≠ []) (hc : ¬ r.comesToClose i s.station) :
    s.depart i = (State.homeRepair (State.closeTest
      { s with jc := { s.jc with record := some (r.departing i) } })).startTest := by
  have e : ({ r with departed := addMask r.departed i } : JobRecord).voidEntry i = r.departing i := by
    rw [JobRecord.voidEntry_eq]; rfl
  have became : (decide ((r.departing i).closing = some s.station)
      && (decide (r.closing ≠ some s.station) || decide (i = r.opener))) = false := by
    rw [← Bool.not_eq_true]
    simpa [JobRecord.comesToClose] using hc
  simp only [State.depart, hr, hin, hout, e, List.isEmpty_iff, h, became]
  rfl

end

/-- Home repair leaves what is held in reserve of JOB ABANDON. -/
theorem State.homeRepair_due (s : State) : s.homeRepair.jc.abandonDue = s.jc.abandonDue := by
  cases hr : s.jc.record with
  | none => simp [State.homeRepair, hr]
  | some r =>
    by_cases hc : r.kind = .copy ∧ r.role ≠ .observer
    · simp [State.homeRepair_eq hr hc.1 hc.2, State.removeWants_jc]
    · rw [State.homeRepair_none hr (by cases hkind : r.kind <;> simp_all)]

/-! ### SOURCE LOST (R17) -/

/-- The conditions of R17 on which a closing station abandons a job whose opener has departed. -/
def State.sourceLost (s : State) (r : JobRecord) : Prop :=
  r.kind = .copy ∧ inMask r.departed r.opener = true ∧ r.closing = some s.station ∧ r.mark < r.tracks
  ∧ s.closeConditions = false

theorem State.sourceLostTest_lost {s : State} {r : JobRecord} (hr : s.jc.record = some r) (h : s.sourceLost r) :
    s.sourceLostTest = s.enterAbandon .sourceLost := by
  simp only [State.sourceLostTest, hr]
  exact if_pos h

theorem State.sourceLostTest_calm {s : State} {r : JobRecord} (hr : s.jc.record = some r) (h : ¬ s.sourceLost r) :
    s.sourceLostTest = s := by
  simp only [State.sourceLostTest, hr]
  exact if_neg h

/-! ### CALL FIRST, heard (R160) -/

theorem execCallFirst_heard {f : Rx} {s : State} {b : CallBody} (h : s.receives) (hb : parseCall f.body = some b)
    (hf : b.first = true) :
    exec (.callFirst f) s = .next
      ((((s.heard (.call true) f.sender).callFirstHeard f.sender b).afterCompletion s).settle s) := by
  have hp : (parseCall f.body).filter (·.first) = some b := by simp [hb, hf]
  exact congrArg (fun x => Host.Outcome.next (State.settle x s)) (State.completed_heard _ _ _ _ _ _ _ h hp (.call true) rfl)

/-- CALL FIRST heard, with the departure it makes: a CALL ANSWER is entered to another station's. -/
theorem execCallFirst_departs {f : Rx} {s x : State} {b : CallBody} (h : s.receives) (hb : parseCall f.body = some b)
    (hf : b.first = true) (hx : ((s.heard (.call true) f.sender).present f.sender b).depart f.sender = x)
    (hp : x.pc.params = s.pc.params) :
    exec (.callFirst f) s = .next (State.settle (State.afterCompletion
      (if f.sender = s.station then x else x.enter (.call false s.pc.params.fitted 0) 0) s) s) := by
  rw [execCallFirst_heard h hb hf, State.callFirstHeard, hx, hp]
  simp

/-- The state of a CALL FIRST of a roster station, with the presence entry and the departure made. -/
def State.departedNow (s : State) (r : JobRecord) (b : CallBody) (i : StationId) : State :=
  let x := (s.heard (.call true) i).present i b
  { x with jc := { x.jc with record := some (r.departing i) } }

section
variable {f : Rx} {s : State} {b : CallBody} {r : JobRecord} (h : s.receives) (hb : parseCall f.body = some b)
  (hf : b.first = true) (hr : s.jc.record = some r) (hin : inMask r.roster f.sender = true)
  (hout : inMask r.departed f.sender = false)
include h hb hf hr hin hout

theorem execCallFirst_closes (hl : (r.departing f.sender).remaining ≠ []) (hc : r.comesToClose f.sender s.station) :
    let x := ((s.departedNow r b f.sender).sourceLostTest.closeTest.homeRepair).startTest
    exec (.callFirst f) s = .next (State.settle (State.afterCompletion
      (if f.sender = s.station then x else x.enter (.call false s.pc.params.fitted 0) 0) s) s) := by
  refine execCallFirst_departs h hb hf (State.depart_closes ?_ hin hout hl ?_) (by simp [State.departedNow])
  · simpa using State.heard_record f.sender (k := .call true) (by simp) hr
  · simpa using hc

theorem execCallFirst_stays (hl : (r.departing f.sender).remaining ≠ []) (hc : ¬ r.comesToClose f.sender s.station) :
    let x := ((s.departedNow r b f.sender).closeTest.homeRepair).startTest
    exec (.callFirst f) s = .next (State.settle (State.afterCompletion
      (if f.sender = s.station then x else x.enter (.call false s.pc.params.fitted 0) 0) s) s) := by
  refine execCallFirst_departs h hb hf (State.depart_stays ?_ hin hout hl ?_) (by simp [State.departedNow])
  · simpa using State.heard_record f.sender (k := .call true) (by simp) hr
  · simpa using hc

theorem execCallFirst_last (hl : (r.departing f.sender).remaining = []) :
    let x := (s.departedNow r b f.sender).endJob .close
    exec (.callFirst f) s = .next (State.settle (State.afterCompletion
      (if f.sender = s.station then x else x.enter (.call false s.pc.params.fitted 0) 0) s) s) := by
  refine execCallFirst_departs h hb hf (State.depart_last ?_ hin hout hl) (by simp [State.departedNow])
  simpa using State.heard_record f.sender (k := .call true) (by simp) hr

end

/-! ### What is left of the record and the rest -/

/-- The end of a CALL FIRST of another station: the CALL ANSWER, and what every completion is followed by. -/
def State.answered (s x : State) : State :=
  State.settle (State.afterCompletion (x.enter (.call false s.pc.params.fitted 0) 0) s) s

/-- An operation keeps the Source Sequencer and the record, up to its home tracks. -/
structure State.KeepsRecord (t s : State) : Prop where
  record   : t.departed = s.departed ∧ t.fixed = s.fixed ∧ t.jobState = s.jobState ∧ t.mark = s.mark
    ∧ t.account = s.account
  source   : t.ss = s.ss
  now      : t.now = s.now
  bytes    : t.store.mem = s.store.mem
  foreign  : t.lc.foreign = s.lc.foreign
  params   : t.pc.params = s.pc.params

theorem State.answered_keeps (s x : State) : (s.answered x).KeepsRecord x := by
  constructor <;>
    simp [State.answered, State.departed, State.fixed, State.jobState, State.mark, State.account]

/-- The tests of a departure keep the record that it leaves. -/
theorem State.departTests_keep (s : State) : (s.closeTest.homeRepair).startTest.KeepsRecord s := by
  constructor <;> simp [State.departed, State.fixed, State.jobState, State.mark, State.account]

theorem State.sourceLostTest_keeps (s : State) : s.sourceLostTest.KeepsRecord s := by
  constructor <;> simp [State.departed, State.fixed, State.jobState, State.mark, State.account]

theorem State.KeepsRecord.trans {s t u : State} (h : s.KeepsRecord t) (h' : t.KeepsRecord u) : s.KeepsRecord u where
  record := by
    obtain ⟨h1, h2, h3, h4, h5⟩ := h.record
    obtain ⟨g1, g2, g3, g4, g5⟩ := h'.record
    exact ⟨h1.trans g1, h2.trans g2, h3.trans g3, h4.trans g4, h5.trans g5⟩
  source := h.source.trans h'.source
  now := h.now.trans h'.now
  bytes := h.bytes.trans h'.bytes
  foreign := h.foreign.trans h'.foreign
  params := h.params.trans h'.params

/-- The tests of a departure and the CALL ANSWER keep a JOB ABANDON called for. -/
theorem State.departTests_abandons {reason : AbandonReason} {x : State} (s : State) (h : x.abandons reason) :
    (s.answered ((x.closeTest.homeRepair).startTest)).abandons reason := by
  have closed : x.closeTest.abandons reason := by
    refine State.abandons_of h (fun hq => ?_) (by simp)
    unfold State.closeTest
    repeat' split
    · exact State.enter_keeps _ _ _ _ hq
    all_goals exact hq
  have repaired : x.closeTest.homeRepair.abandons reason :=
    State.abandons_of closed (State.homeRepair_keeps (by simp)) (State.homeRepair_due _)
  have started : x.closeTest.homeRepair.startTest.abandons reason :=
    State.abandons_of repaired (fun hq => by rwa [Link.has_queue (State.startTest_queue _)]) (by simp)
  exact State.settled_abandons s s (State.abandons_of started (State.enter_keeps _ _ _ _) (by simp))

theorem State.departedNow_record (s : State) (r : JobRecord) (b : CallBody) (i : StationId) :
    (s.departedNow r b i).jc.record = some (r.departing i) := rfl

@[simp] theorem State.departedNow_kept (s : State) (r : JobRecord) (b : CallBody) (i : StationId) :
    (s.departedNow r b i).now = s.now ∧ (s.departedNow r b i).store.mem = s.store.mem
    ∧ (s.departedNow r b i).lc.foreign = s.lc.foreign ∧ (s.departedNow r b i).pc.params = s.pc.params
    ∧ (s.departedNow r b i).ss = s.ss ∧ (s.departedNow r b i).jc.nextBase = s.jc.nextBase
    ∧ (s.departedNow r b i).station = s.station := by
  simp [State.departedNow]

/-- Where the departed station was the last, the CALL ANSWER is all that follows the end of the job. -/
theorem State.answered_last (s : State) (r : JobRecord) (b : CallBody) (i : StationId) :
    let t := s.answered ((s.departedNow r b i).endJob .close)
    t.now = s.now ∧ t.store.mem = s.store.mem ∧ t.lc.foreign = s.lc.foreign ∧ t.pc.params = s.pc.params
    ∧ t.jc.record = none ∧ t.store = { mem := s.store.mem } ∧ t.du = {} ∧ t.jc.nextBase = s.jc.nextBase := by
  have hrec := s.departedNow_record r b i
  obtain ⟨gone, -, -, du, -, -⟩ := State.endJob_fields _ _ .close hrec
  rw [State.answered, State.settle_noJob _ _ (by simp [gone])]
  simp [gone, du, State.endJob_store hrec]

/-- A departure that goes on, with or without the SOURCE LOST test, keeps the record that it leaves. -/
theorem State.answered_departed {s x : State} {r : JobRecord} {b : CallBody} {i : StationId}
    (hr : s.jc.record = some r) (hx : x.KeepsRecord (s.departedNow r b i)) :
    let t := s.answered ((x.closeTest.homeRepair).startTest)
    (t.now = s.now ∧ t.store.mem = s.store.mem ∧ t.lc.foreign = s.lc.foreign ∧ t.pc.params = s.pc.params)
    ∧ t.departed = some (addMask r.departed i) ∧ t.fixed = s.fixed ∧ t.jobState = s.jobState ∧ t.mark = s.mark
    ∧ t.ss = s.ss ∧ t.account = some (r.departing i).account := by
  have kept := (s.answered_keeps _).trans (x.departTests_keep.trans hx)
  obtain ⟨departed, fixed, jobState, mark, account⟩ := kept.record
  refine ⟨⟨kept.now.trans (by simp), kept.bytes.trans (by simp), kept.foreign.trans (by simp),
    kept.params.trans (by simp)⟩, departed.trans rfl, fixed.trans ?_, jobState.trans ?_, mark.trans ?_,
    kept.source.trans (by simp), account.trans rfl⟩
  all_goals simp only [State.fixed, State.jobState, State.mark, State.departedNow_record, hr]; rfl

/-- The departures on which R17 has this station abandon an open COPY job below T. -/
theorem JobRecord.departing_loses {s : State} {r : JobRecord} (b : CallBody) {i : StationId} (hk : r.kind = .copy)
    (hhead : (r.departing i).remaining.head? = some s.station) (hmark : r.mark < r.tracks) (ho : r.state = .opened)
    (hwho : i = r.opener ∨ inMask r.departed r.opener = true ∧ r.remaining.head? ≠ some s.station) :
    r.comesToClose i s.station ∧ (s.departedNow r b i).sourceLost (r.departing i) := by
  have gone : inMask (addMask r.departed i) r.opener = true := by
    rw [inMask_addMask]
    rcases hwho with rfl | ⟨hd, -⟩ <;> simp [*]
  have closing : (r.departing i).closing = some s.station := by
    rw [JobRecord.closing, if_pos (show (r.departing i).openerGone = true from gone), hhead]
  refine ⟨⟨closing, ?_⟩, hk, gone, by simpa using closing, hmark, ?_⟩
  · rcases hwho with hi | ⟨hd, hh⟩
    · exact Or.inr hi
    · left
      rwa [JobRecord.closing, if_pos (show r.openerGone = true from hd)]
  · rw [← Bool.not_eq_true, State.closeConditions_iff (s.departedNow_record r b i)]
    rintro ⟨-, hd, -⟩
    simp [JobRecord.departing, ho] at hd

/-- Settles O51. -/
theorem callFirstDepartsARosterStation : Obligations.CallFirstDepartsARosterStation := by
  refine ⟨fun f s b r h hb hf hr hin hout hother => ?_, fun f s b r h hb hf hr hin hout => ?_, fun s r hr => ?_⟩
  · intro left
    by_cases hl : (r.departing f.sender).remaining = []
    · have run := execCallFirst_last h hb hf hr hin hout hl
      simp only [if_neg hother] at run
      obtain ⟨now, bytes, foreign, params, record, store, du, base⟩ := s.answered_last r b f.sender
      exact ⟨_, run, now, bytes, foreign, params, fun hn => absurd hl hn,
        fun _ hh => absurd (hh.symm.trans (congrArg List.head? hl)) (by simp), fun _ => ⟨record, store, du, base⟩⟩
    · by_cases hc : r.comesToClose f.sender s.station
      · have run := execCallFirst_closes h hb hf hr hin hout hl hc
        simp only [if_neg hother] at run
        obtain ⟨⟨now, bytes, foreign, params⟩, departed, fixed, jobState, mark, source, account⟩ :=
          State.answered_departed hr (s.departedNow r b f.sender).sourceLostTest_keeps
        refine ⟨_, run, now, bytes, foreign, params, fun _ => ⟨departed, fixed, jobState, mark, source, account⟩,
          fun hk hh hm ho hwho => State.departTests_abandons s ?_, fun hn => absurd hn hl⟩
        rw [State.sourceLostTest_lost (s.departedNow_record r b f.sender)
          (JobRecord.departing_loses b hk hh hm ho hwho).2]
        exact State.enterAbandon_abandons (s.departedNow_record r b f.sender)
      · have run := execCallFirst_stays h hb hf hr hin hout hl hc
        simp only [if_neg hother] at run
        obtain ⟨⟨now, bytes, foreign, params⟩, departed, fixed, jobState, mark, source, account⟩ :=
          State.answered_departed (x := s.departedNow r b f.sender) hr ⟨⟨rfl, rfl, rfl, rfl, rfl⟩, rfl, rfl, rfl, rfl, rfl⟩
        exact ⟨_, run, now, bytes, foreign, params, fun _ => ⟨departed, fixed, jobState, mark, source, account⟩,
          fun hk hh hm ho hwho => absurd (JobRecord.departing_loses b hk hh hm ho hwho).1 hc, fun hn => absurd hn hl⟩
  · intro heard left entry out closes goesOn
    exact ⟨execCallFirst_closes h hb hf hr hin hout, execCallFirst_stays h hb hf hr hin hout,
      execCallFirst_last h hb hf hr hin hout⟩
  · exact ⟨State.sourceLostTest_lost hr, State.sourceLostTest_calm hr⟩

end Sys2Proof.Machine
end

section
/-! PROOFS. JOB OPEN that creates the record (R1, R3, R6, R7, R110). -/

namespace Sys2Proof.Machine

/-! ### What a completion adds to the queue -/

theorem State.mem_queue_enter {s : State} {b : Body} {j : JobId} {g : Frame} (h : g ∈ (s.enter b j).lc.queue) :
    g ∈ s.lc.queue ∨ g.key = b.key := by
  unfold State.enter at h
  split at h
  · simp only [State.push_lc, List.mem_append, List.mem_singleton] at h
    exact h.imp id fun h => by rw [h]; rfl
  · exact Or.inl h

theorem State.mem_queue_withdrawKey {s : State} {k : FrameKey} {g : Frame} :
    g ∈ (s.withdrawKey k).lc.queue ↔ g ∈ s.lc.queue ∧ (g.key = k → g.started = true) := by
  by_cases hk : g.key = k <;> simp [State.withdrawKey, State.withdraw, State.setQueue, hk]

@[simp] theorem State.reserveAbandon_queue (reason : AbandonReason) (s : State) :
    (s.reserveAbandon reason).lc.queue = s.lc.queue := by
  unfold State.reserveAbandon
  split <;> rfl

theorem State.mem_queue_enterAbandon {reason : AbandonReason} {s : State} {g : Frame}
    (h : g ∈ (s.enterAbandon reason).lc.queue) : g ∈ s.lc.queue ∨ g.key = .jobAbandon := by
  unfold State.enterAbandon at h
  repeat' split at h
  · simp only [State.push_lc, List.mem_append, List.mem_singleton] at h
    exact h.imp id fun h => by rw [h]; rfl
  · rw [State.reserveAbandon_queue] at h
    exact Or.inl h
  · exact Or.inl h

theorem State.mem_queue_refill {s : State} {k : FrameKey} {b : Body} {g : Frame} (hb : b.key = k)
    (h : g ∈ (s.refill k b).lc.queue) : g ∈ s.lc.queue ∨ g.key = k := by
  simp only [State.refill, State.mapFrame_lc, List.mem_map] at h
  obtain ⟨f, hf, rfl⟩ := h
  split
  · exact Or.inr hb
  · exact Or.inl hf

/-- A completion is followed by no frame but a HOLD-OFF, a CLAIM and a TALLY. -/
theorem State.mem_queue_afterCompletion {x s : State} {g : Frame} (h : g ∈ (x.afterCompletion s).lc.queue) :
    g ∈ x.lc.queue ∨ g.key = .holdOff ∨ g.key = .claim ∨ g.key = .tally := by
  have lapsed : g ∈ (s.holdOffReturn x).claimRefill.claimAgain.enterTally.lc.queue := by
    unfold State.afterCompletion State.closeLapse at h
    split at h
    · exact h
    · exact (State.mem_queue_withdrawKey.1 h).1
  have tallied : g ∈ (s.holdOffReturn x).claimRefill.claimAgain.lc.queue ∨ g.key = .tally := by
    unfold State.enterTally at lapsed
    repeat' split at lapsed
    · exact State.mem_queue_enter lapsed
    all_goals exact Or.inl lapsed
  have again : g ∈ (s.holdOffReturn x).claimRefill.claimAgain.lc.queue →
      g ∈ (s.holdOffReturn x).claimRefill.lc.queue ∨ g.key = .claim := by
    unfold State.claimAgain State.askClaim
    repeat' split
    · exact State.mem_queue_enter
    · rw [State.toStandby_queue]; exact Or.inl
    all_goals exact Or.inl
  have refilled : g ∈ (s.holdOffReturn x).claimRefill.lc.queue → g ∈ (s.holdOffReturn x).lc.queue ∨ g.key = .claim := by
    unfold State.claimRefill
    repeat' split
    · exact State.mem_queue_refill rfl
    · rw [State.claimWithdrawn_queue]
      exact fun hg => Or.inl (State.mem_queue_withdrawKey.1 hg).1
    all_goals exact Or.inl
  have tested : g ∈ (s.holdOffReturn x).lc.queue → g ∈ x.lc.queue ∨ g.key = .holdOff := by
    unfold State.holdOffReturn State.holdOffTest
    repeat' split
    · exact State.mem_queue_enter
    all_goals exact Or.inl
  rcases tallied with hg | hg
  · rcases again hg with hg | hg
    · rcases refilled hg with hg | hg
      · exact (tested hg).imp id Or.inl
      · exact Or.inr (Or.inr (Or.inl hg))
    · exact Or.inr (Or.inr (Or.inl hg))
  · exact Or.inr (Or.inr (Or.inr hg))

/-- Outside CLAIM what follows a completion leaves the drive port. -/
theorem State.afterCompletion_dp {x s : State} (h : x.cs.state ≠ .claim) : (x.afterCompletion s).dp = x.dp := by
  have refilled : (s.holdOffReturn x).claimRefill.dp = x.dp ∧ (s.holdOffReturn x).claimRefill.cs.state ≠ .claim := by
    unfold State.claimRefill
    repeat' split
    · simp [h]
    · have hw : ((s.holdOffReturn x).withdrawKey .claim).cs.state ≠ .claim := by simpa using h
      rw [State.claimWithdrawn, if_neg hw]
      refine ⟨by simp, ?_⟩
      unfold State.pulledUnclaimed
      split
      · simp [State.leavePulled, State.mapCopy]
      · exact hw
    all_goals simp [h]
  have again : (s.holdOffReturn x).claimRefill.claimAgain.dp = x.dp := by
    rw [State.claimAgain_elsewhere refilled.2, refilled.1]
  simpa [State.afterCompletion] using again

/-! ### The start test (R78, R79) -/

/-- The start test takes up the disk that waits in STANDBY. -/
theorem State.startTest_spinsUp {s : State} (hs : s.cs.state = .standby) (hc : s.startConditions = true)
    (hw : s.dp.wprot = false) :
    s.startTest = { s with
      cs := { s.cs with state := .spinup, disk := {}, outcome := none, pulled := false, phase := none }
      dp := s.dp.spinUp s.now (s.pc.params.spinUpLimit * 1000) } := by
  simp only [State.startTest, hs, hc, and_self, if_true, State.startDisk, hw]
  rfl

/-- A protected disk goes from STANDBY to OUT. -/
theorem State.startTest_protected {s : State} (hs : s.cs.state = .standby) (hc : s.startConditions = true)
    (hw : s.dp.wprot = true) :
    s.startTest.cs.state = .out ∧ s.startTest.cs.disk.first = some .protected_ := by
  simp only [State.startTest, hs, hc, and_self, if_true, State.startDisk, hw]
  simp [State.enterOut, State.mapCopy, State.fault, State.mapDisk, Disk.record]

theorem Drive.spinUp_lines (now limit : Nat) (dp : Drive) :
    (dp.spinUp now limit).motor = true ∧ (dp.spinUp now limit).select = true ∧ (dp.spinUp now limit).lock = true
    ∧ (dp.spinUp now limit).qualify = some { limit := now + limit } := by
  simp [Drive.spinUp, Drive.startMotor]

theorem State.startTest_reserve (s : State) : s.startTest.SameReserve s := by
  unfold State.startTest State.startDisk
  dsimp only
  repeat' split
  · exact (State.enterOut_reserve _ _ _).trans ⟨rfl, rfl⟩
  all_goals exact ⟨rfl, rfl⟩

/-! ### The source opens (R110, R111) -/

theorem State.sourceOpen_present {s : State} (hd : s.dp.diskin = true) :
    s.sourceOpen = { s with
      ss := { state := .spinup, present := true, prot := s.dp.wprot }
      dp := s.dp.spinUp s.now (s.pc.params.spinUpLimit * 1000) } := by
  simp only [State.sourceOpen, hd, if_true]
  rfl

/-- Without the master the job is abandoned at once: the model's choice of how (log 26). -/
theorem State.sourceOpen_absent {s : State} (hd : s.dp.diskin = false) :
    s.sourceOpen = State.enterAbandon .masterRemoved { s with
      ss := { state := .spinup, prot := s.dp.wprot, abandon := some .masterRemoved } } := by
  simp only [State.sourceOpen, hd]
  rfl

/-! ### The record created (R1, R3, R6, R7) -/

/-- The home tracks that a station would keep in a job as opened (R7, R18). -/
def OpenBody.homes (b : OpenBody) (recipe : Recipe) (i : StationId) : List Nat :=
  match b.kind with
  | .copy => homesAmong (stationsOf b.roster) recipe.tracks b.r i
  | .format => []

theorem openRecipe_some {i : StationId} {b : OpenBody} {recipe : Recipe} (hrec : b.recipe = some recipe)
    (hin : inMask b.roster i = true) (h1 : 1 ≤ b.r) (h3 : b.r ≤ 3) (hbase : b.base ≤ b.limit)
    (hv : recipe.valid = true) (hf : recipe.serialsFit b.limit = true) : openRecipe i b = some recipe := by
  simp [openRecipe, hrec, inRange, hin, h1, h3, hbase, hv, hf]

/-- JOB OPEN that passes R6 in job state NONE creates the record. -/
theorem execJobOpen_creates {f : Rx} {b : OpenBody} {recipe : Recipe} {s : State} (h : s.receives)
    (hr : s.jc.record = none) (hb : parseOpen f.body = some b) (ho : openRecipe f.sender b = some recipe) :
    exec (.jobOpen f) s = .next (((s.heard .jobOpen f.sender).createRecord f b recipe).afterCompletion s) := by
  have hh : (s.heard .jobOpen f.sender).jc.record = none := State.heard_record _ (by simp) hr
  show Host.Outcome.next _ = _
  rw [State.completed_heard _ _ _ _ _ _ _ h hb .jobOpen rfl]
  simp [State.openHeard, hh, ho]

/-- The state in which the blocks take up the opened job: the record, the home tracks, and an own JOB OPEN overtaken. -/
def State.withRecord (r : JobRecord) (s : State) : State :=
  { s with
    jc := { s.jc with record := some r, stopDue := false, abandonDue := [] }
    lc := { s.lc with foreign := none }
    store := s.store.setHomes (r.ownHomes s.station)
    du := {} }.overtakenOpen

theorem State.createRecord_source {f : Rx} {b : OpenBody} {recipe : Recipe} {s : State}
    (h : (s.newRecord f b recipe).role = .source) :
    s.createRecord f b recipe = (s.withRecord (s.newRecord f b recipe)).sourceOpen := by
  simp only [State.createRecord, h]
  rfl

theorem State.createRecord_other {f : Rx} {b : OpenBody} {recipe : Recipe} {s : State}
    (h : (s.newRecord f b recipe).role ≠ .source) :
    s.createRecord f b recipe = (s.withRecord (s.newRecord f b recipe)).startTest := by
  simp only [State.createRecord]
  cases hr : (s.newRecord f b recipe).role
  case source => exact absurd hr h
  all_goals rfl

@[simp] theorem State.withRecord_kept (r : JobRecord) (s : State) :
    (s.withRecord r).now = s.now ∧ (s.withRecord r).station = s.station ∧ (s.withRecord r).boot = s.boot
    ∧ (s.withRecord r).cs = s.cs ∧ (s.withRecord r).dp = s.dp ∧ (s.withRecord r).pc.params = s.pc.params
    ∧ (s.withRecord r).jc.record = some r ∧ (s.withRecord r).jc.nextBase = s.jc.nextBase
    ∧ (s.withRecord r).jc.seq = s.jc.seq ∧ (s.withRecord r).lc.presence = s.lc.presence
    ∧ (s.withRecord r).lc.counters = s.lc.counters ∧ (s.withRecord r).lc.foreign = none
    ∧ (s.withRecord r).du = {} ∧ (s.withRecord r).store = s.store.setHomes (r.ownHomes s.station) := by
  simp [State.withRecord]

/-- The role and the join refused that a station takes at JOB OPEN (R3, R7). -/
theorem State.openRole_eq (s : State) (i : StationId) (b : OpenBody) (recipe : Recipe) :
    let source := decide (i = s.station ∧ b.kind = .copy)
    let joins := inMask b.roster s.station && s.pc.params.fitted && decide ((b.homes recipe s.station).length ≤ 56)
    s.openRole i b recipe
      = (if source then .source else if joins then .member else .observer,
         !source && inMask b.roster s.station && !joins) := by
  intro source joins
  have count : openHomeCount s.station b recipe = (b.homes recipe s.station).length := openHomeCount_eq s b recipe
  simp only [State.openRole, count, Config.homeCountLimit, source, joins]
  by_cases hsource : i = s.station ∧ b.kind = .copy
  · simp [hsource]
  · by_cases hin : inMask b.roster s.station = true
    · by_cases hfit : s.pc.params.fitted = true
      · by_cases hlen : (b.homes recipe s.station).length ≤ 56
        · simp [hsource, hin, hfit, hlen, Nat.not_lt.2 hlen]
        · simp [hsource, hin, hfit, hlen, Nat.lt_of_not_le hlen]
      · simp [hsource, hin, hfit]
    · simp [hsource, hin]

theorem State.newRecord_homes (s : State) (f : Rx) (b : OpenBody) (recipe : Recipe) (i : StationId) :
    (s.newRecord f b recipe).homes i = b.homes recipe i := by
  have remaining : (s.newRecord f b recipe).remaining = stationsOf b.roster := by
    simp only [JobRecord.remaining, State.newRecord]
    exact congrArg stationsOf BitVec.and_allOnes
  simp only [JobRecord.homes, remaining, OpenBody.homes]
  cases hk : b.kind <;> simp [State.newRecord, hk, JobRecord.tracks]

theorem State.newRecord_ownHomes (s : State) (f : Rx) (b : OpenBody) (recipe : Recipe) (i : StationId) :
    (s.newRecord f b recipe).ownHomes i
      = if (s.newRecord f b recipe).role = .observer then [] else b.homes recipe i := by
  rw [← State.newRecord_homes s f]
  unfold JobRecord.ownHomes
  cases (s.newRecord f b recipe).role <;> simp

theorem State.heard_newRecord (k : FrameKey) (i : StationId) (s : State) (f : Rx) (b : OpenBody) (recipe : Recipe) :
    (s.heard k i).newRecord f b recipe = s.newRecord f b recipe := by
  simp [State.newRecord, State.openRole]

/-- The record created, and what the blocks are given with it (R6). -/
theorem State.createRecord_gives (s : State) (f : Rx) (b : OpenBody) (recipe : Recipe) :
    let r := s.newRecord f b recipe
    let t := s.createRecord f b recipe
    t.jc.record = some r ∧ t.store = s.store.setHomes (r.ownHomes s.station) ∧ t.du = {} ∧ t.lc.foreign = none
    ∧ t.lc.counters.badFrames = s.lc.counters.badFrames
    ∧ t.pc.refusal = (s.withRecord r).pc.refusal ∧ t.pc.flash = (s.withRecord r).pc.flash
    ∧ ∀ g ∈ t.lc.queue, g.key = .jobOpen → g ∈ (s.withRecord r).lc.queue := by
  intro r t
  by_cases hrole : r.role = .source
  · have ht : t = (s.withRecord r).sourceOpen := State.createRecord_source hrole
    rw [ht]
    cases hd : (s.withRecord r).dp.diskin
    · rw [State.sourceOpen_absent hd]
      refine ⟨by simp, by simp, by simp, by simp, by simp, by simp, by simp, fun g hg hk => ?_⟩
      rcases State.mem_queue_enterAbandon hg with hg | hg
      · exact hg
      · rw [hk] at hg; cases hg
    · rw [State.sourceOpen_present hd]
      exact ⟨by simp, by simp, by simp, by simp, by simp, by simp, by simp, fun g hg _ => hg⟩
  · have ht : t = (s.withRecord r).startTest := State.createRecord_other hrole
    rw [ht]
    exact ⟨by simp, by simp, by simp, by simp, by rw [(State.startTest_reserve _).2]; simp, by simp, by simp,
      fun g hg _ => by rwa [State.startTest_queue] at hg⟩

/-- A waiting own JOB OPEN leaves the queue at another station's, and its LOAD ends with RIG BUSY (R110). -/
theorem State.withRecord_overtakes {r : JobRecord} {s : State} (h : s.lc.waiting .jobOpen = true) :
    (s.withRecord r).pc.refusal = some .rigBusy ∧ (s.withRecord r).pc.flash = some (s.now + 3000000)
    ∧ ∀ g, g ∈ (s.withRecord r).lc.queue ↔ g ∈ s.lc.queue ∧ (g.key = .jobOpen → g.started = true) := by
  have overtaken : (s.withRecord r).pc.refusal = some .rigBusy ∧ (s.withRecord r).pc.flash = some (s.now + 3000000)
      ∧ (s.withRecord r).lc.queue = (s.withdrawKey .jobOpen).lc.queue := by
    have hw : (({ s.lc with foreign := none } : Link).waiting .jobOpen) = true := h
    simp only [State.withRecord, State.overtakenOpen, hw, if_true]
    exact ⟨rfl, by simp [State.refuseLoad, Config.refusalFlash], rfl⟩
  obtain ⟨hrefusal, hflash, hq⟩ := overtaken
  exact ⟨hrefusal, hflash, fun g => by rw [hq, State.mem_queue_withdrawKey]⟩

/-- The SOURCE spins its master up as at any start of a disk (R111), and is told when there is none. -/
theorem State.createRecord_startsSource {s : State} {f : Rx} {b : OpenBody} {recipe : Recipe}
    (h : (s.newRecord f b recipe).role = .source) :
    let t := s.createRecord f b recipe
    t.cs = s.cs
    ∧ (s.dp.diskin = true →
      t.ss = { state := .spinup, present := true, prot := s.dp.wprot }
      ∧ t.dp = s.dp.spinUp s.now (s.pc.params.spinUpLimit * 1000))
    ∧ (s.dp.diskin = false → t.ss = { state := .spinup, prot := s.dp.wprot, abandon := some .masterRemoved }) := by
  intro t
  have ht : t = (s.withRecord (s.newRecord f b recipe)).sourceOpen := State.createRecord_source h
  rw [ht]
  refine ⟨by simp, ?_, ?_⟩
  · intro hd
    rw [State.sourceOpen_present (by simpa using hd)]
    simp
  · intro hd
    rw [State.sourceOpen_absent (by simpa using hd)]
    simp

/-- A MEMBER that waits in STANDBY takes its disk up at once (R78). -/
theorem State.createRecord_startsMember {s : State} {f : Rx} {b : OpenBody} {recipe : Recipe}
    (h : (s.newRecord f b recipe).role = .member) (hbase : b.base ≤ b.limit) (hs : s.cs.state = .standby)
    (hp : s.cs.paused = false) (hw : s.dp.wprot = false) :
    let t := s.createRecord f b recipe
    t.cs.state = .spinup ∧ t.dp = s.dp.spinUp s.now (s.pc.params.spinUpLimit * 1000) := by
  intro t
  have ht : t = (s.withRecord (s.newRecord f b recipe)).startTest := State.createRecord_other (by simp [h])
  have starts : (s.withRecord (s.newRecord f b recipe)).startConditions = true := by
    have room := State.newRecord_room s f b recipe hbase
    simp only [State.startConditions, State.withRecord_kept, h, hp, room]
    rfl
  rw [ht, State.startTest_spinsUp (by simpa using hs) starts (by simpa using hw)]
  simp

theorem Link.waiting_eq_false {lc : Link} {k : FrameKey} :
    lc.waiting k = false ↔ ∀ g ∈ lc.queue, g.key = k → g.started = true := by
  simp [Link.waiting]

theorem Link.has_eq_false {lc : Link} {k : FrameKey} : lc.has k = false ↔ ∀ g ∈ lc.queue, g.key ≠ k := by
  simp [Link.has]

/-- Settles O22: the record as made, what the blocks are given, and the start of a SOURCE or a MEMBER. -/
theorem jobOpenCreatesTheRecord : Obligations.JobOpenCreatesTheRecord := by
  unfold Obligations.JobOpenCreatesTheRecord
  intro f b recipe s h hr hb hrec hin h1 h3 hbase hv hf homes source joins role kept
  have hhomes : b.homes recipe s.station = homes := by
    cases hk : b.kind <;> simp [homes, OpenBody.homes, hk]
  obtain ⟨heard, hheard⟩ : ∃ x, x = s.heard .jobOpen f.sender := ⟨_, rfl⟩
  have record : heard.newRecord f b recipe = s.newRecord f b recipe := by rw [hheard, State.heard_newRecord]
  have hrole : (s.newRecord f b recipe).role = role := by
    show (s.openRole f.sender b recipe).1 = _
    rw [State.openRole_eq, hhomes]
  have hrefused : (s.newRecord f b recipe).joinRefused = (!source && inMask b.roster s.station && !joins) := by
    show (s.openRole f.sender b recipe).2 = _
    rw [State.openRole_eq, hhomes]
  have hkept : (s.newRecord f b recipe).ownHomes s.station = kept := by
    rw [State.newRecord_ownHomes, hrole, hhomes]
  have gives := heard.createRecord_gives f b recipe
  have startsSource := State.createRecord_startsSource (s := heard) (f := f) (b := b) (recipe := recipe)
  have startsMember := State.createRecord_startsMember (s := heard) (f := f) (b := b) (recipe := recipe)
  rw [record] at startsSource startsMember
  obtain ⟨y, hy⟩ : ∃ x, x = heard.createRecord f b recipe := ⟨_, rfl⟩
  rw [← hy] at gives startsSource startsMember
  obtain ⟨yrecord, ystore, ydu, yforeign, ycount, yrefusal, yflash, yqueue⟩ := gives
  have hstation : heard.station = s.station := by simp [hheard]
  have hnow : heard.now = s.now := by simp [hheard]
  have tjc : (y.afterCompletion s).jc = y.jc := by simp
  have tstore : (y.afterCompletion s).store = y.store := by simp
  have hstore : heard.store = s.store := by rw [hheard, (State.heard_plain _ _ s (by simp)).2]
  have creates : exec (.jobOpen f) s = .next (y.afterCompletion s) := by
    rw [execJobOpen_creates h hr hb (openRecipe_some hrec hin h1 h3 hbase hv hf), hy, hheard]
  rw [record] at yrecord yrefusal yflash yqueue
  rw [record, hstation, hkept, hstore] at ystore
  refine ⟨y.afterCompletion s, creates, ?_,
    by simp [hy, hheard], by simp [hy, hheard], by simp [hy, hheard], by simp [hy, hheard], by simp [hy, hheard],
    by simp [hy, hheard], by rw [State.afterCompletion_counters, ycount]; simp [hheard],
    by simp [hy, hheard], by simp [yforeign], by simp [ydu], by simp [ydu], by simp [ydu], by simp [ydu],
    by simp [ystore, Store.setHomes], by simp [ystore, Store.setHomes], ?_, ?_, ?_, ?_, ?_⟩
  · rw [tjc, yrecord, ← hrefused, ← hrole]
    simp only [State.newRecord, Config.max32]
  · intro u hu
    have given : (s.store.setHomes kept).entry u = (s.store.setMarks kept).entry u := by
      simp only [Store.entry, Store.setHomes]
    rw [tstore, ystore, given, Store.entry_setMarks _ _ hu]
  · intro hother hwait
    have hqueue : heard.lc.queue = s.lc.queue := by rw [hheard, State.heard_other (Or.inl hother)]; simp
    have hwaiting : heard.lc.waiting .jobOpen = true := by unfold Link.waiting; rw [hqueue]; exact hwait
    obtain ⟨orefusal, oflash, oqueue⟩ := State.withRecord_overtakes (r := s.newRecord f b recipe) hwaiting
    have left : ∀ g ∈ (y.afterCompletion s).lc.queue, g.key = .jobOpen → g ∈ s.lc.queue ∧ g.started = true := by
      intro g hg hk
      rcases State.mem_queue_afterCompletion hg with hg | hg | hg | hg
      · obtain ⟨hmem, hstarted⟩ := (oqueue g).1 (yqueue g hg hk)
        exact ⟨hqueue ▸ hmem, hstarted hk⟩
      all_goals rw [hk] at hg; cases hg
    refine ⟨by simp [yrefusal, orefusal], by simp [yflash, oflash, hnow],
      Link.waiting_eq_false.2 fun g hg hk => (left g hg hk).2, fun fresh => Link.has_eq_false.2 fun g hg hk => ?_⟩
    obtain ⟨hmem, hstarted⟩ := left g hg hk
    simp [fresh g hmem hk] at hstarted
  · intro hsource hd
    obtain ⟨ycs, present, -⟩ := startsSource (hrole.trans hsource)
    obtain ⟨yss, ydp⟩ := present (by simpa [hheard] using hd)
    have tss : (y.afterCompletion s).ss = y.ss := by simp
    rw [tss, yss]
    refine ⟨rfl, rfl, by simp [hheard], rfl, rfl, fun hclaim => ?_⟩
    rw [State.afterCompletion_dp (by rw [ycs]; simpa [hheard] using hclaim), ydp]
    simpa [hheard] using Drive.spinUp_lines s.now (s.pc.params.spinUpLimit * 1000) s.dp
  · intro hsource hd
    obtain ⟨-, -, absent⟩ := startsSource (hrole.trans hsource)
    have tss : (y.afterCompletion s).ss = y.ss := by simp
    rw [tss, absent (by simpa [hheard] using hd)]
    exact ⟨rfl, rfl⟩
  · intro hmember hs hp hw
    obtain ⟨ycs, ydp⟩ := startsMember (hrole.trans hmember) hbase (by simpa [hheard] using hs)
      (by simpa [hheard] using hp) (by simpa [hheard] using hw)
    obtain ⟨tcs, tdp, -⟩ := State.afterCompletion_elsewhere y s (by simp [ycs]) (by simp [ycs])
    rw [tcs, tdp, ydp]
    obtain ⟨hmotor, hselect, hlock, -⟩ := Drive.spinUp_lines heard.now (heard.pc.params.spinUpLimit * 1000) heard.dp
    exact ⟨ycs, hmotor, hselect, hlock⟩

end Sys2Proof.Machine
end

section
/-! PROOFS. TALLY with a serial: the account it leaves, and the close, start and TRACK LOST tests that follow
(R70, R71). -/

namespace Sys2Proof.Machine

/-! ### The account that a TALLY leaves (R70, R71) -/

theorem JobRecord.settleEntry_listed {r : JobRecord} {i : StationId} {v : Nat} (h : ⟨v, i⟩ ∈ r.claims) :
    r.settleEntry i v = ({ r with claims := r.claims.eraseP fun c => decide (c = ⟨v, i⟩) }, .nothing) := by
  have listed : r.claims.any (fun c => decide (c = ⟨v, i⟩)) = true := List.any_eq_true.2 ⟨_, h, by simp⟩
  simp only [JobRecord.settleEntry, listed, if_true, dropClaim]

/-- The record in which a TALLY's serial without an entry is looked for: the claim it implies is heard, and another
entry of its station is superseded. -/
def JobRecord.implied (i : StationId) (r : JobRecord) : JobRecord := { r with heard := r.heard + 1 }.voidEntry i

theorem JobRecord.implied_eq (i : StationId) (r : JobRecord) : r.implied i = { r with
    heard := r.heard + 1
    claims := r.claims.eraseP fun c => decide (c.station = i)
    void := r.void + if r.claims.any (fun c => decide (c.station = i)) then 1 else 0 } := by
  rw [JobRecord.implied, JobRecord.voidEntry_eq]

theorem JobRecord.not_listed {r : JobRecord} {i : StationId} {v : Nat} (h : ¬ ⟨v, i⟩ ∈ r.claims) :
    r.claims.any (fun c => decide (c = ⟨v, i⟩)) = false := by
  refine List.any_eq_false.2 fun c hc => ?_
  rw [decide_eq_true_iff]
  rintro rfl
  exact h hc

theorem JobRecord.settleEntry_implied {r : JobRecord} {i : StationId} {v : Nat} (h : ¬ ⟨v, i⟩ ∈ r.claims)
    (hfree : ∀ c ∈ r.claims.eraseP fun c => decide (c.station = i), c.serial ≠ v) :
    r.settleEntry i v = (r.implied i, .nothing) := by
  have free : (r.implied i).holder v = none := by
    rw [JobRecord.holder, JobRecord.implied_eq]
    simpa using hfree
  rw [JobRecord.implied] at free ⊢
  simp only [JobRecord.settleEntry, JobRecord.not_listed h, free]
  rfl

theorem JobRecord.settleEntry_taken {r : JobRecord} {i : StationId} {v : Nat} (h : ¬ ⟨v, i⟩ ∈ r.claims)
    (htaken : ∃ c ∈ r.claims.eraseP fun c => decide (c.station = i), c.serial = v) :
    ∃ c ∈ r.claims.eraseP fun c => decide (c.station = i), c.serial = v
      ∧ r.settleEntry i v = ({ r.implied i with
          claims := (r.implied i).claims.eraseP fun c => decide (c.serial = v)
          withdrawn := (r.implied i).withdrawn + 1 }, .lost c.station) := by
  have claims : (r.implied i).claims = r.claims.eraseP fun c => decide (c.station = i) := by rw [JobRecord.implied_eq]
  rw [← claims] at htaken ⊢
  obtain ⟨c, hc⟩ : ∃ c, (r.implied i).holder v = some c := Option.isSome_iff_exists.1 (by simpa [JobRecord.holder])
  refine ⟨c, List.mem_of_find?_eq_some hc, by simpa using List.find?_some hc, ?_⟩
  rw [JobRecord.implied] at hc ⊢
  simp only [JobRecord.settleEntry, JobRecord.not_listed h, hc, dropClaim]
  rfl

/-- Steps 3 and 4 of R70 on the account: a copy counted by its outcome, and the high mark. -/
theorem JobRecord.countTally_account (o : DiskOutcome) (v : Nat) (r : JobRecord) :
    (r.countTally o v).account = { r.account with
      accepted := r.accepted + if o = .accepted then 1 else 0
      void := r.void + if o = .accepted then 0 else 1
      high := if r.noneHeard then v else max r.high v
      noneHeard := false } := by
  have marked : ∀ q : JobRecord, (q.tallyHigh v).account = { q.account with
      high := if q.noneHeard then v else max q.high v, noneHeard := false } := by
    intro q
    unfold JobRecord.tallyHigh JobRecord.highBelow
    cases hn : q.noneHeard
    · by_cases hv : q.high < v
      · simp [hv, JobRecord.account, Nat.max_eq_right (Nat.le_of_lt hv)]
      · simp [hv, JobRecord.account, hn, Nat.max_eq_left (Nat.not_lt.1 hv)]
    · simp [JobRecord.account]
  unfold JobRecord.countTally
  rw [marked]
  cases o <;> simp [JobRecord.account]

theorem JobRecord.tallyPasses_serial {r : JobRecord} {i : StationId} {b : TallyBody} {v : Nat} (hv : b.serial = some v) :
    r.tallyPasses i b = true ↔ inMask r.roster i = true ∧ r.base ≤ v ∧ v ≤ r.limit := by
  simp [JobRecord.tallyPasses, hv, inRange]

@[simp] theorem JobRecord.settleEntry_fixed (i : StationId) (v : Nat) (r : JobRecord) :
    (r.settleEntry i v).1.fixed = r.fixed := by
  unfold JobRecord.settleEntry
  dsimp only
  rw [JobRecord.voidEntry_eq]
  split
  · rfl
  · split <;> rfl

@[simp] theorem JobRecord.countTally_fixed (o : DiskOutcome) (v : Nat) (r : JobRecord) :
    (r.countTally o v).fixed = r.fixed := by
  cases o <;> (unfold JobRecord.countTally JobRecord.tallyHigh; dsimp only; split <;> rfl)

@[simp] theorem JobRecord.applyTally_fixed (i : StationId) (b : TallyBody) (r : JobRecord) :
    (r.applyTally i b).1.fixed = r.fixed := by
  unfold JobRecord.applyTally
  split <;> simp

theorem JobRecord.applyTally_serial {r : JobRecord} {i : StationId} {b : TallyBody} {v : Nat} (hv : b.serial = some v) :
    r.applyTally i b = ((r.settleEntry i v).1.countTally b.outcome v, (r.settleEntry i v).2) := by
  simp only [JobRecord.applyTally, hv]

/-! ### A TALLY heard, in its steps -/

/-- The account settled, and this station's copy cycle told. -/
def State.tallyApplied (i : StationId) (b : TallyBody) (r : JobRecord) (s : State) : State :=
  (s.setAccount (r.applyTally i b).1).tellClaim 0 (r.applyTally i b).2

/-- The close test, where an entry has left or the job was OPEN, and the TRACK LOST test. -/
def State.tallyTested (i : StationId) (b : TallyBody) (r : JobRecord) (s : State) : State :=
  (if (r.applyTally i b).1.claims.length < r.claims.length ∨ r.state = .opened then (s.tallyApplied i b r).closeTest
    else s.tallyApplied i b r).trackLostTest b.first

theorem State.tallyHeard_passes {s : State} {r : JobRecord} {i : StationId} {b : TallyBody}
    (hr : s.jc.record = some r) (hp : r.tallyPasses i b = true) :
    s.tallyHeard i b
      = (if i = s.station then (s.tallyTested i b r).tallyDone b.outcome else s.tallyTested i b r).startTest := by
  simp only [State.tallyHeard, hr, hp, if_true]
  rfl

theorem State.tallyHeard_fails {s : State} {r : JobRecord} {i : StationId} {b : TallyBody}
    (hr : s.jc.record = some r) (hp : r.tallyPasses i b = false) : s.tallyHeard i b = s.badFrame := by
  simp [State.tallyHeard, hr, hp]

theorem State.tallyApplied_agrees {s : State} (i : StationId) (b : TallyBody) (r : JobRecord) :
    ∃ u, (s.tallyApplied i b r).jc.record = some u ∧ u.Agrees (r.applyTally i b).1.drainTest := by
  apply recordAgrees <;> simp [State.tallyApplied, State.setAccount]

@[simp] theorem State.tallyTested_kept (i : StationId) (b : TallyBody) (r : JobRecord) (s : State) :
    (s.tallyTested i b r).jc.record = (s.tallyApplied i b r).jc.record
    ∧ (s.tallyTested i b r).station = s.station
    ∧ (s.tallyTested i b r).ss = s.ss ∧ (s.tallyTested i b r).cs = (s.tallyApplied i b r).cs
    ∧ (s.tallyTested i b r).dp = (s.tallyApplied i b r).dp := by
  unfold State.tallyTested
  split <;> simp [State.tallyApplied, State.setAccount]

/-- What a TALLY leaves of its job's record and of the station, whether it passes its check or not. -/
theorem State.tallyHeard_frame {s : State} {r : JobRecord} (i : StationId) (b : TallyBody) (hr : s.jc.record = some r) :
    (s.tallyHeard i b).jc.record.map (·.fixed) = some r.fixed
    ∧ (s.tallyHeard i b).jc.record.map (·.mark) = some r.mark
    ∧ (s.tallyHeard i b).jc.record.map (·.departed) = some r.departed
    ∧ (s.tallyHeard i b).now = s.now ∧ (s.tallyHeard i b).lc.presence = s.lc.presence
    ∧ (s.tallyHeard i b).lc.foreign = s.lc.foreign ∧ (s.tallyHeard i b).jc.nextBase = s.jc.nextBase
    ∧ (s.tallyHeard i b).ss = s.ss ∧ (s.tallyHeard i b).store.mem = s.store.mem
    ∧ (s.tallyHeard i b).pc.params = s.pc.params := by
  simp only [State.tallyHeard, hr]
  repeat' split
  all_goals simp [State.setAccount, hr]

/-! ### TRACK LOST (R17) -/

theorem State.trackLostTest_abandons {s : State} {r : JobRecord} (hr : s.jc.record = some r) (hk : r.kind = .copy)
    (hgone : r.openerGone = true) (hc : r.closing = some s.station) :
    (s.trackLostTest (some .trackUnobtainable)).abandons .trackLost := by
  have calls : s.trackLostTest (some .trackUnobtainable) = s.enterAbandon .trackLost := by
    simp [State.trackLostTest, hr, hk, hgone, hc]
  rw [calls]
  exact State.enterAbandon_abandons hr

/-- Records of one fixed part and one departed set have one closing station (R10). -/
theorem JobRecord.closing_congr {u r : JobRecord} (hf : u.fixed = r.fixed) (hd : u.departed = r.departed) :
    u.closing = r.closing := by
  simp only [JobRecord.fixed, FixedFields.mk.injEq] at hf
  obtain ⟨-, -, hopener, -, -, hroster, -⟩ := hf
  rw [JobRecord.closing, JobRecord.openerGone, JobRecord.remaining, hopener, hroster, hd]
  rfl

/-- A record that agrees with what a TALLY leaves has the fixed part and the departed set of the one before. -/
theorem JobRecord.Agrees.ofTally {u r : JobRecord} {i : StationId} {b : TallyBody}
    (h : u.Agrees (r.applyTally i b).1.drainTest) : u.fixed = r.fixed ∧ u.departed = r.departed :=
  ⟨by rw [h.fixed, (JobRecord.drainTest_kept _).1, JobRecord.applyTally_fixed], by simpa using h.departed⟩

/-- A TALLY of a TRACK UNOBTAINABLE disk at the closing station of a COPY job whose opener has departed calls for a
JOB ABANDON. -/
theorem State.tallyHeard_abandons {s : State} {r : JobRecord} {i : StationId} {b : TallyBody}
    (hr : s.jc.record = some r) (hp : r.tallyPasses i b = true) (hk : r.kind = .copy) (hgone : r.openerGone = true)
    (hc : r.closing = some s.station) (hfirst : b.first = some .trackUnobtainable) :
    (s.tallyHeard i b).abandons .trackLost := by
  obtain ⟨u, hu, agrees⟩ := s.tallyApplied_agrees i b r
  obtain ⟨hfixed, hdeparted⟩ := agrees.ofTally
  have hkind : u.kind = r.kind := congrArg FixedFields.kind hfixed
  have hopener : u.opener = r.opener := congrArg FixedFields.opener hfixed
  have tested : (s.tallyTested i b r).abandons .trackLost := by
    unfold State.tallyTested
    rw [hfirst]
    refine State.trackLostTest_abandons (r := u) ?_ (hkind.trans hk) ?_ ?_
    · split <;> simp [hu]
    · rw [← hgone, JobRecord.openerGone, JobRecord.openerGone, hopener, hdeparted]
    · rw [JobRecord.closing_congr hfixed hdeparted, hc]
      split <;> simp [State.tallyApplied, State.setAccount]
  rw [State.tallyHeard_passes hr hp]
  refine State.abandons_of tested (fun h => ?_) (by split <;> simp)
  rw [Link.has_queue (State.startTest_queue _)]
  split
  · rw [Link.has_queue (t := s.tallyTested i b r) (by simp)]
    exact h
  · exact h

/-! ### JOB CLOSE after a TALLY (R11) -/

/-- A TALLY takes its serial from no claim, or from another station's on the list that the supersession leaves (R71). -/
theorem JobRecord.applyTally_fate (r : JobRecord) (i : StationId) (b : TallyBody) :
    (r.applyTally i b).2 = .nothing
    ∨ ∃ v, ∃ c ∈ r.claims.eraseP fun c => decide (c.station = i),
        b.serial = some v ∧ c.serial = v ∧ (r.applyTally i b).2 = .lost c.station := by
  cases hv : b.serial with
  | none => exact Or.inl (by simp only [JobRecord.applyTally, hv])
  | some v =>
    rw [JobRecord.applyTally_serial hv]
    by_cases hlisted : ⟨v, i⟩ ∈ r.claims
    · rw [JobRecord.settleEntry_listed hlisted]
      exact Or.inl rfl
    · by_cases htaken : ∃ c ∈ r.claims.eraseP fun c => decide (c.station = i), c.serial = v
      · obtain ⟨c, hc, hserial, hsettle⟩ := JobRecord.settleEntry_taken hlisted htaken
        rw [hsettle]
        exact Or.inr ⟨v, c, hc, rfl, hserial, rfl⟩
      · rw [JobRecord.settleEntry_implied hlisted (by simpa using htaken)]
        exact Or.inl rfl

/-- The settled account leaves a place in the queue: no disk here has lost its serial, or its TALLY takes one of two. -/
theorem State.tallyApplied_place {s : State} {r : JobRecord} {i : StationId} {b : TallyBody}
    (h : s.lc.queue.length < 7
      ∨ (∀ v c, b.serial = some v → c ∈ r.claims.eraseP (fun c => decide (c.station = i)) → c.serial = v →
          c.station ≠ s.station) ∧ s.lc.queue.length < 8) :
    (s.tallyApplied i b r).lc.queue.length < 8 := by
  have short : s.lc.queue.length < 8 := by omega
  rcases r.applyTally_fate i b with hfate | ⟨v, c, hc, hv, hserial, hfate⟩
  · simpa [State.tallyApplied, hfate, State.tellClaim, State.setAccount] using short
  · by_cases hown : c.station = s.station
    · have seven : s.lc.queue.length < 7 := h.resolve_right fun h => h.1 v c hv hc hserial hown
      have lost : s.tallyApplied i b r = (s.setAccount (r.applyTally i b).1).serialLost := by
        simp only [State.tallyApplied, hfate, State.tellClaim]
        exact if_pos hown
      have grown := State.serialLost_length (s.setAccount (r.applyTally i b).1)
      have same : (s.setAccount (r.applyTally i b).1).lc.queue = s.lc.queue := rfl
      rw [lost]
      rw [same] at grown
      omega
    · have kept : s.tallyApplied i b r = s.setAccount (r.applyTally i b).1 := by
        simp only [State.tallyApplied, hfate, State.tellClaim]
        exact if_neg hown
      rw [kept]
      exact short

/-- A TALLY's tests leave the record, the station and the Source Sequencer. -/
theorem State.tallyHeard_record {s : State} {r : JobRecord} {i : StationId} {b : TallyBody}
    (hr : s.jc.record = some r) (hp : r.tallyPasses i b = true) :
    (s.tallyHeard i b).jc.record = (s.tallyApplied i b r).jc.record
    ∧ (s.tallyHeard i b).station = s.station ∧ (s.tallyHeard i b).ss = s.ss := by
  rw [State.tallyHeard_passes hr hp]
  split <;> simp

/-- A TALLY that empties the claim list of a DRAINING job, or brings an OPEN one to DRAINING with none, has the closing
station enter JOB CLOSE. -/
theorem State.tallyHeard_closes {s : State} {r u : JobRecord} {i : StationId} {b : TallyBody}
    (hr : s.jc.record = some r) (hp : r.tallyPasses i b = true) (hu : u.Agrees (r.applyTally i b).1.drainTest)
    (hd : u.state = .draining) (hnone : u.claims = []) (hmoved : r.claims ≠ [] ∨ r.state = .opened)
    (hc : r.closing = some s.station) (hrole : r.role ≠ .source ∨ s.ss.restoring = none) (hb : s.boot = .ready)
    (hplace : (s.tallyApplied i b r).lc.queue.length < 8) :
    (s.tallyHeard i b).closeConditions = true ∧ (s.tallyHeard i b).lc.has .jobClose = true := by
  obtain ⟨w, hw, agrees⟩ := s.tallyApplied_agrees i b r
  have left : (r.applyTally i b).1.claims = [] := by
    have ha : u.claims = (r.applyTally i b).1.drainTest.claims := congrArg Account.claims hu.account
    simpa [hnone] using ha.symm
  have tests : (r.applyTally i b).1.claims.length < r.claims.length ∨ r.state = .opened := by
    refine hmoved.imp (fun h => ?_) id
    rw [left]
    exact List.length_pos_iff.2 h
  obtain ⟨hfixed, hdeparted⟩ := agrees.ofTally
  have conditions : w.closing = some s.station ∧ w.state = .draining ∧ w.claims = []
      ∧ (w.role ≠ .source ∨ s.ss.restoring = none) := by
    refine ⟨by rw [JobRecord.closing_congr hfixed hdeparted, hc], by rw [agrees.state, ← hu.state, hd], ?_, ?_⟩
    · have ha : w.claims = (r.applyTally i b).1.drainTest.claims := congrArg Account.claims agrees.account
      simpa [left] using ha
    · have same : w.role = r.role := congrArg FixedFields.role hfixed
      rwa [same]
  obtain ⟨hrecord, hstation, hss⟩ := State.tallyHeard_record hr hp
  refine ⟨(State.closeConditions_iff (hrecord.trans hw)).2 (by rwa [hstation, hss]), ?_⟩
  have entered : (s.tallyApplied i b r).closeTest.lc.has .jobClose = true := by
    refine State.closeTest_enters _ ((State.closeConditions_iff hw).2 ?_) ?_ hplace
    · simpa [State.tallyApplied, State.setAccount] using conditions
    · simpa [State.tallyApplied, State.setAccount] using hb
  have tested : (s.tallyTested i b r).lc.has .jobClose = true := by
    unfold State.tallyTested
    rw [if_pos tests]
    exact State.trackLostTest_keeps _ _ _ entered
  rw [State.tallyHeard_passes hr hp, Link.has_queue (State.startTest_queue _)]
  split
  · rw [Link.has_queue (t := s.tallyTested i b r) (by simp)]
    exact tested
  · exact tested

/-! ### The start test after a TALLY (R78) -/

theorem State.serialLost_standby {s : State} (h : s.cs.state = .standby) : s.serialLost = s := by
  simp [State.serialLost, h]

theorem State.tallyApplied_standby {s : State} (i : StationId) (b : TallyBody) (r : JobRecord)
    (h : s.cs.state = .standby) : s.tallyApplied i b r = s.setAccount (r.applyTally i b).1 := by
  rcases r.applyTally_fate i b with hfate | ⟨v, c, -, -, -, hfate⟩
  · simp only [State.tallyApplied, hfate, State.tellClaim]
  · have lost : (s.setAccount (r.applyTally i b).1).serialLost = s.setAccount (r.applyTally i b).1 :=
      State.serialLost_standby h
    simp only [State.tallyApplied, hfate, State.tellClaim, lost, ite_self]

/-- In STANDBY a TALLY ends with the start test of the waiting disk. -/
theorem State.tallyHeard_standby {s : State} {r : JobRecord} {i : StationId} {b : TallyBody}
    (hr : s.jc.record = some r) (hp : r.tallyPasses i b = true) (h : s.cs.state = .standby) :
    s.tallyHeard i b = (s.tallyTested i b r).startTest ∧ (s.tallyTested i b r).cs = s.cs
    ∧ (s.tallyTested i b r).dp = s.dp := by
  have kept : (s.tallyTested i b r).cs = s.cs ∧ (s.tallyTested i b r).dp = s.dp := by
    simp [State.tallyApplied_standby i b r h, State.setAccount]
  have done : (s.tallyTested i b r).tallyDone b.outcome = s.tallyTested i b r := by
    rw [State.tallyDone, if_neg (by rw [kept.1, h]; simp)]
  rw [State.tallyHeard_passes hr hp, done, ite_self]
  exact ⟨rfl, kept⟩

/-- The start conditions, from the record held (R78). -/
theorem State.startConditions_iff {s : State} {r : JobRecord} (hr : s.jc.record = some r) :
    s.startConditions = true ↔ r.state = .opened ∧ r.role = .member ∧ s.cs.paused = false
      ∧ (r.wanted = 0 ∨ r.accepted + r.claims.length < r.wanted) ∧ (r.noneHeard = true ∨ r.high < r.limit) := by
  simp [State.startConditions, hr, JobRecord.room, JobRecord.highBelow, and_assoc]

theorem State.needTestOf_idle {s : State} (u : Nat) (h : s.cs.state ∉ [CycleState.fetch, .write, .verify]) :
    (s.needTestOf u).cs = s.cs ∧ (s.needTestOf u).dp = s.dp := by
  unfold State.needTestOf
  repeat' split
  case isTrue.isFalse.isTrue => simp only [State.unobtainable, h, if_false, and_self]
  all_goals simp

theorem State.needTest_idle {s : State} (h : s.cs.state ∉ [CycleState.fetch, .write, .verify]) :
    s.needTest.cs = s.cs ∧ s.needTest.dp = s.dp := by
  unfold State.needTest
  generalize s.window = l
  induction l generalizing s with
  | nil => exact ⟨rfl, rfl⟩
  | cons u l ih =>
    obtain ⟨hcs, hdp⟩ := s.needTestOf_idle u h
    obtain ⟨hcs', hdp'⟩ := ih (s := s.needTestOf u) (by rwa [hcs])
    exact ⟨hcs'.trans hcs, hdp'.trans hdp⟩

/-- Where no disk is fetched, written or verified, the Distribution Unit leaves the copy cycle and the drive. -/
theorem State.settle_idle {x : State} (before : State) (h : x.cs.state ∉ [CycleState.fetch, .write, .verify]) :
    (x.settle before).cs = x.cs ∧ (x.settle before).dp = x.dp := by
  unfold State.settle
  dsimp only
  have fed : x.repairFeed.cs = x.cs ∧ x.repairFeed.dp = x.dp := by simp
  have tested := x.needTest_idle h
  have both := x.repairFeed.needTest_idle (by rwa [fed.1])
  repeat' split
  · simp [both]
  all_goals simp [tested]

/-- What ends a command leaves a copy cycle that holds no serial, with its drive. -/
theorem State.settled_cycle {x : State} (s s' : State)
    (h : x.cs.state = .standby ∨ x.cs.state = .spinup ∨ x.cs.state = .out) :
    ((x.afterCompletion s).settle s').cs = x.cs ∧ ((x.afterCompletion s).settle s').dp = x.dp := by
  obtain ⟨hcs, hdp, -⟩ := State.afterCompletion_elsewhere x s (by rcases h with h | h | h <;> simp [h])
    (by rcases h with h | h | h <;> simp [h])
  obtain ⟨hcs', hdp'⟩ := State.settle_idle (x := x.afterCompletion s) s'
    (by rw [hcs]; rcases h with h | h | h <;> simp [h])
  exact ⟨hcs'.trans hcs, hdp'.trans hdp⟩

/-- After a TALLY in STANDBY a disk is taken up where the record that it leaves has copies and serials left, and rejected
where it is protected. -/
theorem State.tallyHeard_starts {s : State} {r u : JobRecord} {i : StationId} {b : TallyBody}
    (hr : s.jc.record = some r) (hp : r.tallyPasses i b = true) (hu : u.Agrees (r.applyTally i b).1.drainTest)
    (h : s.cs.state = .standby) (before before' : State) :
    let t := ((s.tallyHeard i b).afterCompletion before).settle before'
    let starts : Prop := u.state = .opened ∧ r.role = .member ∧ s.cs.paused = false
      ∧ (u.wanted = 0 ∨ u.accepted + u.claims.length < u.wanted) ∧ (u.noneHeard = true ∨ u.high < u.limit)
    (starts → s.dp.wprot = false →
      t.cs.state = .spinup ∧ t.dp.motor = true ∧ t.dp.select = true ∧ t.dp.lock = true)
    ∧ (starts → s.dp.wprot = true → t.cs.state = .out ∧ t.cs.disk.first = some .protected_)
    ∧ (¬starts → t.cs = s.cs ∧ t.dp = s.dp) := by
  intro t starts
  obtain ⟨hheard, hcs, hdp⟩ := State.tallyHeard_standby hr hp h
  obtain ⟨w, hw, agrees⟩ := s.tallyApplied_agrees i b r
  have record : (s.tallyTested i b r).jc.record = some w := by simp [hw]
  generalize s.tallyTested i b r = y at hheard hcs hdp record
  have conditions : y.startConditions = true ↔ starts := by
    have hfixed : w.fixed = u.fixed := agrees.fixed.trans hu.fixed.symm
    have haccount : w.account = u.account := agrees.account.trans hu.account.symm
    have hrole : w.role = r.role := congrArg FixedFields.role agrees.ofTally.1
    simp only [JobRecord.fixed, FixedFields.mk.injEq] at hfixed
    simp only [JobRecord.account, Account.mk.injEq] at haccount
    rw [State.startConditions_iff record, agrees.state, ← hu.state, hcs]
    simp [hrole, hfixed, haccount, starts]
  have waits : y.cs.state = .standby := by rw [hcs, h]
  refine ⟨fun hstarts hw => ?_, fun hstarts hw => ?_, fun hstays => ?_⟩
  · have spins := State.startTest_spinsUp waits (conditions.2 hstarts) (by rw [hdp, hw])
    obtain ⟨tcs, tdp⟩ := State.settled_cycle (x := s.tallyHeard i b) before before' (by rw [hheard, spins]; simp)
    obtain ⟨hmotor, hselect, hlock, -⟩ := Drive.spinUp_lines y.now (y.pc.params.spinUpLimit * 1000) y.dp
    rw [tcs, tdp, hheard, spins]
    exact ⟨rfl, hmotor, hselect, hlock⟩
  · have protects := State.startTest_protected waits (conditions.2 hstarts) (by rw [hdp, hw])
    rw [← hheard] at protects
    rw [(State.settled_cycle before before' (Or.inr (Or.inr protects.1))).1]
    exact protects
  · have stays : y.startTest = y := State.startTest_calm (by rwa [← Bool.not_eq_true, conditions])
    rw [stays] at hheard
    obtain ⟨tcs, tdp⟩ := State.settled_cycle (x := s.tallyHeard i b) before before' (by rw [hheard, waits]; simp)
    exact ⟨by rw [tcs, hheard, hcs], by rw [tdp, hheard, hdp]⟩

/-! ### The obligation -/

/-- A frame heard takes no place of the queue. -/
theorem State.heard_queue_le (s : State) (k : FrameKey) (i : StationId) (hk : ∀ t r, k ≠ .release t r) :
    (s.heard k i).lc.queue.length ≤ s.lc.queue.length := by
  by_cases h : i ≠ s.station ∨ s.lc.has k = false
  · rw [State.heard_other h]
    simp
  · obtain ⟨hi, hhas⟩ := not_or.1 h
    rw [State.heard_own_plain hk (Classical.not_not.1 hi) (by simpa using hhas)]
    simpa [State.dequeue, State.setQueue] using List.length_filter_le _ s.lc.queue


/-- What a TALLY of the job leaves of the state, to its end. -/
theorem tallyHeard_settled {f : Rx} {s : State} {r : JobRecord} (b : TallyBody) (hr : s.jc.record = some r) :
    let t := (((s.heard .tally f.sender).tallyHeard f.sender b).afterCompletion s).settle s
    (t.fixed = s.fixed ∧ t.mark = s.mark ∧ t.departed = s.departed ∧ t.now = s.now
      ∧ t.lc.presence = s.lc.presence ∧ t.lc.foreign = s.lc.foreign ∧ t.jc.nextBase = s.jc.nextBase
      ∧ t.ss = s.ss ∧ t.store.mem = s.store.mem ∧ t.pc.params = s.pc.params)
    ∧ t.account = if r.tallyPasses f.sender b then some (r.applyTally f.sender b).1.account else some r.account := by
  intro t
  have hh : (s.heard .tally f.sender).jc.record = some r := State.heard_record _ (by simp) hr
  constructor
  · obtain ⟨hfixed, hmark, hdeparted, hnow, hpresence, hforeign, hbase, hss, hmem, hparams⟩ :=
      (s.heard .tally f.sender).tallyHeard_frame f.sender b hh
    simp [t, State.fixed, State.mark, State.departed, hr, hfixed, hmark, hdeparted, hnow, hpresence, hforeign, hbase, hss,
      hmem, hparams]
  · rw [← State.tallyHeard_account _ _ _ _ hh]
    simp [t, State.account]

/-- Settles O28: first the account and the duty of R17, then the close test and the start test. -/
theorem tallySettlesItsSerial : Obligations.TallySettlesItsSerial := by
  unfold Obligations.TallySettlesItsSerial
  constructor
  · intro f s r b v h hr hj hparse hv passes accepted void high others superseded frame
    have hh : (s.heard .tally f.sender).jc.record = some r := State.heard_record _ (by simp) hr
    have hpasses : r.tallyPasses f.sender b = true ↔ passes := JobRecord.tallyPasses_serial hv
    obtain ⟨hframe, haccount⟩ := tallyHeard_settled (f := f) b hr
    rw [execTally_own h hr hj hparse]
    constructor
    · intro hfails
      have fails : r.tallyPasses f.sender b = false := by rwa [← Bool.not_eq_true, hpasses]
      refine ⟨_, rfl, hframe, by simpa [fails] using haccount, ?_⟩
      rw [(State.settle_reserve _ s).2, (State.afterCompletion_reserve _ s).2, State.tallyHeard_fails hh fails]
      simp [State.badFrame, State.count, bump, Config.max32]
    · intro hpass
      have pass := hpasses.2 hpass
      rw [pass, if_pos rfl, JobRecord.applyTally_serial hv, JobRecord.countTally_account] at haccount
      refine ⟨_, rfl, hframe, fun hlisted => ?_, fun hlisted hfree => ?_, fun hlisted htaken => ?_,
        fun hk hgone hhead hfirst => ?_⟩
      · rw [haccount, JobRecord.settleEntry_listed hlisted]
        rfl
      · rw [haccount, JobRecord.settleEntry_implied hlisted hfree, JobRecord.implied_eq]
        simp [JobRecord.account, accepted, void, high, others, superseded, Nat.add_right_comm]
      · obtain ⟨c, -, -, hsettle⟩ := JobRecord.settleEntry_taken hlisted htaken
        rw [haccount, hsettle, JobRecord.implied_eq]
        simp [JobRecord.account, accepted, void, high, others, superseded, Nat.add_right_comm]
      · have hclosing : r.closing = some (s.heard .tally f.sender).station := by
          have gone : r.openerGone = true := hgone
          rw [JobRecord.closing, gone, if_pos rfl, hhead]
          simp
        exact State.settled_abandons s s (State.tallyHeard_abandons hh pass hk hgone hclosing hfirst)
  · intro f s r b h hr hj hparse hp others place starts
    have hh : (s.heard .tally f.sender).jc.record = some r := State.heard_record _ (by simp) hr
    obtain ⟨u', hu', agrees'⟩ := State.tallyHeard_agrees hh hp
    obtain ⟨u, hu, agrees⟩ := State.settled_agrees (before := s) (before' := s) hu' agrees'
    refine ⟨_, u, execTally_own h hr hj hparse, hu, fun hd hnone hmoved hc hrole hplace => ?_, fun hstandby => ?_⟩
    · have hlength : (s.heard .tally f.sender).lc.queue.length < 7
          ∨ (∀ v c, b.serial = some v → c ∈ others → c.serial = v → c.station ≠ (s.heard .tally f.sender).station)
            ∧ (s.heard .tally f.sender).lc.queue.length < 8 := by
        have hstation : (s.heard .tally f.sender).station = s.station := by simp
        rw [hstation]
        exact hplace.imp (Nat.lt_of_le_of_lt (State.heard_queue_le s .tally f.sender (by simp)))
          fun hown => ⟨hown.1, State.heard_length s .tally f.sender (by simp) hown.2⟩
      obtain ⟨conditions, entered⟩ := State.tallyHeard_closes hh hp agrees hd hnone hmoved
        (by simpa using hc) (by simpa using hrole) (by simpa using h.1)
        (State.tallyApplied_place hlength)
      exact State.settle_close _ s (State.afterCompletion_close _ s conditions entered)
    · have cycle := State.tallyHeard_starts hh hp agrees (by simpa using hstandby) s s
      simpa [starts] using cycle

end Sys2Proof.Machine
end

section
/-! SUPPORT. Searches of the slot table, and what freeing and taking a slot leave of slots and map (R22, R23, R27). -/

namespace Sys2Proof.Machine

/-! ### Slots and map entries after a slot is freed or taken (R22, R23, R27) -/

/-- The first slot with a property, by its number. -/
theorem Store.firstSlot_eq_some {st : Store} {p : Slot → Bool} {i : Nat} :
    st.firstSlot p = some i ↔ i < 64 ∧ p (st.slot i) = true ∧ ∀ j < i, p (st.slot j) = false := by
  simp only [Store.firstSlot, List.find?_range_eq_some, List.mem_range, Config.slotCount, Bool.not_eq_true']
  exact and_left_comm

/-- Another slot is left. -/
theorem Store.slot_setSlot_ne (st : Store) {i j : Nat} (e : Slot) (h : j ≠ i) : (st.setSlot i e).slot j = st.slot j := by
  simp [Store.slot, Store.setSlot, h.symm]

theorem Store.freeSlot_slot_ne (st : Store) {i j : Nat} (h : j ≠ i) : (st.freeSlot i).slot j = st.slot j := by
  unfold Store.freeSlot
  cases (st.slot i).track with
  | none => exact st.slot_setSlot_ne {} h
  | some t => exact (st.setEntry t _).slot_setSlot_ne {} h

/-- The map entry of a track that the slot freed does not hold is left. -/
theorem Store.freeSlot_entry_ne (st : Store) {i u : Nat} (h : (st.slot i).track ≠ some u) :
    (st.freeSlot i).entry u = st.entry u := by
  unfold Store.freeSlot
  cases ht : (st.slot i).track with
  | none => rfl
  | some t => exact Store.entry_setEntry_ne st t u _ fun hu => h (hu ▸ ht)

/-- A slot taken is FILLING with its track. -/
theorem Store.takeSlot_slot (st : Store) {i : Nat} (t : Nat) (w : CheckWord) (hi : i < 64) :
    (st.takeSlot i t w).slot i = { state := .filling, track := some t, check := w } :=
  Store.slot_setSlot _ i _ hi

theorem Store.takeSlot_slot_ne (st : Store) {i j : Nat} (t : Nat) (w : CheckWord) (h : j ≠ i) :
    (st.takeSlot i t w).slot j = st.slot j :=
  ((st.freeSlot i).slot_setSlot_ne _ h).trans (st.freeSlot_slot_ne h)

theorem Store.takeSlot_entry (st : Store) (i : Nat) {t : Nat} (w : CheckWord) (ht : t < 168) :
    (st.takeSlot i t w).entry t = { (st.freeSlot i).entry t with presence := .filling, slot := some i } :=
  Store.entry_setEntry _ t _ ht

theorem Store.takeSlot_entry_ne (st : Store) (i : Nat) {t u : Nat} (w : CheckWord) (h : u ≠ t) :
    (st.takeSlot i t w).entry u = (st.freeSlot i).entry u :=
  Store.entry_setEntry_ne _ t u _ h.symm

theorem Store.takeSlot_cache (st : Store) (i t : Nat) (w : CheckWord) :
    (st.takeSlot i t w).cache = st.cache.erase i := st.freeSlot_cache i

/-! ### Map and slots name each other (R23) -/

/-- A track's map entry names a slot where the slot names the track. -/
def Store.Agrees (x : Store) : Prop := ∀ u < 168, ∀ j < 64, (x.entry u).slot = some j ↔ (x.slot j).track = some u

theorem Store.Agrees.freeSlot {st : Store} (h : st.Agrees) {i : Nat} (hi : i < 64) : (st.freeSlot i).Agrees := by
  intro u hu j hj
  by_cases hji : j = i
  · subst hji
    rw [st.freeSlot_slot j hj]
    by_cases ht : (st.slot j).track = some u
    · simp [st.freeSlot_entry j u hu ht]
    · simpa [st.freeSlot_entry_ne ht] using mt (h u hu j hj).1 ht
  · rw [st.freeSlot_slot_ne hji]
    by_cases ht : (st.slot i).track = some u
    · rw [st.freeSlot_entry i u hu ht]
      refine iff_of_false (by simp) fun hju => hji ?_
      exact Option.some.inj (((h u hu j hj).2 hju).symm.trans ((h u hu i hi).2 ht))
    · rw [st.freeSlot_entry_ne ht]
      exact h u hu j hj

theorem Store.Agrees.takeSlot {st : Store} (h : st.Agrees) {i t : Nat} (w : CheckWord) (hi : i < 64) (ht : t < 168)
    (hn : (st.entry t).slot = none) : (st.takeSlot i t w).Agrees := by
  intro u hu j hj
  have freed := h.freeSlot hi u hu j hj
  by_cases hut : u = t
  · subst hut
    rw [st.takeSlot_entry i w hu]
    by_cases hji : j = i
    · subst hji
      simp [st.takeSlot_slot u w hj]
    · have unnamed : (st.slot j).track ≠ some u := fun hju => by simp [(h u hu j hj).2 hju] at hn
      rw [st.takeSlot_slot_ne u w hji]
      exact iff_of_false (by simpa using Ne.symm hji) unnamed
  · rw [st.takeSlot_entry_ne i w hut, freed]
    by_cases hji : j = i
    · subst hji
      simp [st.takeSlot_slot t w hj, st.freeSlot_slot j hj, Ne.symm hut]
    · rw [st.takeSlot_slot_ne t w hji, st.freeSlot_slot_ne hji]

end Sys2Proof.Machine
end

section
/-! PROOFS. STORE_CLEAR_COMPLETION (R40, R163, R166). -/

namespace Sys2Proof.Machine

/-! ### The store clear (R40) -/

theorem State.storeClearEnds_powerOn {s : State} (mid : Bool) (h : s.boot = .clearing true) :
    s.storeClearEnds mid = { s with store := { mem := s.store.mem }, boot := .loading } := by
  simp only [State.storeClearEnds, h]
  rfl

theorem State.storeClearEnds_restart {s : State} (mid : Bool) (h : s.boot = .clearing false) :
    s.storeClearEnds mid = State.ready mid { s with store := { mem := s.store.mem } } := by
  simp only [State.storeClearEnds, h]
  rfl

theorem State.storeClearEnds_elsewhere {s : State} (mid : Bool) (h : s.boot = .loading ∨ s.boot = .ready) :
    s.storeClearEnds mid = s := by
  rcases h with h | h <;> simp only [State.storeClearEnds, h]

/-- Settles O5: at a restart the end of the store clear is the end of start-up. -/
theorem storeClearCompletionEmptiesTheStore : Obligations.StoreClearCompletionEmptiesTheStore := by
  intro mid s
  refine ⟨fun h => congrArg Host.Outcome.next (State.storeClearEnds_powerOn mid h), fun h hr hq => ?_,
    fun h => congrArg Host.Outcome.next (State.storeClearEnds_elsewhere mid h)⟩
  have ended := State.ready_noJob { s with store := { mem := s.store.mem } } mid hr hq
  exact congrArg Host.Outcome.next ((State.storeClearEnds_restart mid h).trans ended)

end Sys2Proof.Machine
end

section
/-! PROOFS. RELEASE_BEGIN: the taking decision and the allocation (R27 to R29). -/

namespace Sys2Proof.Machine

/-! ### The taking decision (R29) -/

/-- A track that the station wants: it has a place, a want list entry, or lies from the current track to the lookahead. -/
def State.wants (s : State) (t : Nat) : Prop :=
  t ∈ s.store.allowance ∨ s.du.has t = true
  ∨ ∃ c, s.cs.current = some c ∧ c ≤ t ∧ t ≤ c + s.pc.params.lookahead

theorem State.takes_none {s : State} (h : ReleaseHead) (hr : s.jc.record = none) : s.takes h = false := by
  simp only [State.takes, hr]

theorem State.takes_job {s : State} {r : JobRecord} (h : ReleaseHead) (hr : s.jc.record = some r) :
    s.takes h = true ↔ h.jobId = r.jobId ∧ r.kind = .copy ∧ h.status ≠ 2 ∧ h.track.toNat < r.tracks
      ∧ h.size.toNat = r.recipe.sizeCode ∧ h.count.toNat = r.recipe.sectors
      ∧ h.length = releaseLength .good h.size.toNat h.count.toNat
      ∧ (s.store.entry h.track.toNat).presence = .absent ∧ s.wants h.track.toNat := by
  have lost : ReleaseStatus.lost.code = 2 := rfl
  cases hc : s.cs.current <;>
    simp [State.takes, State.wants, hr, hc, lost, and_assoc, or_assoc]

theorem State.takes_iff (s : State) (h : ReleaseHead) :
    s.takes h = true ↔ ∃ r, s.jc.record = some r ∧ h.jobId = r.jobId ∧ r.kind = .copy ∧ h.status ≠ 2
      ∧ h.track.toNat < r.tracks ∧ h.size.toNat = r.recipe.sizeCode ∧ h.count.toNat = r.recipe.sectors
      ∧ h.length = releaseLength .good h.size.toNat h.count.toNat
      ∧ (s.store.entry h.track.toNat).presence = .absent ∧ s.wants h.track.toNat := by
  cases hr : s.jc.record with
  | none => simp [State.takes_none h hr]
  | some r => simp [State.takes_job h hr]

theorem State.releaseBegins_takes {s : State} {h : ReleaseHead} (hs : s.receives) (ht : s.takes h = true) :
    s.releaseBegins h = (s.beginFill h).settle s := if_pos ⟨hs.1, hs.2, ht⟩

theorem State.releaseBegins_passes {s : State} {h : ReleaseHead}
    (hn : s.boot ≠ .ready ∨ s.lc.deaf = true ∨ s.takes h = false) : s.releaseBegins h = s := by
  refine if_neg fun ⟨hb, hd, ht⟩ => ?_
  rcases hn with hn | hn | hn
  · exact hn hb
  · simp [hd] at hn
  · simp [ht] at hn

/-! ### The allocation (R27, R28) -/

/-- An allocation for a track may take a FREE slot: the track has a place, or the spare count is 1 or more (R27). -/
def Store.mayFree (st : Store) (t : Nat) : Prop :=
  t ∈ st.allowance ∨ st.reservation + 1 ≤ st.freeCount + st.fillingAllowance

/-- The first FREE slot, where the track may take one. -/
theorem Store.allocation_free {st : Store} {t i : Nat} (hm : st.mayFree t) (hi : i < 64)
    (hf : (st.slot i).state = .free) (hlow : ∀ j < i, (st.slot j).state ≠ .free) : st.allocation t = some i := by
  have first : st.firstSlot (fun e => decide (e.state = .free)) = some i :=
    Store.firstSlot_eq_some.2 ⟨hi, by simpa using hf, fun j hj => by simpa using hlow j hj⟩
  have may : (decide (t ∈ st.allowance) || decide (st.reservation + 1 ≤ st.freeCount + st.fillingAllowance)) = true := by
    rw [Bool.or_eq_true, decide_eq_true_eq, decide_eq_true_eq]
    exact hm
  simp only [Store.allocation, may, if_true, first]

/-- Elsewhere the allocation evicts. -/
theorem Store.allocation_evicts {st : Store} {t : Nat}
    (hn : ¬ (st.mayFree t ∧ ∃ i < 64, (st.slot i).state = .free)) : st.allocation t = st.evictable := by
  by_cases hm : st.mayFree t
  · have none_free : st.firstSlot (fun e => decide (e.state = .free)) = none := by
      refine Option.eq_none_iff_forall_ne_some.2 fun i hi => hn ⟨hm, i, ?_⟩
      obtain ⟨hlt, hfree, -⟩ := Store.firstSlot_eq_some.1 hi
      exact ⟨hlt, by simpa using hfree⟩
    simp only [Store.allocation, none_free, ite_self]
  · have may : (decide (t ∈ st.allowance) || decide (st.reservation + 1 ≤ st.freeCount + st.fillingAllowance)) = false := by
      rw [Bool.eq_false_iff, ne_eq, Bool.or_eq_true, decide_eq_true_eq, decide_eq_true_eq]
      exact hm
    simp only [Store.allocation, may, Bool.false_eq_true, if_false]

/-- The first unpinned slot of the cache order list is the one evicted. -/
theorem Store.evictable_first {st : Store} {before after : List Nat} {i : Nat} (hc : st.cache = before ++ i :: after)
    (hpins : ∀ j ∈ before, (st.slot j).pins ≠ 0) (hi : (st.slot i).pins = 0) : st.evictable = some i := by
  rw [Store.evictable, hc, List.find?_append, List.find?_eq_none.2 (by simpa using hpins)]
  simp [hi]

theorem Store.evictable_none {st : Store} (h : ∀ i ∈ st.cache, (st.slot i).pins ≠ 0) : st.evictable = none :=
  List.find?_eq_none.2 (by simpa using h)

/-- Settles O33: the taking decision, then the allocation and what it leaves of slots and map. -/
theorem releaseBeginTakesASlotForThePayload : Obligations.ReleaseBeginTakesASlotForThePayload := by
  constructor
  · intro h s
    refine ⟨s.takes_iff h, fun hn => congrArg Host.Outcome.next (State.releaseBegins_passes hn),
      fun hs ht => ⟨fun i hi => ?_, fun hn => ?_⟩⟩
    · have begun : s.beginFill h =
          { s with store := { s.store.takeSlot i h.track.toNat h.check with fills := i :: s.store.fills } } := by
        simp only [State.beginFill, hi]
      exact congrArg Host.Outcome.next ((State.releaseBegins_takes hs ht).trans (congrArg (State.settle · s) begun))
    · have dropped : s.beginFill h = s.count fun c => { c with noRoom := bump c.noRoom } := by
        simp only [State.beginFill, hn]
      exact congrArg Host.Outcome.next ((State.releaseBegins_takes hs ht).trans (congrArg (State.settle · s) dropped))
  · intro st t ht mayFree takesFree agrees
    refine ⟨fun i hi hm hf hlow => Store.allocation_free hm hi hf hlow, fun before i after hn hc hpins hi => ?_,
      fun hn hpins => ?_, fun i w hi => ?_,
      fun i w hi hagrees => ⟨Store.Agrees.freeSlot hagrees hi, Store.Agrees.takeSlot hagrees w hi ht⟩⟩
    · rw [Store.allocation_evicts hn, Store.evictable_first hc hpins hi]
    · rw [Store.allocation_evicts hn, Store.evictable_none hpins]
    · have named := st.takeSlot_entry i w ht
      refine ⟨st.takeSlot_slot t w hi, by rw [named], by rw [named], fun u hut hu hold => ?_,
        fun j hj => st.takeSlot_slot_ne t w hj, st.takeSlot_cache i t w, by simp⟩
      rw [st.takeSlot_entry_ne i w hut, st.freeSlot_entry i u hu hold]

end Sys2Proof.Machine
end

section
/-! PROOFS. The need test and the repair feed, and what calls for them (R42, R43, R58). -/

namespace Sys2Proof.Machine

/-! ### The window (R42) -/

theorem Copy.current_eq_some {cs : Copy} {c : Nat} :
    cs.current = some c ↔ cs.disk.live = true ∧ cs.disk.track = some c := by
  cases h : cs.disk.live <;> simp [Copy.current, h]

/-- The window is made of the tracks from the current one to the lookahead, below T. -/
theorem State.mem_window {s : State} {r : JobRecord} (hr : s.jc.record = some r) (u : Nat) :
    u ∈ s.window ↔ ∃ c, s.cs.disk.live = true ∧ s.cs.disk.track = some c ∧ r.kind = .copy ∧ r.role = .member
      ∧ c ≤ u ∧ u ≤ c + s.pc.params.lookahead ∧ u < r.tracks := by
  simp only [← and_assoc (a := s.cs.disk.live = true), ← Copy.current_eq_some]
  cases hc : s.cs.current with
  | none => simp [State.window, hr, hc]
  | some c =>
    by_cases hm : r.kind = .copy ∧ r.role = .member
    · have range : u ∈ List.range' c (s.pc.params.lookahead + 1) ↔ c ≤ u ∧ u ≤ c + s.pc.params.lookahead := by
        rw [List.mem_range'_1]
        omega
      simp [State.window, hr, hc, hm, range, and_assoc]
    · simp only [State.window, hr, hc, if_neg hm, List.not_mem_nil, false_iff]
      rintro ⟨-, -, hk, ho, -⟩
      exact hm ⟨hk, ho⟩

theorem State.window_ascends (s : State) : s.window.Pairwise (· < ·) := by
  unfold State.window
  repeat' split
  · exact (List.pairwise_lt_range' ..).filter _
  all_goals exact List.Pairwise.nil

/-- The tracks below the release mark, and T − 1 after the last-track timeout (R41). -/
theorem JobRecord.released_iff {r : JobRecord} {u : Nat} :
    r.released u = true ↔ u < r.mark ∨ r.lastRun = true ∧ u + 1 = r.tracks := by
  simp [JobRecord.released]

/-! ### A new entry (R45) -/

/-- The queue takes a WANT that has no duplicate while it holds fewer than 6 frames. -/
theorem State.accepts_want {s : State} {u : Nat} (hb : s.boot = .ready) (hn : s.lc.has (.want u) = false)
    (hq : s.lc.queue.length < 6) : s.accepts (.want u 1 false) = true := by
  simp [State.accepts_high, Body.key, hb, hn, hq]

theorem State.refuses_want {s : State} {u : Nat} (hq : 6 ≤ s.lc.queue.length) : s.accepts (.want u 1 false) = false := by
  simp [State.accepts_high, hq]

/-- A part's new entry is QUEUED with its WANT, or UNSENT with its deadline. -/
theorem State.sentWant_taken {s : State} {u : Nat} (h : s.accepts (.want u 1 false) = true) :
    s.sentWant { track := u } = ⟨u, 1, false, .queued, none⟩ := if_pos h

theorem State.sentWant_refused {s : State} {u : Nat} (h : s.accepts (.want u 1 false) = false) :
    s.sentWant { track := u } = ⟨u, 1, false, .unsent, some (s.now + s.pc.params.wantTimeout * 1000)⟩ :=
  if_neg (by simpa [Want.body] using h)

theorem State.addNeed_taken {s : State} {u : Nat} (j : JobId) (h : s.accepts (.want u 1 false) = true) :
    s.addNeed u j = { s with
      lc := { s.lc with queue := s.lc.queue ++ [{ body := .want u 1 false, jobId := j }] }
      du := { s.du with need := insertWant ⟨u, 1, false, .queued, none⟩ s.du.need } } := by
  simp only [State.addNeed, State.sentWant_taken h]
  exact State.enter_accepted _ _ _ h

theorem State.addNeed_refused {s : State} {u : Nat} (j : JobId) (h : s.accepts (.want u 1 false) = false) :
    s.addNeed u j = { s with du := { s.du with
      need := insertWant ⟨u, 1, false, .unsent, some (s.now + s.pc.params.wantTimeout * 1000)⟩ s.du.need } } := by
  simp only [State.addNeed, State.sentWant_refused h]
  exact State.enter_refused _ _ _ h

theorem State.addRepair_taken {s : State} {u : Nat} (j : JobId) (h : s.accepts (.want u 1 false) = true) :
    s.addRepair u j = { s with
      lc := { s.lc with queue := s.lc.queue ++ [{ body := .want u 1 false, jobId := j }] }
      du := { s.du with repair := insertWant ⟨u, 1, false, .queued, none⟩ s.du.repair } } := by
  simp only [State.addRepair, State.sentWant_taken h]
  exact State.enter_accepted _ _ _ h

theorem State.addRepair_refused {s : State} {u : Nat} (j : JobId) (h : s.accepts (.want u 1 false) = false) :
    s.addRepair u j = { s with du := { s.du with
      repair := insertWant ⟨u, 1, false, .unsent, some (s.now + s.pc.params.wantTimeout * 1000)⟩ s.du.repair } } := by
  simp only [State.addRepair, State.sentWant_refused h]
  exact State.enter_refused _ _ _ h

/-! ### The need test of a window track (R43) -/

section
variable {s : State} {r : JobRecord} {u : Nat} (hr : s.jc.record = some r) (hu : u ∈ s.window)
include hr hu

/-- A track held, filling or listed needs nothing. -/
theorem State.needTestOf_served (h : s.held u = true ∨ s.isFilling u = true ∨ s.du.has u = true) :
    s.needTestOf u = s := by
  have served : (s.held u || s.isFilling u || s.du.has u) = true := by simpa [or_assoc] using h
  simp only [State.needTestOf, hr, if_pos hu, served, if_true]

variable (hh : s.held u = false) (hf : s.isFilling u = false) (hd : s.du.has u = false)
include hh hf hd

theorem State.needTestOf_unserved :
    s.needTestOf u = if u ∈ s.du.lost then s.unobtainable else if r.released u then s.addNeed u r.jobId else s := by
  simp [State.needTestOf, hr, hu, hh, hf, hd]

theorem State.needTestOf_lost (hl : u ∈ s.du.lost) : s.needTestOf u = s.unobtainable := by
  rw [State.needTestOf_unserved hr hu hh hf hd, if_pos hl]

theorem State.needTestOf_above (hl : ¬ u ∈ s.du.lost) (hm : r.released u = false) : s.needTestOf u = s := by
  rw [State.needTestOf_unserved hr hu hh hf hd, if_neg hl, hm]
  rfl

theorem State.needTestOf_asks (hl : ¬ u ∈ s.du.lost) (hm : r.released u = true) :
    s.needTestOf u = s.addNeed u r.jobId := by
  rw [State.needTestOf_unserved hr hu hh hf hd, if_neg hl, if_pos hm]

end

/-! ### One entry of the repair feed (R58) -/

theorem State.eligible_iff {s : State} {r : JobRecord} {u : Nat} :
    s.eligible r u = true ↔ s.du.has u = false ∧ s.held u = false ∧ s.isFilling u = false ∧ r.released u = true
      ∧ ¬ u ∈ s.du.lost := by
  simp [State.eligible, and_assoc]

section
variable {s : State} {r : JobRecord} (hr : s.jc.record = some r)
include hr

theorem State.feedOne_calm (h : 3 ≤ s.du.repair.length ∨ ∀ u ∈ r.repair, ¬ s.eligible r u = true) : s.feedOne = s := by
  unfold State.feedOne
  simp only [hr]
  split
  · rename_i hlt
    have hlt : s.du.repair.length < 3 := hlt
    rw [List.find?_eq_none.2 (h.resolve_left (by omega))]
  · rfl

/-- The lowest eligible track of the repair list gets an entry. -/
theorem State.feedOne_first {before after : List Nat} {u : Nat} (hlt : s.du.repair.length < 3)
    (hl : r.repair = before ++ u :: after) (hb : ∀ x ∈ before, ¬ s.eligible r x = true) (hu : s.eligible r u = true) :
    s.feedOne = s.addRepair u r.jobId := by
  have found : r.repair.find? (s.eligible r) = some u := by
    rw [hl, List.find?_append, List.find?_eq_none.2 hb, List.find?_cons_of_pos hu]
    rfl
  have room : s.du.repair.length < Config.repairPositions := hlt
  simp only [State.feedOne, hr, room, if_true, found]

end

theorem length_insertWant (w : Want) (l : List Want) : (insertWant w l).length = l.length + 1 := by
  induction l with
  | nil => rfl
  | cons x xs ih =>
    unfold insertWant
    split
    · rfl
    · simp [ih]

theorem State.addRepair_length (u : Nat) (j : JobId) (s : State) :
    (s.addRepair u j).du.repair.length = s.du.repair.length + 1 := by
  simp [State.addRepair, length_insertWant]

theorem State.feedOne_need (s : State) : s.feedOne.du.need = s.du.need := by
  unfold State.feedOne
  repeat' split
  · simp [State.addRepair]
  all_goals rfl

/-- A feed that changes the state takes one of three positions. -/
theorem State.feedOne_cases (s : State) :
    s.feedOne = s ∨ s.du.repair.length < 3 ∧ s.feedOne.du.repair.length = s.du.repair.length + 1 := by
  unfold State.feedOne
  split
  · split
    · rename_i hlt
      split
      · exact .inr ⟨hlt, State.addRepair_length _ _ _⟩
      · exact .inl rfl
    · exact .inl rfl
  · exact .inl rfl

/-! ### The repair feed (R58) -/

/-- Three positions are filled by three feeds: a fourth changes nothing. -/
theorem State.repairFeed_ended (s : State) : s.repairFeed.feedOne = s.repairFeed := by
  unfold State.repairFeed
  rcases s.feedOne_cases with h1 | ⟨-, h1⟩
  · simp only [h1]
  rcases s.feedOne.feedOne_cases with h2 | ⟨-, h2⟩
  · simp only [h2]
  rcases s.feedOne.feedOne.feedOne_cases with h3 | ⟨-, h3⟩
  · simp only [h3]
  exact s.feedOne.feedOne.feedOne.feedOne_cases.resolve_right fun h4 => by omega

theorem State.repairFeed_again (s : State) : s.repairFeed.repairFeed = s.repairFeed := by
  rw [State.repairFeed, State.repairFeed_ended, State.repairFeed_ended, State.repairFeed_ended]

theorem State.feedOne_length {s : State} (h : s.du.repair.length ≤ 3) : s.feedOne.du.repair.length ≤ 3 := by
  rcases s.feedOne_cases with hs | ⟨hlt, hs⟩
  · rwa [hs]
  · omega

theorem State.repairFeed_length {s : State} (h : s.du.repair.length ≤ 3) : s.repairFeed.du.repair.length ≤ 3 :=
  State.feedOne_length (State.feedOne_length (State.feedOne_length h))

theorem State.repairFeed_need (s : State) : s.repairFeed.du.need = s.du.need := by
  simp only [State.repairFeed, State.feedOne_need]

/-! ### When the two are made (R42, R58) -/

theorem State.callsNeedTest_iff (s before : State) :
    s.callsNeedTest before = true ↔
      s.cs.current ≠ before.cs.current
      ∨ s.jc.record.map (fun r => (r.mark, r.lastRun)) ≠ before.jc.record.map (fun r => (r.mark, r.lastRun))
      ∨ (∃ u ∈ s.window, before.held u = true ∧ s.held u = false
        ∨ (before.store.entry u).presence ≠ .absent ∧ (s.store.entry u).presence = .absent)
      ∨ ∃ w, (w ∈ before.du.need ∨ w ∈ before.du.repair) ∧ s.du.has w.track = false := by
  simp only [State.callsNeedTest, Bool.or_eq_true, decide_eq_true_eq, List.any_eq_true, List.mem_append,
    Bool.and_eq_true, Bool.not_eq_true', decide_eq_false_iff_not, or_assoc, ne_eq]

theorem State.repairGained_iff (s before : State) :
    s.repairGained before = true ↔ ∃ r b t, s.jc.record = some r ∧ before.jc.record = some b ∧ t ∈ r.repair
      ∧ ¬ t ∈ b.repair := by
  cases hs : s.jc.record <;> cases hb : before.jc.record <;> simp [State.repairGained, hs, hb]

section
variable {s before : State}

theorem State.settle_calm (hc : s.callsNeedTest before = false) : s.settle before = s.repairFeed := by
  cases hg : s.repairGained before
  · simp only [State.settle, hc, hg, Bool.false_eq_true, if_false]
  · simp only [State.settle, hc, hg, Bool.false_eq_true, if_false, if_true, State.repairFeed_again]

theorem State.settle_needTest (hc : s.callsNeedTest before = true) (hg : s.repairGained before = false) :
    s.settle before = s.needTest.repairFeed := by
  simp only [State.settle, hc, hg, Bool.false_eq_true, if_false, if_true]

theorem State.settle_feedFirst (hc : s.callsNeedTest before = true) (hg : s.repairGained before = true) :
    s.settle before = s.repairFeed.needTest.repairFeed := by
  simp only [State.settle, hc, hg, if_true]

end

/-- Settles O37: the window and its tests, the repair feed, and the events that call for the two. -/
theorem needTestAsksForTheWindow : Obligations.NeedTestAsksForTheWindow := by
  refine ⟨fun s r hr => ⟨State.mem_window hr, rfl, s.window_ascends, fun u => JobRecord.released_iff, fun u hu =>
      ⟨State.needTestOf_served hr hu, fun hh hf hd => ⟨State.needTestOf_lost hr hu hh hf hd,
        State.needTestOf_above hr hu hh hf hd, fun hl hm hb hn hq => ?_, fun hl hm hq => ?_⟩⟩⟩,
    fun s r hr => ?_, fun s before => ⟨s.callsNeedTest_iff before, s.repairGained_iff before,
      fun hc _ => State.settle_calm hc, fun hc _ => State.settle_calm hc, State.settle_needTest, State.settle_feedFirst⟩⟩
  · rw [State.needTestOf_asks hr hu hh hf hd hl hm, State.addNeed_taken _ (State.accepts_want hb hn hq)]
  · rw [State.needTestOf_asks hr hu hh hf hd hl hm, State.addNeed_refused _ (State.refuses_want hq)]
  · intro eligible
    have first {before after : List Nat} {u : Nat} (hlt : s.du.repair.length < 3)
        (hl : r.repair = before ++ u :: after) (hb : ∀ x ∈ before, ¬ eligible x) (hu : eligible u) :
        s.feedOne = s.addRepair u r.jobId :=
      State.feedOne_first hr hlt hl (fun x hx => mt State.eligible_iff.1 (hb x hx)) (State.eligible_iff.2 hu)
    refine ⟨fun h => State.feedOne_calm hr (h.imp_right fun hn u hu => mt State.eligible_iff.1 (hn u hu)),
      fun before u after hlt hl hb hu => ⟨fun hboot hn hq => ?_, fun hq => ?_⟩, rfl, s.repairFeed_ended,
      State.repairFeed_length, s.repairFeed_need, by simp, by simp⟩
    · rw [first hlt hl hb hu, State.addRepair_taken _ (State.accepts_want hboot hn hq)]
    · rw [first hlt hl hb hu, State.addRepair_refused _ (State.refuses_want hq)]

end Sys2Proof.Machine
end

section
/-! PROOFS. RELEASE_CUT_OFF, damage, freeing and the pins (R25, R33 to R38, R55, R114, R116). -/

namespace Sys2Proof.Machine

/-! ### Freeing (R37, R38) -/

theorem Slot.closing_iff {e : Slot} : e.closing = true ↔ e.damaged = true ∨ e.freePending = true := by
  simp [Slot.closing]

theorem Slot.pins_eq_zero {e : Slot} : e.pins = 0 ↔ e.drivePin = false ∧ e.linkPin = false := by
  cases hd : e.drivePin <;> cases hl : e.linkPin <;> simp [Slot.pins, hd, hl]

/-- A slot that is not closing, or is pinned, stays. -/
theorem State.freeIfClosing_stays {s : State} {i : Nat}
    (h : ¬ ((s.store.slot i).damaged = true ∨ (s.store.slot i).freePending = true)
      ∨ (s.store.slot i).drivePin = true ∨ (s.store.slot i).linkPin = true) : s.freeIfClosing i = s := by
  have stays : ¬ (((s.store.slot i).closing && (s.store.slot i).pins == 0) = true) := by
    rw [Bool.and_eq_true, beq_iff_eq, Slot.closing_iff, Slot.pins_eq_zero]
    rintro ⟨hc, hd, hl⟩
    rcases h with h | h | h
    · exact h hc
    · simp [hd] at h
    · simp [hl] at h
  exact if_neg stays

/-- What a state looks like once slot `i` with track `t` of another has been freed (R22, R37). -/
structure State.FreesSlot (s u : State) (i t : Nat) : Prop where
  slot : u.store.slot i = {}
  others : ∀ j, j ≠ i → u.store.slot j = s.store.slot j
  entry : u.store.entry t = { s.store.entry t with presence := .absent, slot := none }
  entries : ∀ x, x ≠ t → u.store.entry x = s.store.entry x
  cache : u.store.cache = s.store.cache.erase i
  mem : u.store.mem = s.store.mem
  allowance : u.store.allowance = s.store.allowance
  home : (s.store.slot i).damaged = true → (s.store.slot i).state = .home →
    u.store.reservation = s.store.reservation + 1
    ∧ u.jc = { s.jc with record := s.jc.record.map fun r => { r with repair := insertTrack t r.repair } }
  away : (s.store.slot i).damaged = false ∨ (s.store.slot i).state ≠ .home →
    u.store.reservation = s.store.reservation ∧ u.jc = s.jc
  blocks : u.lc = s.lc ∧ u.du = s.du ∧ u.cs = s.cs ∧ u.ss = s.ss ∧ u.dp = s.dp

section
variable {s : State} {i t : Nat} (ht : (s.store.slot i).track = some t)
  (hc : (s.store.slot i).damaged = true ∨ (s.store.slot i).freePending = true)
  (hd : (s.store.slot i).drivePin = false) (hl : (s.store.slot i).linkPin = false)
include ht hc hd hl

/-- A closing slot without pins is freed; the track of a damaged HOME slot rejoins the repair list. -/
theorem State.freeIfClosing_eq :
    s.freeIfClosing i = if (s.store.slot i).damaged = true ∧ (s.store.slot i).state = .home then
      State.rejoinRepair t { s with store := s.store.freeSlot i } else { s with store := s.store.freeSlot i } := by
  have frees : ((s.store.slot i).closing && (s.store.slot i).pins == 0) = true := by
    simp [Slot.closing_iff, Slot.pins_eq_zero, hc, hd, hl]
  simp only [State.freeIfClosing, frees, if_true, ht]
  cases (s.store.slot i).damaged <;> cases (s.store.slot i).state <;> rfl

theorem State.freeIfClosing_frees (hi : i < 64) (ht' : t < 168) : s.FreesSlot (s.freeIfClosing i) i t := by
  rw [State.freeIfClosing_eq ht hc hd hl]
  have others (j : Nat) (h : j ≠ i) : (s.store.freeSlot i).slot j = s.store.slot j := s.store.freeSlot_slot_ne h
  have entries (x : Nat) (h : x ≠ t) : (s.store.freeSlot i).entry x = s.store.entry x :=
    s.store.freeSlot_entry_ne (by simpa [ht] using h.symm)
  obtain ⟨reservation, allowance, -, mem⟩ := s.store.freeSlot_kept i
  by_cases h : (s.store.slot i).damaged = true ∧ (s.store.slot i).state = .home
  · rw [if_pos h]
    exact ⟨s.store.freeSlot_slot i hi, others, s.store.freeSlot_entry i t ht' ht, entries, s.store.freeSlot_cache i,
      mem, allowance, fun _ _ => ⟨congrArg (· + 1) reservation, rfl⟩, fun ha => by simp [h] at ha,
      rfl, rfl, rfl, rfl, rfl⟩
  · rw [if_neg h]
    exact ⟨s.store.freeSlot_slot i hi, others, s.store.freeSlot_entry i t ht' ht, entries, s.store.freeSlot_cache i,
      mem, allowance, fun h1 h2 => absurd ⟨h1, h2⟩ h, fun _ => ⟨reservation, rfl⟩, rfl, rfl, rfl, rfl, rfl⟩

end

/-! ### A request to free a slot (R38) -/

/-- The state with slot `i` free pending. -/
def State.freePendingAt (i : Nat) (s : State) : State :=
  { s with store := s.store.setSlot i { s.store.slot i with freePending := true } }

theorem State.freePendingAt_slot (s : State) {i : Nat} (hi : i < 64) :
    (s.freePendingAt i).store.slot i = { s.store.slot i with freePending := true } := s.store.slot_setSlot i _ hi

/-- What a request frees, it frees of the state it is made in. -/
theorem State.FreesSlot.ofPending {s u : State} {i t : Nat} (hi : i < 64) (h : (s.freePendingAt i).FreesSlot u i t) :
    s.FreesSlot u i t where
  slot := h.slot
  others j hj := (h.others j hj).trans (s.store.slot_setSlot_ne _ hj)
  entry := h.entry
  entries := h.entries
  cache := h.cache
  mem := h.mem
  allowance := h.allowance
  home hd hs := h.home (by rwa [s.freePendingAt_slot hi]) (by rwa [s.freePendingAt_slot hi])
  away hn := h.away (by rwa [s.freePendingAt_slot hi])
  blocks := h.blocks

theorem State.requestFree_frees {s : State} {i t : Nat} (hi : i < 64) (ht' : t < 168)
    (ht : (s.store.slot i).track = some t) (hd : (s.store.slot i).drivePin = false)
    (hl : (s.store.slot i).linkPin = false) : s.FreesSlot (s.requestFree i) i t := by
  have slot := s.freePendingAt_slot hi
  exact (State.freeIfClosing_frees (s := s.freePendingAt i) (by rw [slot, ht]) (by simp [slot]) (by rw [slot, hd])
    (by rw [slot, hl]) hi ht').ofPending hi

theorem State.requestFree_pinned {s : State} {i : Nat} (hi : i < 64)
    (h : (s.store.slot i).drivePin = true ∨ (s.store.slot i).linkPin = true) : s.requestFree i = s.freePendingAt i :=
  State.freeIfClosing_stays (s := s.freePendingAt i) (.inr (by simpa only [s.freePendingAt_slot hi] using h))

/-! ### A slot marked damaged (R36, R37) -/

/-- The state with slot `i` damaged, and the damage counted. -/
def State.damagedAt (i : Nat) (s : State) : State :=
  { s with store := s.store.setSlot i { s.store.slot i with damaged := true } }.count
    fun c => { c with damaged := bump c.damaged }

theorem State.damagedAt_slot (s : State) {i : Nat} (hi : i < 64) :
    (s.damagedAt i).store.slot i = { s.store.slot i with damaged := true } := s.store.slot_setSlot i _ hi

theorem State.markDamaged_new {s : State} {i : Nat} (h : (s.store.slot i).damaged = false) :
    s.markDamaged i = (s.damagedAt i).freeIfClosing i := by
  simp only [State.markDamaged, h, Bool.false_eq_true, if_false]
  rfl

theorem State.markDamaged_counts {s : State} {i : Nat} (h : (s.store.slot i).damaged = false) :
    (s.markDamaged i).lc.counters = { s.lc.counters with damaged := min (s.lc.counters.damaged + 1) 4294967295 } := by
  rw [State.markDamaged_new h, ((s.damagedAt i).freeIfClosing_kept i).2.2.2.2.1]
  rfl

theorem State.markDamaged_pinned {s : State} {i : Nat} (hi : i < 64) (h : (s.store.slot i).damaged = false)
    (hp : (s.store.slot i).pins ≠ 0) : s.markDamaged i = s.damagedAt i := by
  rw [State.markDamaged_new h]
  refine State.freeIfClosing_stays (.inr ?_)
  rw [s.damagedAt_slot hi]
  rw [ne_eq, Slot.pins_eq_zero] at hp
  simpa [Classical.or_iff_not_imp_left] using hp

theorem State.markDamaged_frees {s : State} {i t : Nat} (hi : i < 64) (ht' : t < 168)
    (ht : (s.store.slot i).track = some t) (h : (s.store.slot i).damaged = false) (hp : (s.store.slot i).pins = 0) :
    (s.damagedAt i).FreesSlot (s.markDamaged i) i t := by
  obtain ⟨hd, hl⟩ := Slot.pins_eq_zero.1 hp
  have slot := s.damagedAt_slot hi
  rw [State.markDamaged_new h]
  exact State.freeIfClosing_frees (by rw [slot, ht]) (by simp [slot]) (by rw [slot, hd]) (by rw [slot, hl]) hi ht'

/-! ### The pins (R25, R33, R34) -/

/-- The state with slot `i` written as its pin is released: a CACHE slot goes to the tail of the cache order list. -/
def State.unpinnedAs (i : Nat) (x : Slot) (s : State) : State :=
  { s with store := { s.store.setSlot i x with
    cache := if (s.store.slot i).state = .cache then s.store.cache.erase i ++ [i] else s.store.cache } }

theorem State.unpinnedAs_slot (s : State) {i : Nat} (x : Slot) (hi : i < 64) :
    (s.unpinnedAs i x).store.slot i = x := s.store.slot_setSlot i x hi

/-- A pin released from a slot, its state as it was. -/
theorem State.unpinned_eq {s : State} {i : Nat} {x : Slot} (hi : i < 64) (hx : x.state = (s.store.slot i).state) :
    State.unpinned i { s with store := s.store.setSlot i x } = (s.unpinnedAs i x).freeIfClosing i := by
  have slot : (s.store.setSlot i x).slot i = x := s.store.slot_setSlot i x hi
  unfold State.unpinned State.unpinnedAs
  dsimp only
  rw [slot, hx]
  split <;> rfl

section
variable {s : State} {i : Nat} (hi : i < 64)
include hi

theorem State.drivePinned_iff :
    s.store.drivePinned = some i ↔ (s.store.slot i).drivePin = true ∧ ∀ j < i, (s.store.slot j).drivePin = false := by
  simp [Store.drivePinned, Store.firstSlot_eq_some, hi]

theorem State.linkPinned_iff :
    s.store.linkPinned = some i ↔ (s.store.slot i).linkPin = true ∧ ∀ j < i, (s.store.slot j).linkPin = false := by
  simp [Store.linkPinned, Store.firstSlot_eq_some, hi]

theorem State.releaseDrivePin_eq (h : s.store.drivePinned = some i) :
    s.releaseDrivePin = (s.unpinnedAs i { s.store.slot i with drivePin := false }).freeIfClosing i := by
  simp only [State.releaseDrivePin, h]
  exact State.unpinned_eq hi rfl

theorem State.releaseLinkPin_eq (h : s.store.linkPinned = some i) :
    s.releaseLinkPin = (s.unpinnedAs i { s.store.slot i with linkPin := false }).freeIfClosing i := by
  simp only [State.releaseLinkPin, h]
  exact State.unpinned_eq hi rfl

/-- The drive pin released from a slot that is not closing, or keeps its link pin. -/
theorem State.releaseDrivePin_stays (h : s.store.drivePinned = some i)
    (hs : ¬ ((s.store.slot i).damaged = true ∨ (s.store.slot i).freePending = true)
      ∨ (s.store.slot i).linkPin = true) :
    s.releaseDrivePin = s.unpinnedAs i { s.store.slot i with drivePin := false } := by
  rw [State.releaseDrivePin_eq hi h]
  refine State.freeIfClosing_stays ?_
  rw [s.unpinnedAs_slot _ hi]
  exact hs.imp_right .inr

/-- The link pin released from a slot that is not closing, or keeps its drive pin. -/
theorem State.releaseLinkPin_stays (h : s.store.linkPinned = some i)
    (hs : ¬ ((s.store.slot i).damaged = true ∨ (s.store.slot i).freePending = true)
      ∨ (s.store.slot i).drivePin = true) :
    s.releaseLinkPin = s.unpinnedAs i { s.store.slot i with linkPin := false } := by
  rw [State.releaseLinkPin_eq hi h]
  refine State.freeIfClosing_stays ?_
  rw [s.unpinnedAs_slot _ hi]
  exact hs.imp_right .inl

end

theorem State.releaseDrivePin_none {s : State} (h : s.store.drivePinned = none) : s.releaseDrivePin = s := by
  simp only [State.releaseDrivePin, h]

theorem State.releaseLinkPin_none {s : State} (h : s.store.linkPinned = none) : s.releaseLinkPin = s := by
  simp only [State.releaseLinkPin, h]

/-! ### The check of the slot sent (R35, R36) -/

/-- The state with bytes of slot `i` changed of themselves. -/
def State.upsetAt (i : Nat) (u : Upset) (s : State) : State := { s with store := s.store.upset i u }

/-- A frame on the medium that is no GOOD RELEASE uses no slot. -/
theorem State.cutOff_plain {s : State} {f : Frame} (u : Upset) (hf : s.lc.sending = some f)
    (hb : ∀ t reason o z n w, f.body ≠ .release t .good reason o z n w) : s.cutOff f u = s := by
  have unused : s.sendingSlot = none := by
    unfold State.sendingSlot
    rw [hf]
    dsimp only
    split
    · rename_i h
      exact absurd h (hb _ _ _ _ _ _)
    · rfl
  simp only [State.cutOff, unused]

section
variable {s : State} {f : Frame} {t : Nat} {reason : ReleaseReason} {o : ReleaseOrigin} {z n : Nat} {w : CheckWord}
  {i : Nat} (hf : s.lc.sending = some f) (hb : f.body = .release t .good reason o z n w)
  (hp : s.store.linkPinned = some i)
include hf hb hp

theorem State.cutOff_release (u : Upset) :
    s.cutOff f u = if (s.upsetAt i u).useFails i then (s.upsetAt i u).cutFrame f i else s.upsetAt i u := by
  have used : s.sendingSlot = some i := by simp only [State.sendingSlot, hf, hb, hp]
  simp only [State.cutOff, used]
  rfl

end

theorem State.useFails_upset {s : State} {r : JobRecord} (hr : s.jc.record = some r) (i : Nat) (u : Upset) :
    (s.upsetAt i u).useFails i = true ↔ (s.store.slot i).damaged = true
      ∨ crc32 ((s.upsetAt i u).store.trackData r.recipe i) ≠ (s.store.slot i).check := by
  have recipe : (s.upsetAt i u).recipe = some r.recipe := by simp [State.recipe, State.upsetAt, hr]
  have slot : (s.upsetAt i u).store.slot i = s.store.slot i := rfl
  simp only [State.useFails, recipe, slot, Store.trackCheck, Bool.or_eq_true, Bool.not_eq_true', decide_eq_false_iff_not,
    ne_eq]

/-! ### The frame cut off (R36, R55, R56, R114, R116) -/

/-- The damaged slot is marked, the frame has left the queue and its link pin is released. -/
def State.cutFound (f : Frame) (i : Nat) (s : State) : State := ((s.markDamaged i).dequeue f.key).releaseLinkPin

theorem State.cutFound_ss (f : Frame) (i : Nat) (s : State) : (s.cutFound f i).ss = s.ss := by simp [State.cutFound]

section
variable {s : State} {f : Frame} {t : Nat} {status : ReleaseStatus} {reason : ReleaseReason} {z n : Nat} {w : CheckWord}
  (i : Nat)

theorem State.cutFrame_answer (hb : f.body = .release t status reason .answer z n w) :
    s.cutFrame f i = s.cutFound f i := by
  simp only [State.cutFrame, hb]
  rfl

theorem State.cutFrame_duRestore (hb : f.body = .release t status reason .duRestore z n w) :
    s.cutFrame f i = ((s.cutFound f i).queueRestore t).serveAppended := by
  simp only [State.cutFrame, hb]
  rfl

theorem State.cutFrame_source (hb : f.body = .release t status reason .source z n w) :
    s.cutFrame f i = (s.cutFound f i).sourceCutOff t reason := by
  simp only [State.cutFrame, hb]
  rfl

end

section
variable {s : State} {t : Nat} {reason : ReleaseReason}

theorem State.sourceCutOff_abandoned (h : s.ss.abandon ≠ none) : s.sourceCutOff t reason = s.releaseDrivePin :=
  if_pos (Option.isSome_iff_ne_none.2 h)

variable (ha : s.ss.abandon = none)
include ha

/-- A restore damaged twice goes out as LOST. -/
theorem State.sourceCutOff_lost (hs : s.ss.reread = some t) :
    s.sourceCutOff t .restore = s.releaseDrivePin.enterRelease ⟨t, .lost, .restore⟩ := by
  simp [State.sourceCutOff, ha, hs]

/-- A first pass whose track is damaged twice ends in the abandon. -/
theorem State.sourceCutOff_abandons (hs : s.ss.reread = some t) (hn : reason ≠ .restore) :
    s.sourceCutOff t reason = s.releaseDrivePin.sourceAbandon .masterUnreadable := by
  cases reason
  case restore => exact absurd rfl hn
  all_goals simp [State.sourceCutOff, ha, hs]

/-- A restore damaged once is served again. -/
theorem State.sourceCutOff_serves (hs : s.ss.reread ≠ some t) :
    s.sourceCutOff t .restore = State.serve t { s.releaseDrivePin with
      ss := { s.releaseDrivePin.ss with reread := some t } } := by
  simp [State.sourceCutOff, ha, hs, State.mapSource]

/-- A first pass whose track is damaged once reads it again. -/
theorem State.sourceCutOff_reads (hs : s.ss.reread ≠ some t) (hn : reason ≠ .restore) :
    s.sourceCutOff t reason = State.startRead t { s.releaseDrivePin with
      ss := { s.releaseDrivePin.ss with state := .read, reread := some t } } := by
  cases reason
  case restore => exact absurd rfl hn
  all_goals simp [State.sourceCutOff, ha, hs, State.mapSource]

end

theorem exec_releaseCutOff_idle {s : State} (u : Upset) (h : s.lc.sending = none) :
    exec (.releaseCutOff u) s = .next s := by
  show execReleaseCutOff u s = _
  simp only [execReleaseCutOff, h]

theorem exec_releaseCutOff_sending {s : State} {f : Frame} (u : Upset) (h : s.lc.sending = some f) :
    exec (.releaseCutOff u) s = .next ((s.cutOff f u).settle s) := by
  show execReleaseCutOff u s = _
  simp only [execReleaseCutOff, h]

/-- Settles O17: the check at the command, the slot marked damaged, and the pins. -/
theorem damageCutsTheReleaseOffAndFreesTheSlot : Obligations.DamageCutsTheReleaseOffAndFreesTheSlot := by
  refine ⟨fun u s => ⟨exec_releaseCutOff_idle u, fun f hf hb => ?_,
      fun f t reason o z n w i r hf hb hp hr => ?_⟩, fun s i t hi ht' ht hd => ?_, fun s i hi => ?_⟩
  · rw [exec_releaseCutOff_sending u hf, State.cutOff_plain u hf hb]
  · intro read fails found off
    have cut (h : fails) : exec (.releaseCutOff u) s = .next ((State.cutFrame f i read).settle s) := by
      rw [exec_releaseCutOff_sending u hf, State.cutOff_release hf hb hp, if_pos ((State.useFails_upset hr i u).2 h)]
      rfl
    have ss : found.ss = s.ss := State.cutFound_ss f i read
    have source (ho : o = .source) : State.cutFrame f i read = found.sourceCutOff t reason := by
      subst ho
      exact State.cutFrame_source i hb
    refine ⟨fun h => ?_, fun h => ⟨fun ho => ?_, fun ho => ?_, fun ho ha => ?_, fun ho ha => ⟨fun hs hrs => ?_,
      fun hs hrs => ?_, fun hs hrs => ?_, fun hs hrs => ?_⟩⟩⟩
    · rw [exec_releaseCutOff_sending u hf, State.cutOff_release hf hb hp,
        if_neg (mt (State.useFails_upset hr i u).1 h)]
      rfl
    · subst ho
      rw [cut h, State.cutFrame_answer i hb]
      rfl
    · subst ho
      rw [cut h, State.cutFrame_duRestore i hb]
      rfl
    · rw [cut h, source ho, State.sourceCutOff_abandoned (by rwa [ss])]
    · rw [cut h, source ho, hrs, State.sourceCutOff_lost (by rwa [ss]) (by rwa [ss])]
    · rw [cut h, source ho, State.sourceCutOff_abandons (by rwa [ss]) (by rwa [ss]) hrs]
    · rw [cut h, source ho, hrs, State.sourceCutOff_serves (by rwa [ss]) (by rwa [ss])]
    · rw [cut h, source ho, State.sourceCutOff_reads (by rwa [ss]) (by rwa [ss]) hrs]
  · refine ⟨State.markDamaged_counts hd, fun hp => ?_, fun hp => ?_⟩
    · rw [State.markDamaged_pinned hi hd hp]
      exact ⟨s.damagedAt_slot hi, rfl⟩
    · have frees := State.markDamaged_frees hi ht' ht hd hp
      have slot := s.damagedAt_slot hi
      refine ⟨frees.slot, frees.entry, frees.cache, fun hh => ?_, fun hh => frees.away (.inr (by rwa [slot]))⟩
      obtain ⟨reservation, jc⟩ := frees.home (by rw [slot]) (by rw [slot, hh])
      refine ⟨reservation, fun r hr => ?_⟩
      rw [jc]
      exact congrArg (Option.map _) hr
  · intro e closing freed left
    have whole {u : State} {t : Nat} (h : s.FreesSlot u i t) : freed u t :=
      ⟨h.slot, h.others, h.entry, h.entries, h.cache, h.mem, h.allowance, h.home, h.away, h.blocks⟩
    exact ⟨State.freeIfClosing_stays,
      fun t ht' ht hd hl => ⟨fun hc => whole (State.freeIfClosing_frees ht hc hd hl hi ht'),
        whole (State.requestFree_frees hi ht' ht hd hl)⟩,
      State.requestFree_pinned hi, State.drivePinned_iff hi, State.linkPinned_iff hi,
      State.releaseDrivePin_none, State.releaseLinkPin_none,
      fun h => ⟨State.releaseDrivePin_stays hi h, fun _ _ => State.releaseDrivePin_eq hi h⟩,
      fun h => ⟨State.releaseLinkPin_stays hi h, fun _ _ => State.releaseLinkPin_eq hi h⟩⟩

end Sys2Proof.Machine
end

section
/-! PROOFS. WANT: an own one counted, another station's shared, then answered or restored (R45 to R60, R115). -/

namespace Sys2Proof.Machine

/-! ### The command (R45, R60, R159) -/

/-- WANT of the job, heard: by its sender it is an own one or another station's. -/
theorem execWant_job {f : Rx} {s : State} {r : JobRecord} {b : WantBody} (h : s.receives)
    (hr : s.jc.record = some r) (hj : f.jobId = r.jobId) (hp : parseWant f.body = some b) :
    exec (.want f) s = .next ((if f.sender = s.station then (s.heard (.want b.track) f.sender).ownWant b
      else (s.heard (.want b.track) f.sender).otherWant b).afterCompletion s) := by
  have record : (s.heard (.want b.track) f.sender).jc.record = some r := State.heard_record _ (by simp) hr
  have station : (s.heard (.want b.track) f.sender).station = s.station := by simp
  show Host.Outcome.next _ = _
  rw [State.completed_heard _ _ _ _ _ _ _ h hp (.want b.track) rfl]
  simp only [State.inJob, record, hj, station, if_true]
  by_cases hs : f.sender = s.station
  · simp only [if_pos hs]
  · simp only [if_neg hs]

/-- An own WANT is counted, and its QUEUED entry waits with a deadline. -/
theorem State.heard_ownWant (s : State) (k : FrameKey) (i : StationId) (b : WantBody) :
    (s.heard k i).ownWant b = { s.heard k i with
      lc := { (s.heard k i).lc with counters := { s.lc.counters with
        wants := bump s.lc.counters.wants
        restores := if b.restore then bump s.lc.counters.restores else s.lc.counters.restores } }
      du := s.du.update b.track fun w => if w.phase = .queued then s.waitingWant w else w } := by
  simp [State.ownWant, State.count, State.wantHeard, State.mapDu, State.waitingWant, State.after]

/-! ### Sharing (R47) -/

/-- No frame of the key is on the medium, where each one queued waits. -/
theorem Link.absent_or_waiting {lc : Link} {k : FrameKey} :
    (lc.has k = false ∨ lc.waiting k = true) ↔ ∀ g ∈ lc.queue, g.key = k → lc.waiting k = true := by
  rw [Link.has_eq_false]
  cases lc.waiting k <;> simp

/-- An entry shares the WANT heard: QUEUED, of its track and flag, its own WANT not on the medium. -/
def State.shares (b : WantBody) (s : State) : Prop :=
  ∃ w, s.du.find b.track = some w ∧ w.phase = .queued ∧ w.restore = b.restore
    ∧ ∀ g ∈ s.lc.queue, g.key = .want b.track → s.lc.waiting (.want b.track) = true

theorem State.shareWant_shared {b : WantBody} {s : State} (h : s.shares b) :
    s.shareWant b = (s.wantHeard b.track).withdrawKey (.want b.track) := by
  obtain ⟨w, hw, hq, hf, hg⟩ := h
  simp only [State.shareWant, hw]
  exact if_pos ⟨hq, hf, Link.absent_or_waiting.2 hg⟩

theorem State.shareWant_alone {b : WantBody} {s : State} (h : ¬ s.shares b) : s.shareWant b = s := by
  unfold State.shareWant
  split
  · rename_i w hw
    exact if_neg fun ⟨hq, hf, hg⟩ => h ⟨w, hw, hq, hf, Link.absent_or_waiting.1 hg⟩
  · rfl

/-! ### The answer decision (R52, R53) -/

theorem Link.has_iff {lc : Link} {k : FrameKey} : lc.has k = true ↔ ∃ g ∈ lc.queue, g.key = k := by
  simp [Link.has]

theorem Link.hasRelease_iff {lc : Link} {t : Nat} :
    lc.hasRelease t = true ↔ ∃ g ∈ lc.queue, ∃ reason, g.key = .release t reason := by
  simp only [Link.hasRelease, Bool.or_eq_true, Link.has_iff]
  constructor
  · rintro ((⟨g, hg, hk⟩ | ⟨g, hg, hk⟩) | ⟨g, hg, hk⟩) <;> exact ⟨g, hg, _, hk⟩
  · rintro ⟨g, hg, reason, hk⟩
    cases reason
    case firstPass => exact .inl (.inl ⟨g, hg, hk⟩)
    case answer => exact .inl (.inr ⟨g, hg, hk⟩)
    case restore => exact .inr ⟨g, hg, hk⟩

/-- The station answers from slot `i`: the SOURCE from any slot, a MEMBER from a HOME slot. -/
def State.answersFrom (s : State) (r : JobRecord) (i : Nat) : Prop :=
  r.role = .source ∨ r.role = .member ∧ (s.store.slot i).state = .home

section
variable {s : State} {r : JobRecord} {t i : Nat} (hr : s.jc.record = some r) (hi : s.store.heldSlot t = some i)
include hr hi

/-- The answer decision for a track held here. -/
theorem State.answerWant_held [Decidable (s.answersFrom r i)] :
    s.answerWant t = if r.kind = .copy ∧ t < r.tracks ∧ s.answersFrom r i ∧ s.lc.hasRelease t = false then
      s.enter (s.goodRelease r t i .answer .answer) r.jobId else s := by
  simp only [State.answerWant, hr, hi]
  cases hrole : r.role <;> simp [State.answersFrom, hrole, and_assoc]

theorem State.answerWant_enters (hk : r.kind = .copy) (ht : t < r.tracks) (hq : s.lc.hasRelease t = false)
    (ha : s.answersFrom r i) : s.answerWant t = s.enter (s.goodRelease r t i .answer .answer) r.jobId := by
  classical
  rw [State.answerWant_held hr hi, if_pos ⟨hk, ht, ha, hq⟩]

theorem State.answerWant_passes
    (h : r.kind = .format ∨ r.tracks ≤ t ∨ s.lc.hasRelease t = true ∨ ¬ s.answersFrom r i) : s.answerWant t = s := by
  classical
  rw [State.answerWant_held hr hi, if_neg]
  rintro ⟨hk, ht, ha, hq⟩
  rcases h with h | h | h | h
  · simp [hk] at h
  · omega
  · simp [hq] at h
  · exact h ha

end

theorem State.answerWant_absent {s : State} {t : Nat} (h : s.store.heldSlot t = none) : s.answerWant t = s := by
  unfold State.answerWant
  split
  · rename_i hi
    simp [h] at hi
  · rfl

/-! ### A restore request at the SOURCE (R56) -/

/-- A track joins a restore queue with a place left, unless it is there or in progress. -/
theorem State.queueRestore_joins {s : State} {t : Nat} (hp : s.ss.restoring ≠ some t) (hn : ¬ t ∈ s.du.restores)
    (hl : s.du.restores.length < 8) :
    s.queueRestore t = { s with du := { s.du with restores := s.du.restores ++ [t] } } := by
  refine if_neg ?_
  rintro (h | h | h)
  · exact hp h
  · exact hn h
  · exact Nat.not_le.2 hl h

theorem State.queueRestore_stays {s : State} {t : Nat}
    (h : s.ss.restoring = some t ∨ t ∈ s.du.restores ∨ 8 ≤ s.du.restores.length) : s.queueRestore t = s := if_pos h

section
variable {s : State} {r : JobRecord} {t : Nat} (hr : s.jc.record = some r)
include hr

theorem State.restoreRequest_passes
    (h : r.kind = .format ∨ r.role ≠ .source ∨ r.tracks ≤ t ∨ s.lc.hasRelease t = true) :
    s.restoreRequest t = s := by
  simp only [State.restoreRequest, hr]
  refine if_neg fun ⟨hk, ho, ht, hq⟩ => ?_
  rcases h with h | h | h | h
  · simp [hk] at h
  · exact h ho
  · omega
  · simp [hq] at h

variable (hk : r.kind = .copy) (ho : r.role = .source) (ht : t < r.tracks) (hq : s.lc.hasRelease t = false)
include hk ho ht hq

/-- A track held at the SOURCE is restored from the store. -/
theorem State.restoreRequest_held {i : Nat} (hi : s.store.heldSlot t = some i) :
    s.restoreRequest t = s.enter (s.goodRelease r t i .restore .duRestore) r.jobId := by
  simp only [State.restoreRequest, hr, hi]
  exact if_pos ⟨hk, ho, ht, hq⟩

/-- Any other track is left to the restore queue. -/
theorem State.restoreRequest_absent (hi : s.store.heldSlot t = none) : s.restoreRequest t = s.queueRestore t := by
  simp only [State.restoreRequest, hr, hi]
  exact if_pos ⟨hk, ho, ht, hq⟩

end

/-! ### The Source Sequencer takes a restore up (R115) -/

theorem State.decision_abandoned {s : State} (h : s.ss.abandon ≠ none) : s.decision = s := by
  unfold State.decision
  split
  · rename_i ha
    exact absurd ha h
  · rfl

/-- A decision point with a restore waiting takes up the head of the restore queue. -/
theorem State.decision_restores {s : State} {r : JobRecord} {u : Nat} {rest : List Nat} (hr : s.jc.record = some r)
    (ha : s.ss.abandon = none) (hd : s.du.restores = u :: rest) :
    s.decision = State.serve u (State.closeLapse { s with
      du := { s.du with restores := rest }, ss := { s.ss with state := .serve, restoring := some u } }) := by
  have recipe : s.recipe = some r.recipe := by simp [State.recipe, hr]
  simp only [State.decision, recipe, ha, hd, State.mapDu, State.mapSource]

theorem State.serveAppended_takesUp {s : State} {r : JobRecord} {u : Nat} {rest : List Nat}
    (hr : s.jc.record = some r) (hs : s.ss.state = .serve) (hp : s.ss.restoring = none) (ha : s.ss.abandon = none)
    (hd : s.du.restores = u :: rest) :
    s.serveAppended = State.serve u (State.closeLapse { s with
      du := { s.du with restores := rest }, ss := { s.ss with restoring := some u } }) := by
  have taken : s.serveAppended = s.decision := if_pos ⟨hs, hp, by simp [hd]⟩
  rw [taken, State.decision_restores hr ha hd, ← hs]

theorem State.serveAppended_stays {s : State}
    (h : s.ss.state ≠ .serve ∨ s.ss.restoring ≠ none ∨ s.ss.abandon ≠ none ∨ s.du.restores = []) :
    s.serveAppended = s := by
  unfold State.serveAppended
  split
  · rename_i hc
    obtain ⟨hs, hp, hd⟩ := hc
    rcases h with h | h | h | h
    · exact absurd hs h
    · exact absurd hp h
    · exact State.decision_abandoned h
    · exact absurd h hd
  · rfl

/-- Settles O32: the command, then sharing and the answer decision, then the restore request. -/
theorem wantIsCountedAnsweredOrRestored : Obligations.WantIsCountedAnsweredOrRestored := by
  refine ⟨fun f s r b h hr hj hp => ?_, fun s r b hr => ?_, fun s r t hr => ?_⟩
  · rw [execWant_job h hr hj hp]
    refine ⟨fun hs => ?_, fun hs hf => ?_, fun hs hf => ?_⟩
    · rw [if_pos hs, State.heard_ownWant]
      rfl
    · simp only [if_neg hs, State.otherWant, hf, Bool.false_eq_true, if_false]
    · simp only [if_neg hs, State.otherWant, hf, if_true]
  · refine ⟨State.shareWant_shared, State.shareWant_alone, Link.hasRelease_iff,
      fun i hi hk ht hq ha => State.answerWant_enters hr hi hk ht hq ha, fun h => ?_⟩
    cases hi : s.store.heldSlot b.track with
    | none => exact State.answerWant_absent hi
    | some i =>
      refine State.answerWant_passes hr hi ?_
      rcases h with h | h | h | h | h | ⟨hm, hn⟩
      · simp [hi] at h
      · exact .inl h
      · exact .inr (.inl h)
      · exact .inr (.inr (.inl h))
      · exact .inr (.inr (.inr (by simp [State.answersFrom, h])))
      · exact .inr (.inr (.inr (by simp [State.answersFrom, hm, hn i hi])))
  · refine ⟨State.restoreRequest_passes hr, fun hk ho ht hq =>
      ⟨fun i => State.restoreRequest_held hr hk ho ht hq, fun hi hp hn hl => ?_, fun hi h => ?_⟩,
      fun u rest => State.serveAppended_takesUp hr, State.serveAppended_stays⟩
    · rw [State.restoreRequest_absent hr hk ho ht hq hi, State.queueRestore_joins hp hn hl]
    · rw [State.restoreRequest_absent hr hk ho ht hq hi, State.queueRestore_stays h]

end Sys2Proof.Machine
end

section
/-! PROOFS. The deadlines of the want list and the last-track timeout (R41, R48 to R50). -/

namespace Sys2Proof.Machine

/-! ### The command (R48) -/

theorem State.deadlineExpires_idle {s : State} {t : Nat} (h : s.jc.record = none ∨ s.du.find t = none) :
    s.deadlineExpires t = s := by
  unfold State.deadlineExpires
  split
  · rename_i hr hw
    simp [hr, hw] at h
  · rfl

/-- The clock comes to the deadline, and the entry's phase says what follows. -/
theorem State.deadlineExpires_due {s : State} {r : JobRecord} {t d : Nat} {w : Want} (hr : s.jc.record = some r)
    (hw : s.du.find t = some w) (hd : w.deadline = some d) :
    s.deadlineExpires t = ((s.tickTo d).wantExpired w r.jobId).settle s := by
  simp only [State.deadlineExpires, hr, hw, hd]

/-! ### What follows by the phase (R48 to R50) -/

section
variable {w : Want} (j : JobId) (s : State)

theorem State.wantExpired_queued (h : w.phase = .queued) : s.wantExpired w j = s := by
  simp only [State.wantExpired, h]

theorem State.wantExpired_unsent (h : w.phase = .unsent) : s.wantExpired w j = s.resendWant w j := by
  simp only [State.wantExpired, h]

theorem State.wantExpired_givesUp (h : w.phase = .waiting) (hf : w.restore = true) :
    s.wantExpired w j = s.giveUp w.track := by
  simp only [State.wantExpired, h, hf, if_true]

/-- With attempts left the entry asks again. -/
theorem State.wantExpired_again (h : w.phase = .waiting) (hf : w.restore = false)
    (ha : w.attempt < s.pc.params.wantAttempts) :
    s.wantExpired w j = s.resendWant { w with attempt := w.attempt + 1 } j := by
  simp only [State.wantExpired, h, hf, Bool.false_eq_true, if_false, if_pos ha]

/-- At the limit the entry asks for a restore. -/
theorem State.wantExpired_restores (h : w.phase = .waiting) (hf : w.restore = false)
    (ha : s.pc.params.wantAttempts ≤ w.attempt) : s.wantExpired w j = s.resendWant { w with restore := true } j := by
  simp only [State.wantExpired, h, hf, Bool.false_eq_true, if_false, if_neg (Nat.not_lt.2 ha)]

end

/-! ### Giving up (R50) -/

section
variable {s : State} {t : Nat}

theorem State.giveUp_needed (h : s.du.need.any (fun w => decide (w.track = t)) = true) :
    s.giveUp t = (s.removeWant t).unobtainable := by
  simp only [State.giveUp, h, if_true]

/-- A repair track counts as home short and gives up its place and its reservation. -/
theorem State.giveUp_repair (h : s.du.need.any (fun w => decide (w.track = t)) = false) :
    s.giveUp t = { (s.removeWant t).mapRecord (fun r =>
        { r with repair := r.repair.erase t, homeShort := r.homeShort + 1 }) with
      store := { s.store with
        reservation := s.store.reservation - 1, allowance := s.store.allowance.erase t } } := by
  simp [State.giveUp, h]

end

/-! ### Entries that leave (R46, R89) -/

theorem Distribution.has_iff {du : Distribution} {t : Nat} :
    du.has t = true ↔ ∃ w, (w ∈ du.need ∨ w ∈ du.repair) ∧ w.track = t := by
  simp [Distribution.has, Distribution.find, or_and_right, exists_or]

theorem State.removeWant_absent {s : State} {t : Nat} (h : s.du.has t = false) : s.removeWant t = s := by
  simp [State.removeWant, h]

theorem State.removeWant_listed {s : State} {t : Nat} (h : s.du.has t = true) :
    s.removeWant t = State.withdrawKey (.want t) { s with du := { s.du with
      need := s.du.need.filter fun w => !decide (w.track = t)
      repair := s.du.repair.filter fun w => !decide (w.track = t) } } := if_pos h

theorem State.unobtainable_ends {s : State} (h : s.cs.state = .fetch ∨ s.cs.state = .write ∨ s.cs.state = .verify) :
    s.unobtainable = s.reject .trackUnobtainable := if_pos (by simpa using h)

theorem State.unobtainable_elsewhere {s : State} (hf : s.cs.state ≠ .fetch) (hw : s.cs.state ≠ .write)
    (hv : s.cs.state ≠ .verify) : s.unobtainable = s := if_neg (by simp [hf, hw, hv])

/-! ### An entry sent again (R45) -/

theorem State.accepts_wantBody {s : State} {w : Want} :
    s.accepts w.body = true ↔ s.boot = .ready ∧ s.lc.has (.want w.track) = false ∧ s.lc.queue.length < 6 := by
  simp [State.accepts_high, Want.body, Body.key, and_assoc]

section
variable {s : State} {w : Want} (j : JobId)

/-- An entry whose WANT the queue takes is QUEUED. -/
theorem State.resendWant_taken (h : s.accepts w.body = true) : s.resendWant w j = { s with
    lc := { s.lc with queue := s.lc.queue ++ [{ body := w.body, jobId := j }] }
    du := s.du.update w.track fun _ => { w with phase := .queued, deadline := none } } := by
  have sent : s.sentWant w = { w with phase := .queued, deadline := none } := if_pos h
  rw [State.resendWant, sent]
  exact State.enter_accepted _ _ _ h

/-- An entry whose WANT the queue refuses is UNSENT with a deadline. -/
theorem State.resendWant_refused (h : ¬ s.accepts w.body = true) : s.resendWant w j = { s with
    du := s.du.update w.track fun _ =>
      { w with phase := .unsent, deadline := some (s.now + s.pc.params.wantTimeout * 1000) } } := by
  have sent : s.sentWant w = { w with phase := .unsent, deadline := some (s.after s.pc.params.wantTimeout) } := if_neg h
  rw [State.resendWant, sent]
  exact State.enter_refused _ _ _ (Bool.eq_false_iff.2 h)

end

/-! ### The last-track timeout (R41) -/

section
variable {s : State} {r : JobRecord} (hr : s.jc.record = some r)
include hr

theorem State.lastTrackTimes_runs (hk : r.kind = .copy) (hm : r.mark + 1 = r.tracks) (hl : r.lastRun = false) :
    s.lastTrackTimes = State.settle { s with
      now := max s.now (r.markAt + s.pc.params.restoreTimeout * 1000)
      jc := { s.jc with record := some { r with lastRun := true } } } s := by
  simp [State.lastTrackTimes, hr, hk, hm, hl, State.mapRecord, State.tickTo]

theorem State.lastTrackTimes_idle (h : r.kind = .format ∨ r.mark + 1 ≠ r.tracks ∨ r.lastRun = true) :
    s.lastTrackTimes = s := by
  simp only [State.lastTrackTimes, hr]
  refine if_neg fun ⟨hk, hm, hl⟩ => ?_
  rcases h with h | h | h
  · simp [hk] at h
  · exact h hm
  · simp [hl] at h

end

/-- After the timeout the last track counts as below the mark. -/
theorem JobRecord.released_last {r : JobRecord} (hl : r.lastRun = true) (ht : r.tracks ≠ 0) :
    r.released (r.tracks - 1) = true :=
  JobRecord.released_iff.2 (.inr ⟨hl, Nat.sub_add_cancel (Nat.pos_of_ne_zero ht)⟩)

/-- Settles O36: the expiry by the entry's phase, giving up, what leaves or is sent again, and the last-track timeout. -/
theorem wantDeadlinesAskAgainAndGiveUp : Obligations.WantDeadlinesAskAgainAndGiveUp := by
  refine ⟨fun s r t => ⟨fun h => congrArg Host.Outcome.next (State.deadlineExpires_idle h), fun w d hr hw hd => ?_⟩,
    fun s t _ => ⟨State.giveUp_needed, fun h r hr => ?_⟩,
    ⟨fun s t => ⟨Distribution.has_iff, State.removeWant_absent, State.removeWant_listed, s.removeWant_has t,
      State.unobtainable_ends, State.unobtainable_elsewhere⟩, fun s w j => ⟨fun hb hn hq => ?_, fun h => ?_⟩⟩,
    fun s r hr => ⟨fun hk hm hl => ⟨?_, ?_⟩, fun h => congrArg Host.Outcome.next (State.lastTrackTimes_idle hr h)⟩⟩
  · intro s1
    have expires {x : State} (h : s1.wantExpired w r.jobId = x) :
        exec (.wantDeadlineExpiry t) s = .next (x.settle s) := by
      rw [← h]
      exact congrArg Host.Outcome.next (State.deadlineExpires_due hr hw hd)
    exact ⟨fun h => expires (State.wantExpired_queued _ _ h), fun h => expires (State.wantExpired_unsent _ _ h),
      fun h hf ha => expires (State.wantExpired_again _ _ h hf ha),
      fun h hf ha => expires (State.wantExpired_restores _ _ h hf ha),
      fun h hf => expires (State.wantExpired_givesUp _ _ h hf)⟩
  · rw [State.giveUp_repair h]
    exact ⟨by simp [hr], rfl, rfl, s.removeWant_has t⟩
  · exact State.resendWant_taken j (State.accepts_wantBody.2 ⟨hb, hn, hq⟩)
  · refine State.resendWant_refused j fun ha => ?_
    obtain ⟨hb, hn, hq⟩ := State.accepts_wantBody.1 ha
    rcases h with h | h | h
    · exact h hb
    · simp [hn] at h
    · omega
  · exact congrArg Host.Outcome.next (State.lastTrackTimes_runs hr hk hm hl)
  · exact JobRecord.released_last rfl (show r.tracks ≠ 0 by omega)

end Sys2Proof.Machine
end

section
/-! PROOFS. Every step keeps the account sound (R65): the commands that leave the account as it is, and the frames
that move it. -/

namespace Sys2Proof.Machine

/-! ### States of one account -/

/-- Two states hold records of one fixed part and one account, or none. -/
def State.SameAccount (t s : State) : Prop := t.fixed = s.fixed ∧ t.account = s.account

theorem State.sameAccount_iff {t s : State} :
    t.SameAccount s ↔ t.jc.record.map (·.fixed) = s.jc.record.map (·.fixed)
      ∧ t.jc.record.map (·.account) = s.jc.record.map (·.account) := Iff.rfl

theorem State.SameAccount.trans {s t u : State} (h : s.SameAccount t) (h' : t.SameAccount u) : s.SameAccount u :=
  ⟨h.1.trans h'.1, h.2.trans h'.2⟩

/-- Whether an account is sound is read from the roster, the counts and the claim list. -/
theorem JobRecord.accountSound_congr {r u : JobRecord} (hf : u.fixed = r.fixed) (ha : u.account = r.account) :
    u.accountSound ↔ r.accountSound := by
  have hroster : u.roster = r.roster := congrArg FixedFields.roster hf
  simp only [JobRecord.account, Account.mk.injEq] at ha
  simp [JobRecord.accountSound, JobRecord.balanced, JobRecord.claimsSound, hroster, ha]

theorem State.SameAccount.sound {s t : State} (h : t.SameAccount s) (hs : s.accountSound) : t.accountSound := by
  intro u hu
  cases hr : s.jc.record with
  | none => simpa [State.fixed, hu, hr] using h.1
  | some r =>
    refine (JobRecord.accountSound_congr ?_ ?_).2 (hs r hr)
    · simpa [State.fixed, hu, hr] using h.1
    · simpa [State.account, hu, hr] using h.2

/-- Without a record there is no account. -/
theorem State.accountSound_noJob {s : State} (h : s.jc.record = none) : s.accountSound := by
  intro r hr
  simp [h] at hr

theorem State.accountSound_record {s : State} {r : JobRecord} (h : s.jc.record = some r) :
    s.accountSound ↔ r.accountSound := by
  simp [State.accountSound, h]

/-- The Job Controller alone holds the account. -/
theorem State.accountSound_jc {s t : State} (h : t.jc.record = s.jc.record) : t.accountSound ↔ s.accountSound := by
  simp only [State.accountSound, h]

/-! ### A frame completed (R159) -/

/-- What comes before and after a frame's own rule leaves the account, so a completion keeps it sound where the rule
does. -/
theorem State.completed_sound {α : Type} {raw : List Byte} {body : Option α} {k : α → Option FrameKey} {i : StationId}
    {apply : α → State → State} {s : State} (hs : s.accountSound)
    (happly : ∀ (b : α) (x : State), x.accountSound → (apply b x).accountSound) :
    (s.completed raw body k i apply).accountSound := by
  unfold State.completed
  split
  · split
    · exact hs
    · cases body with
      | none => exact (State.accountSound_jc (by simp)).2 hs
      | some b =>
        have left : ((s.ownLeaves (k b) i).endViewOf i).accountSound :=
          State.SameAccount.sound (State.sameAccount_iff.2 (by simp)) hs
        exact (State.accountSound_jc (by simp)).2 (happly b _ left)
  · exact hs

/-- A frame against the station's job keeps the account sound where the note and the frame's rule do. -/
theorem State.inJob_sound {j : JobId} {note apply : State → State} {s : State} (hs : s.accountSound)
    (hnote : (note s).accountSound) (happly : (apply s).accountSound) : (s.inJob j note apply).accountSound := by
  unfold State.inJob
  split
  · split
    · exact happly
    · exact hs
  · exact hnote

/-- The Distribution Unit's tests leave the account. -/
theorem State.settle_sound {s before : State} (hs : s.accountSound) : (s.settle before).accountSound :=
  State.SameAccount.sound (State.sameAccount_iff.2 (by simp)) hs

theorem State.setNote_sound {j : JobId} {s : State} (hs : s.accountSound) : (s.setNote j).accountSound :=
  (State.accountSound_jc (by simp)).2 hs

theorem State.clearNote_sound {j : JobId} {s : State} (hs : s.accountSound) : (s.clearNote j).accountSound :=
  (State.accountSound_jc (by simp)).2 hs

/-! ### The frames that move the account (R16, R66, R70) -/

/-- A record that takes the steps of a CLAIM or a TALLY and the drain test after them is sound where those steps are. -/
theorem State.setAccount_sound {s : State} {r : JobRecord} (h : r.accountSound) : (s.setAccount r).accountSound :=
  (State.accountSound_record rfl).2
    ((JobRecord.accountSound_congr (JobRecord.drainTest_kept r).1 r.drainTest_account).2 h)

theorem State.claimHeard_sound {i : StationId} {v c : Nat} {s : State} (hs : s.accountSound) :
    (s.claimHeard i v c).accountSound := by
  cases hr : s.jc.record with
  | none => simpa only [State.claimHeard, hr] using hs
  | some r =>
    by_cases hp : r.claimPasses i v = true
    · simp only [State.claimHeard, hr, hp, if_true]
      exact State.SameAccount.sound (State.sameAccount_iff.2 (by simp))
        (State.setAccount_sound (s := s) (JobRecord.applyClaim_sound i v c r (hs r hr) hp))
    · simp only [State.claimHeard, hr, if_neg hp]
      exact (State.accountSound_jc (by simp)).2 hs

theorem State.tallyHeard_sound {i : StationId} {b : TallyBody} {s : State} (hs : s.accountSound) :
    (s.tallyHeard i b).accountSound := by
  cases hr : s.jc.record with
  | none => simpa only [State.tallyHeard, hr] using hs
  | some r =>
    by_cases hp : r.tallyPasses i b = true
    · rw [State.tallyHeard_passes hr hp]
      refine State.SameAccount.sound (State.sameAccount_iff.2 ?_)
        (State.setAccount_sound (s := s) (JobRecord.applyTally_sound i b r (hs r hr)))
      split <;> simp [State.tallyApplied]
    · rw [State.tallyHeard_fails hr (by simpa using hp)]
      exact (State.accountSound_jc (by simp)).2 hs

/-- The end of the job ends its account. -/
theorem State.endJob_sound {s : State} (cause : EndCause) : (s.endJob cause).accountSound := by
  cases hr : s.jc.record with
  | none =>
    have same : s.endJob cause = s := by simp only [State.endJob, hr]
    rw [same]
    exact State.accountSound_noJob hr
  | some r => exact State.accountSound_noJob (State.endJob_fields s r cause hr).1

/-- A departed station's claim counts as void. -/
theorem JobRecord.departing_sound {r : JobRecord} (i : StationId) (h : r.accountSound) :
    (r.departing i).accountSound := by
  refine (JobRecord.accountSound_congr (r := r.voidEntry i) ?_ ?_).2 (JobRecord.voidEntry_sound i r h)
  all_goals rw [JobRecord.voidEntry_eq]; rfl

theorem State.depart_sound {i : StationId} {s : State} (hs : s.accountSound) : (s.depart i).accountSound := by
  cases hr : s.jc.record with
  | none => simpa only [State.depart, hr] using hs
  | some r =>
    by_cases hin : (inMask r.roster i && !inMask r.departed i) = true
    · obtain ⟨hroster, hout⟩ : inMask r.roster i = true ∧ inMask r.departed i = false := by simpa using hin
      have left : State.accountSound { s with jc := { s.jc with record := some (r.departing i) } } :=
        (State.accountSound_record rfl).2 (JobRecord.departing_sound i (hs r hr))
      by_cases hl : (r.departing i).remaining = []
      · rw [State.depart_last hr hroster hout hl]
        exact State.endJob_sound _
      · by_cases hc : r.comesToClose i s.station
        · rw [State.depart_closes hr hroster hout hl hc]
          exact State.SameAccount.sound (State.sameAccount_iff.2 (by simp)) left
        · rw [State.depart_stays hr hroster hout hl hc]
          exact State.SameAccount.sound (State.sameAccount_iff.2 (by simp)) left
    · simpa only [State.depart, hr, if_neg hin] using hs

/-- A record is made with nothing heard and no claim. -/
theorem State.newRecord_sound (s : State) (f : Rx) (b : OpenBody) (recipe : Recipe) :
    (s.newRecord f b recipe).accountSound := by
  simp [JobRecord.accountSound, JobRecord.balanced, JobRecord.claimsSound, State.newRecord]

theorem State.openHeard_sound {f : Rx} {b : OpenBody} {s : State} (hs : s.accountSound) :
    (s.openHeard f b).accountSound := by
  unfold State.openHeard
  split
  · exact hs
  · split
    · rename_i recipe hrecipe
      have made : ((s.withRecord (s.newRecord f b recipe))).accountSound :=
        (State.accountSound_record (by simp)).2 (s.newRecord_sound f b recipe)
      by_cases hrole : (s.newRecord f b recipe).role = .source
      · rw [State.createRecord_source hrole]
        exact State.SameAccount.sound (State.sameAccount_iff.2 (by simp)) made
      · rw [State.createRecord_other hrole]
        exact State.SameAccount.sound (State.sameAccount_iff.2 (by simp)) made
    · exact (State.accountSound_jc (by simp)).2 hs

theorem State.stopHeard_sound {s : State} (hs : s.accountSound) : s.stopHeard.accountSound := by
  unfold State.stopHeard
  repeat' split
  · exact State.SameAccount.sound (State.sameAccount_iff.2 (by simp)) hs
  all_goals exact hs

/-! ### The events that leave the account -/

theorem State.offer_sameAccount (fuel : Nat) (s : State) : (State.offer fuel s).SameAccount s := by
  induction fuel generalizing s with
  | zero => exact ⟨rfl, rfl⟩
  | succ n ih =>
    unfold State.offer
    split
    · exact ⟨rfl, rfl⟩
    · split
      · split
        · exact State.sameAccount_iff.2 (by simp)
        · exact (ih _).trans (State.sameAccount_iff.2 (by simp))
      · exact State.sameAccount_iff.2 (by simp)
      · exact State.sameAccount_iff.2 (by simp)

theorem State.startArbitration_sameAccount (s : State) : s.startArbitration.SameAccount s := by
  unfold State.startArbitration
  dsimp only
  repeat' split
  · exact ⟨rfl, rfl⟩
  · exact (State.offer_sameAccount _ _).trans ⟨rfl, rfl⟩
  · exact ⟨rfl, rfl⟩

theorem State.lastTrackTimes_sameAccount (s : State) : s.lastTrackTimes.SameAccount s := by
  unfold State.lastTrackTimes
  repeat' split
  · rename_i r hr _
    refine State.sameAccount_iff.2 ⟨?_, ?_⟩
    · simp [hr]
      rfl
    · simp [hr]
      rfl
  all_goals exact ⟨rfl, rfl⟩

/-! ### The step -/

/-- A command keeps the account sound. -/
def KeepsAccount (c : Instr) : Prop := ∀ s t : State, s.accountSound → exec c s = .next t → t.accountSound

/-- A command whose effect keeps the account sound. -/
theorem keepsAccount_of {c : Instr} {g : State → State} (hc : ∀ s, exec c s = .next (g s))
    (hg : ∀ s : State, s.accountSound → (g s).accountSound) : KeepsAccount c := by
  intro s t hs ht
  obtain rfl := Host.Outcome.next.inj ((hc s).symm.trans ht)
  exact hg s hs

/-- A command whose effect leaves the account. -/
theorem keepsAccount_of_same {c : Instr} {g : State → State} (hc : ∀ s, exec c s = .next (g s))
    (hg : ∀ s : State, (g s).SameAccount s) : KeepsAccount c :=
  keepsAccount_of hc fun s hs => (hg s).sound hs

/-- A completed frame whose rule keeps the account sound. -/
theorem keepsAccount_frame {c : Instr} {α : Type} {raw : List Byte} {body : Option α} {k : α → Option FrameKey}
    {i : StationId} {apply : α → State → State} (hc : ∀ s, exec c s = .next (s.completed raw body k i apply))
    (happly : ∀ (b : α) (x : State), x.accountSound → (apply b x).accountSound) : KeepsAccount c :=
  keepsAccount_of hc fun _ hs => State.completed_sound hs happly

theorem releaseCutOff_keepsAccount (u : Upset) : KeepsAccount (.releaseCutOff u) := by
  refine keepsAccount_of_same (fun _ => rfl) fun s => State.sameAccount_iff.2 ?_
  split <;> simp

theorem release_keepsAccount (f : Rx) : KeepsAccount (.release f) := by
  intro s t hs ht
  change execRelease f s = _ at ht
  unfold execRelease at ht
  split at ht
  · exact releaseCutOff_keepsAccount [] s t hs ht
  · obtain rfl := Host.Outcome.next.inj ht
    refine State.settle_sound (State.completed_sound hs fun b x hx =>
      State.inJob_sound hx (State.setNote_sound hx) ?_)
    exact State.SameAccount.sound (State.sameAccount_iff.2 (by simp)) hx

theorem want_keepsAccount (f : Rx) : KeepsAccount (.want f) := by
  refine keepsAccount_frame (fun _ => rfl) fun b x hx => State.inJob_sound hx (State.setNote_sound hx) ?_
  split <;> exact State.SameAccount.sound (State.sameAccount_iff.2 (by simp)) hx

theorem exec_keepsAccount (c : Instr) : KeepsAccount c := by
  cases c
  case powerOn => exact keepsAccount_of (fun _ => rfl) fun s _ => State.accountSound_noJob rfl
  case restart =>
    refine keepsAccount_of (fun _ => rfl) fun s hs => ?_
    split
    · exact State.accountSound_noJob rfl
    · exact hs
  case arbitrationStart => exact keepsAccount_of_same (fun _ => rfl) State.startArbitration_sameAccount
  case joinStart => exact keepsAccount_of_same (fun _ => rfl) State.startArbitration_sameAccount
  case releaseCutOff u => exact releaseCutOff_keepsAccount u
  case jobOpen f => exact keepsAccount_frame (fun _ => rfl) fun b x => State.openHeard_sound
  case jobStop f =>
    exact keepsAccount_frame (fun _ => rfl) fun b x hx =>
      State.inJob_sound hx (State.setNote_sound hx) (State.stopHeard_sound hx)
  case jobClose f =>
    exact keepsAccount_frame (fun _ => rfl) fun b x hx =>
      State.inJob_sound hx (State.clearNote_sound hx) (State.endJob_sound _)
  case jobAbandon f =>
    exact keepsAccount_frame (fun _ => rfl) fun b x hx =>
      State.inJob_sound hx (State.clearNote_sound hx) (State.endJob_sound _)
  case claim f =>
    exact keepsAccount_of (fun _ => rfl) fun s hs => State.settle_sound (State.completed_sound hs fun b x hx =>
      State.inJob_sound hx (State.setNote_sound hx) (State.claimHeard_sound hx))
  case tally f =>
    exact keepsAccount_of (fun _ => rfl) fun s hs => State.settle_sound (State.completed_sound hs fun b x hx =>
      State.inJob_sound hx (State.setNote_sound hx) (State.tallyHeard_sound hx))
  case want f => exact want_keepsAccount f
  case release f => exact release_keepsAccount f
  case callFirst f =>
    refine keepsAccount_of (fun _ => rfl) fun s hs => State.settle_sound (State.completed_sound hs fun b x hx => ?_)
    have departed := State.depart_sound (i := f.sender) (s := x.present f.sender b) ((State.accountSound_jc (by simp)).2 hx)
    unfold State.callFirstHeard
    dsimp only
    split
    · exact departed
    · exact (State.accountSound_jc (by simp)).2 departed
  case lastTrackTimeout => exact keepsAccount_of_same (fun _ => rfl) State.lastTrackTimes_sameAccount
  case holdOff | callAnswer | query | reply =>
    exact keepsAccount_frame (fun _ => rfl) fun b x hx => (State.accountSound_jc (by simp)).2 hx
  case arbitrationLoss | sendFault | dataMarkerReachExpiry =>
    refine keepsAccount_of_same (fun _ => rfl) fun s => State.sameAccount_iff.2 ?_
    split <;> simp
  all_goals exact keepsAccount_of_same (fun _ => rfl) fun s => State.sameAccount_iff.2 (by simp)

/-- Settles O58: a tick moves the clock alone, and each command keeps the account sound. -/
theorem everyStepKeepsTheAccount : Obligations.EveryStepKeepsTheAccount := by
  intro s t hs ht
  unfold step at ht
  split at ht
  · obtain rfl := Host.Outcome.next.inj ht
    exact hs
  · rename_i c rest _
    exact exec_keepsAccount c { s with pending := rest } t hs ht

end Sys2Proof.Machine
end

section
/-! PROOFS. CLAIM applied in its steps (R66, R67), and TALLY without a serial (R72). -/

namespace Sys2Proof.Machine

/-! ### The check and the high mark of a CLAIM (R61, R66) -/

theorem JobRecord.claimPasses_iff {r : JobRecord} {i : StationId} {v : Nat} :
    r.claimPasses i v = true ↔ inMask r.roster i = true ∧ inMask r.departed i = false ∧ r.base ≤ v ∧ v ≤ r.limit := by
  simp [JobRecord.claimPasses, inRange, and_assoc]

/-- The high mark that a CLAIM leaves: the carried mark of a serial 0 whose sender has heard none is passed over. -/
def JobRecord.claimHigh (v carried : Nat) (r : JobRecord) : Nat :=
  let top := if v = 0 ∧ carried = 4294967295 then 0 else max v carried
  if r.noneHeard then top else max r.high top

theorem JobRecord.raiseHigh_eq (v carried : Nat) (r : JobRecord) :
    r.raiseHigh v carried = { r with high := r.claimHigh v carried, noneHeard := false } := by
  have top : (if v = 0 ∧ carried = Config.max32 then v else max v carried)
      = if v = 0 ∧ carried = 4294967295 then 0 else max v carried := by
    by_cases h : v = 0 ∧ carried = 4294967295
    · rw [if_pos (show v = 0 ∧ carried = Config.max32 from h), if_pos h, h.1]
    · rw [if_neg (show ¬ (v = 0 ∧ carried = Config.max32) from h), if_neg h]
  simp only [JobRecord.raiseHigh, top, JobRecord.claimHigh]

/-! ### The steps of a CLAIM (R66, R67) -/

/-- The record in which a CLAIM's serial is looked for: the claim is heard, the high mark raised, and another entry of
its station superseded. -/
def JobRecord.claiming (i : StationId) (v carried : Nat) (r : JobRecord) : JobRecord :=
  { r with
    heard := r.heard + 1
    high := r.claimHigh v carried
    noneHeard := false
    claims := r.claims.eraseP fun c => decide (c.station = i)
    void := r.void + if r.claims.any (fun c => decide (c.station = i)) then 1 else 0 }

/-- A repeated CLAIM raises the high mark alone. -/
theorem JobRecord.applyClaim_listed {r : JobRecord} {i : StationId} {v : Nat} (carried : Nat) (h : ⟨v, i⟩ ∈ r.claims) :
    r.applyClaim i v carried = (r.raiseHigh v carried, .nothing) := by
  have listed : r.claims.any (fun c => decide (c = ⟨v, i⟩)) = true := List.any_eq_true.2 ⟨_, h, by simp⟩
  simp only [JobRecord.applyClaim, listed, if_true]

section
variable {r : JobRecord} {i : StationId} {v : Nat} (carried : Nat) (h : ¬ ⟨v, i⟩ ∈ r.claims)
include h

theorem JobRecord.applyClaim_new : r.applyClaim i v carried = (r.claiming i v carried).enterClaim i v := by
  simp only [JobRecord.applyClaim, JobRecord.not_listed h, Bool.false_eq_true, if_false, JobRecord.raiseHigh_eq,
    JobRecord.voidEntry_eq]
  rfl

/-- The serial is free: the claim is entered. -/
theorem JobRecord.applyClaim_free (hfree : ∀ c ∈ r.claims.eraseP fun c => decide (c.station = i), c.serial ≠ v) :
    r.applyClaim i v carried = ({ r.claiming i v carried with
      claims := insertClaim ⟨v, i⟩ (r.claiming i v carried).claims }, .entered i) := by
  have free : (r.claiming i v carried).holder v = none := List.find?_eq_none.2 (by simpa [JobRecord.claiming] using hfree)
  simp only [JobRecord.applyClaim_new carried h, JobRecord.enterClaim, free]

variable {c : Claim}
  (htaken : (r.claims.eraseP fun c => decide (c.station = i)).find? (fun c => decide (c.serial = v)) = some c)
include htaken

/-- The serial stands with a higher station: the claim takes its place. -/
theorem JobRecord.applyClaim_replaces (hlt : i < c.station) :
    r.applyClaim i v carried = ({ r.claiming i v carried with
      claims := insertClaim ⟨v, i⟩ ((r.claiming i v carried).claims.eraseP fun c => decide (c.serial = v))
      withdrawn := r.withdrawn + 1 }, .replaced i c.station) := by
  have taken : (r.claiming i v carried).holder v = some c := htaken
  simp only [JobRecord.applyClaim_new carried h, JobRecord.enterClaim, taken, if_pos hlt]
  rfl

/-- The serial stands with a lower station, which keeps it. -/
theorem JobRecord.applyClaim_refused (hge : ¬ i < c.station) :
    r.applyClaim i v carried = ({ r.claiming i v carried with withdrawn := r.withdrawn + 1 }, .lost i) := by
  have taken : (r.claiming i v carried).holder v = some c := htaken
  simp only [JobRecord.applyClaim_new carried h, JobRecord.enterClaim, taken, if_neg hge]
  rfl

end

@[simp] theorem JobRecord.applyClaim_fixed (i : StationId) (v carried : Nat) (r : JobRecord) :
    (r.applyClaim i v carried).1.fixed = r.fixed := by
  simp only [JobRecord.applyClaim]
  split <;> simp
  rfl

/-! ### A CLAIM heard -/

theorem State.claimHeard_fails {s : State} {r : JobRecord} {i : StationId} {v : Nat} (carried : Nat)
    (hr : s.jc.record = some r) (hp : r.claimPasses i v = false) : s.claimHeard i v carried = s.badFrame := by
  simp [State.claimHeard, hr, hp]

theorem State.claimHeard_fixed {s : State} {r : JobRecord} (i : StationId) (v carried : Nat)
    (hr : s.jc.record = some r) : (s.claimHeard i v carried).jc.record.map (·.fixed) = some r.fixed := by
  simp only [State.claimHeard, hr]
  split <;> simp [State.setAccount, hr]

/-- What a CLAIM of the job leaves of the state, to its end. -/
theorem claimHeard_settled {f : Rx} {s : State} {r : JobRecord} (v carried : Nat) (hr : s.jc.record = some r) :
    let t := (((s.heard .claim f.sender).claimHeard f.sender v carried).afterCompletion s).settle s
    (t.fixed = s.fixed ∧ t.mark = s.mark ∧ t.departed = s.departed ∧ t.now = s.now
      ∧ t.lc.presence = s.lc.presence ∧ t.lc.foreign = s.lc.foreign ∧ t.jc.nextBase = s.jc.nextBase
      ∧ t.ss = s.ss ∧ t.store.mem = s.store.mem ∧ t.pc.params = s.pc.params)
    ∧ t.account
      = if r.claimPasses f.sender v then some (r.applyClaim f.sender v carried).1.account else some r.account := by
  intro t
  have hh : (s.heard .claim f.sender).jc.record = some r := State.heard_record _ (by simp) hr
  constructor
  · simp [t, State.fixed, State.mark, State.departed, hr, hh, State.claimHeard_fixed f.sender v carried hh]
  · rw [← State.claimHeard_account _ _ _ _ _ hh]
    simp [t, State.account]

/-- The bad frame counted by a check that fails stays counted to the end of the command. -/
theorem State.badFrame_settled {x s : State} (k : FrameKey) (i : StationId) (hx : x = (s.heard k i).badFrame) :
    ((x.afterCompletion s).settle s).lc.counters.badFrames = min (s.lc.counters.badFrames + 1) 4294967295 := by
  rw [(State.settle_reserve _ s).2, (State.afterCompletion_reserve _ s).2, hx]
  simp [State.badFrame, State.count, bump, Config.max32]

theorem parseClaim_eight {bs : List Byte} (h : bs.length = 8) : parseClaim bs = some (beAt bs 0 4, beAt bs 4 4) := by
  simp [parseClaim, h]

/-- Settles O27: the repeat, the free serial, and the two ways of a collision. -/
theorem claimIsAppliedInItsSteps : Obligations.ClaimIsAppliedInItsSteps := by
  intro f s r h hr hj hl v carried top high passes others hadOne void frame
  have hh : (s.heard .claim f.sender).jc.record = some r := State.heard_record _ (by simp) hr
  obtain ⟨hframe, haccount⟩ := claimHeard_settled (f := f) v carried hr
  rw [execClaim_own h hr hj (parseClaim_eight hl)]
  constructor
  · intro hfails
    have fails : r.claimPasses f.sender v = false := by rwa [← Bool.not_eq_true, JobRecord.claimPasses_iff]
    exact ⟨_, rfl, hframe, by simpa [fails] using haccount,
      State.badFrame_settled .claim f.sender (State.claimHeard_fails carried hh fails)⟩
  · intro hpass
    rw [JobRecord.claimPasses_iff.2 hpass, if_pos rfl] at haccount
    refine ⟨_, rfl, hframe, fun hlisted => ?_, fun hnew hfree => ?_, fun c hnew htaken => ⟨fun hlt => ?_, fun hge => ?_⟩⟩
    · rw [haccount, JobRecord.applyClaim_listed carried hlisted, JobRecord.raiseHigh_eq]
      rfl
    · rw [haccount, JobRecord.applyClaim_free carried hnew hfree]
      rfl
    · rw [haccount, JobRecord.applyClaim_replaces carried hnew htaken hlt]
      rfl
    · rw [haccount, JobRecord.applyClaim_refused carried hnew htaken hge]
      rfl

/-! ### TALLY without a serial (R70, R72) -/

section
variable {r : JobRecord} {i : StationId} {b : TallyBody} (hb : b.serial = none)
include hb

theorem JobRecord.tallyPasses_noSerial : r.tallyPasses i b = true ↔ inMask r.roster i = true ∧ b.outcome = .rejected := by
  simp [JobRecord.tallyPasses, hb]

theorem JobRecord.applyTally_noSerial : r.applyTally i b = (r.withdrawEntry i, .nothing) := by
  simp only [JobRecord.applyTally, hb]

end

theorem JobRecord.withdrawEntry_listed {r : JobRecord} {i : StationId} (h : ∃ c ∈ r.claims, c.station = i) :
    r.withdrawEntry i = { r with
      claims := r.claims.eraseP fun c => decide (c.station = i), withdrawn := r.withdrawn + 1 } := by
  obtain ⟨c, hc⟩ : ∃ c, r.entryOf i = some c := Option.isSome_iff_exists.1 (by simpa [JobRecord.entryOf] using h)
  simp only [JobRecord.withdrawEntry, hc, dropClaim]

theorem JobRecord.withdrawEntry_absent {r : JobRecord} {i : StationId} (h : ∀ c ∈ r.claims, c.station ≠ i) :
    r.withdrawEntry i = r := by
  have none_listed : r.entryOf i = none := List.find?_eq_none.2 (by simpa using h)
  simp only [JobRecord.withdrawEntry, none_listed]

/-- Settles O29: the entry withdrawn, the close test on the list that it leaves, and the check that fails. -/
theorem tallyWithoutSerialWithdrawsTheEntry : Obligations.TallyWithoutSerialWithdrawsTheEntry := by
  refine ⟨fun f s r b h hr hj hparse hb ho hin => ?_, fun f s r b h hr hj hparse hb hfails => ?_⟩
  · have hh : (s.heard .tally f.sender).jc.record = some r := State.heard_record _ (by simp) hr
    have pass : r.tallyPasses f.sender b = true := (JobRecord.tallyPasses_noSerial hb).2 ⟨hin, ho⟩
    obtain ⟨-, haccount⟩ := tallyHeard_settled (f := f) b hr
    rw [pass, if_pos rfl, JobRecord.applyTally_noSerial hb] at haccount
    refine ⟨_, execTally_own h hr hj hparse, fun hlisted => ?_, fun habsent => ?_, ?_⟩
    · rw [haccount, JobRecord.withdrawEntry_listed hlisted]
      rfl
    · rw [haccount, JobRecord.withdrawEntry_absent habsent]
    · rintro ⟨c, hclaims, hc⟩ hdraining hclosing hrole hother hplace
      obtain ⟨u, hu, agrees⟩ := State.tallyHeard_agrees hh pass
      have draining : u.state = .draining := by
        rw [agrees.state, JobRecord.drainTest_state]
        exact Or.inl (by simpa using hdraining)
      have emptied : u.claims = [] := by
        have ha : u.claims = (r.applyTally f.sender b).1.drainTest.claims := congrArg Account.claims agrees.account
        rw [ha, JobRecord.applyTally_noSerial hb, JobRecord.withdrawEntry_listed ⟨c, by simp [hclaims], hc⟩]
        simp [hclaims, hc]
      have short : (s.heard .tally f.sender).lc.queue.length < 8 :=
        State.heard_length s .tally f.sender (by simp) (Or.inl hplace)
      have room := State.tallyApplied_place (s := s.heard .tally f.sender) (r := r) (i := f.sender) (b := b)
        (Or.inr ⟨by simp [hb], short⟩)
      obtain ⟨conditions, entered⟩ := State.tallyHeard_closes hh pass agrees draining emptied (Or.inl (by simp [hclaims]))
        (by simpa using hclosing) (Or.inl hrole) (by simpa using h.1) room
      exact State.settle_close _ s (State.afterCompletion_close _ s conditions entered)
  · have hh : (s.heard .tally f.sender).jc.record = some r := State.heard_record _ (by simp) hr
    have fails : r.tallyPasses f.sender b = false := by
      rw [← Bool.not_eq_true, JobRecord.tallyPasses_noSerial hb]
      rintro ⟨hin, ho⟩
      rcases hfails with hout | hne
      · simp [hin] at hout
      · exact hne ho
    obtain ⟨-, haccount⟩ := tallyHeard_settled (f := f) b hr
    have discarded := State.tallyHeard_fails hh fails
    refine ⟨_, execTally_own h hr hj hparse, by simpa [fails] using haccount, ?_,
      State.badFrame_settled .tally f.sender discarded⟩
    rw [discarded]
    simp [State.jobState, hh, hr]

end Sys2Proof.Machine
end

section
/-! PROOFS. CLAIM and TALLY as this station's copy cycle hears them (R66 to R68, R71, R89 to R91). -/

namespace Sys2Proof.Machine

/-! ### What stands at the copy cycle, and the TALLYs queued -/

/-- From `s` to `t` the copy cycle, the drive, the Track Builder, the panel and the lost set stand, and no TALLY leaves
the queue. -/
structure State.KeepsCycle (s t : State) : Prop where
  cycle   : t.cs = s.cs
  drive   : t.dp = s.dp
  builder : t.tb = s.tb
  panel   : t.pc = s.pc
  clock   : t.now = s.now
  lost    : t.du.lost = s.du.lost
  tallies : ∀ g ∈ s.lc.queue, g.key = .tally → g ∈ t.lc.queue

theorem State.KeepsCycle.refl (s : State) : s.KeepsCycle s := ⟨rfl, rfl, rfl, rfl, rfl, rfl, fun _ h _ => h⟩

theorem State.KeepsCycle.trans {s t u : State} (h : s.KeepsCycle t) (h' : t.KeepsCycle u) : s.KeepsCycle u :=
  ⟨h'.cycle.trans h.cycle, h'.drive.trans h.drive, h'.builder.trans h.builder, h'.panel.trans h.panel,
    h'.clock.trans h.clock, h'.lost.trans h.lost, fun g hg hk => h'.tallies g (h.tallies g hg hk) hk⟩

theorem State.push_keepsCycle (b : Body) (j : JobId) (s : State) : s.KeepsCycle (s.push b j) :=
  ⟨rfl, rfl, rfl, rfl, rfl, rfl, fun _ hg _ => List.mem_append_left _ hg⟩

theorem State.enter_keepsCycle (b : Body) (j : JobId) (s : State) : s.KeepsCycle (s.enter b j) := by
  unfold State.enter
  split
  · exact s.push_keepsCycle b j
  · exact .refl s

theorem State.withdrawKey_keepsCycle {k : FrameKey} (hk : k ≠ .tally) (s : State) : s.KeepsCycle (s.withdrawKey k) := by
  refine ⟨by simp, by simp, by simp, by simp, by simp, by simp, fun g hg ht => State.mem_queue_withdrawKey.2 ⟨hg, ?_⟩⟩
  intro hgk
  exact absurd (hgk.symm.trans ht) hk

theorem State.refill_keepsCycle {k : FrameKey} (hk : k ≠ .tally) (b : Body) (s : State) :
    s.KeepsCycle (s.refill k b) := by
  refine ⟨by simp, by simp, by simp, by simp, by simp, by simp, fun g hg ht => List.mem_map.2 ⟨g, hg, if_neg ?_⟩⟩
  intro hgk
  exact absurd (hgk.symm.trans ht) hk

/-! ### The Job Controller's tests -/

theorem State.closeTest_keepsCycle (s : State) : s.KeepsCycle s.closeTest := by
  unfold State.closeTest
  repeat' split
  · exact s.enter_keepsCycle _ _
  all_goals exact .refl s

theorem State.enterAbandon_keepsCycle (reason : AbandonReason) (s : State) : s.KeepsCycle (s.enterAbandon reason) := by
  have reserved : s.KeepsCycle (s.reserveAbandon reason) := by
    unfold State.reserveAbandon
    split
    · exact .refl s
    · exact ⟨rfl, rfl, rfl, rfl, rfl, rfl, fun _ hg _ => hg⟩
  unfold State.enterAbandon
  repeat' split
  · exact s.push_keepsCycle _ _
  · exact reserved
  · exact .refl s

theorem State.trackLostTest_keepsCycle (first : Option DiskFault) (s : State) :
    s.KeepsCycle (s.trackLostTest first) := by
  unfold State.trackLostTest
  repeat' split
  · exact s.enterAbandon_keepsCycle _
  all_goals exact .refl s

theorem State.closeLapse_keepsCycle (s : State) : s.KeepsCycle s.closeLapse := by
  unfold State.closeLapse
  split
  · exact .refl s
  · exact s.withdrawKey_keepsCycle (by simp)

theorem State.holdOffReturn_keepsCycle (before s : State) : s.KeepsCycle (before.holdOffReturn s) := by
  unfold State.holdOffReturn State.holdOffTest
  repeat' split
  · exact s.enter_keepsCycle _ _
  all_goals exact .refl s

theorem State.enterTally_keepsCycle (s : State) : s.KeepsCycle s.enterTally := by
  unfold State.enterTally
  repeat' split
  · exact s.enter_keepsCycle _ _
  all_goals exact .refl s

/-! ### What ends a command -/

/-- The copy cycle does not wait for a CLAIM: neither in CLAIM, nor as a pulled disk in TALLY (R91). -/
def State.awaitsNoClaim (s : State) : Prop := s.cs.state ≠ .claim ∧ (s.cs.state = .tally → s.cs.outcome ≠ none)

theorem State.claimWithdrawn_noClaim {s : State} (h : s.awaitsNoClaim) : s.claimWithdrawn = s := by
  obtain ⟨hclaim, hknown⟩ := h
  have settled : ¬ (s.cs.state = .tally ∧ s.cs.pulled = true ∧ s.cs.outcome = none) := fun h => hknown h.1 h.2.2
  rw [State.claimWithdrawn, if_neg hclaim, State.pulledUnclaimed, if_neg settled]

theorem State.claimRefill_keepsCycle {s : State} (h : s.awaitsNoClaim) : s.KeepsCycle s.claimRefill := by
  unfold State.claimRefill
  repeat' split
  · exact s.refill_keepsCycle (by simp) _
  · rw [State.claimWithdrawn_noClaim (by simpa [State.awaitsNoClaim] using h)]
    exact s.withdrawKey_keepsCycle (by simp)
  all_goals exact .refl s

theorem State.afterCompletion_keepsCycle {x : State} (before : State) (h : x.awaitsNoClaim) :
    x.KeepsCycle (x.afterCompletion before) := by
  have returned := before.holdOffReturn_keepsCycle x
  have refilled := returned.trans (State.claimRefill_keepsCycle (by simpa [State.awaitsNoClaim] using h))
  unfold State.afterCompletion
  rw [State.claimAgain_elsewhere (by rw [refilled.cycle]; exact h.1)]
  exact (refilled.trans (State.enterTally_keepsCycle _)).trans (State.closeLapse_keepsCycle _)

/-- No window track can be found unobtainable: no disk is fetched, written or verified, or no track is lost (R89). -/
def State.losesNoDisk (s : State) : Prop := s.cs.state ∉ [CycleState.fetch, .write, .verify] ∨ s.du.lost = []

theorem State.KeepsCycle.losesNoDisk {s t : State} (h : s.KeepsCycle t) (hs : s.losesNoDisk) : t.losesNoDisk := by
  rwa [State.losesNoDisk, h.cycle, h.lost]

theorem State.addNeed_keepsCycle (u : Nat) (j : JobId) (s : State) : s.KeepsCycle (s.addNeed u j) := by
  refine .trans ?_ (State.enter_keepsCycle _ j _)
  exact ⟨rfl, rfl, rfl, rfl, rfl, rfl, fun _ hg _ => hg⟩

theorem State.feedOne_keepsCycle (s : State) : s.KeepsCycle s.feedOne := by
  have joins : ∀ u j, s.KeepsCycle (s.addRepair u j) := by
    intro u j
    refine .trans ?_ (State.enter_keepsCycle _ j _)
    exact ⟨rfl, rfl, rfl, rfl, rfl, rfl, fun _ hg _ => hg⟩
  unfold State.feedOne
  repeat' split
  · exact joins _ _
  all_goals exact .refl s

theorem State.repairFeed_keepsCycle (s : State) : s.KeepsCycle s.repairFeed :=
  (s.feedOne_keepsCycle.trans (State.feedOne_keepsCycle _)).trans (State.feedOne_keepsCycle _)

theorem State.needTestOf_keepsCycle {s : State} (u : Nat) (h : s.losesNoDisk) : s.KeepsCycle (s.needTestOf u) := by
  unfold State.needTestOf
  repeat' split
  case isTrue.isFalse.isTrue hlost =>
    have idle : s.cs.state ∉ [CycleState.fetch, .write, .verify] :=
      h.resolve_right fun hnone => by simp [hnone] at hlost
    rw [State.unobtainable, if_neg idle]
    exact .refl s
  case isTrue.isFalse.isFalse.isTrue => exact s.addNeed_keepsCycle u _
  all_goals exact .refl s

theorem State.needTest_keepsCycle {s : State} (h : s.losesNoDisk) : s.KeepsCycle s.needTest := by
  unfold State.needTest
  generalize s.window = l
  induction l generalizing s with
  | nil => exact .refl s
  | cons u l ih =>
    have tested := s.needTestOf_keepsCycle u h
    exact tested.trans (ih (tested.losesNoDisk h))

theorem State.settle_keepsCycle {x : State} (before : State) (h : x.losesNoDisk) : x.KeepsCycle (x.settle before) := by
  have fed := x.repairFeed_keepsCycle
  unfold State.settle
  refine .trans ?_ (State.repairFeed_keepsCycle _)
  repeat' split
  · exact fed.trans (State.needTest_keepsCycle (fed.losesNoDisk h))
  · exact State.needTest_keepsCycle h
  · exact fed
  · exact .refl x

/-- What ends a command leaves a copy cycle that waits for no CLAIM and loses no disk. -/
theorem State.settled_keepsCycle {x : State} (before before' : State) (hc : x.awaitsNoClaim) (hd : x.losesNoDisk) :
    x.KeepsCycle ((x.afterCompletion before).settle before') := by
  have completed := State.afterCompletion_keepsCycle before hc
  exact completed.trans (State.settle_keepsCycle before' (completed.losesNoDisk hd))

/-! ### A disk's serial and current track outlast the Distribution Unit's tests -/

theorem State.endUse_disk (s : State) : s.endUse.cs.disk = { s.cs.disk with live := false } := by rw [State.endUse_cs]

theorem State.endDisk_disk (o : DiskOutcome) (s : State) : (s.endDisk o).cs.disk = { s.cs.disk with live := false } := by
  rw [← State.endUse_disk]
  unfold State.endDisk
  dsimp only
  split <;> simp [State.toTally, State.enterOut, State.mapCopy, State.mapDrive]

theorem Disk.record_kept (f : DiskFault) (d : Disk) :
    (d.record f).serial = d.serial ∧ (d.record f).track = d.track ∧ (d.record f).conflict = d.conflict := by
  unfold Disk.record
  split <;> simp

/-- Two disk records have one serial and one current track. -/
def Disk.SamePlace (d e : Disk) : Prop := d.serial = e.serial ∧ d.track = e.track

theorem State.unobtainable_place (s : State) : s.unobtainable.cs.disk.SamePlace s.cs.disk := by
  unfold State.unobtainable
  split
  · obtain ⟨hserial, htrack, -⟩ := Disk.record_kept .trackUnobtainable s.cs.disk
    simp [State.reject, State.endDisk_disk, State.fault_cs, Disk.SamePlace, hserial, htrack]
  · exact ⟨rfl, rfl⟩

theorem State.needTestOf_place (u : Nat) (s : State) : (s.needTestOf u).cs.disk.SamePlace s.cs.disk := by
  unfold State.needTestOf
  repeat' split
  case isTrue.isFalse.isTrue => exact s.unobtainable_place
  case isTrue.isFalse.isFalse.isTrue => simp [Disk.SamePlace]
  all_goals exact ⟨rfl, rfl⟩

theorem State.needTest_place (s : State) : s.needTest.cs.disk.SamePlace s.cs.disk := by
  unfold State.needTest
  generalize s.window = l
  induction l generalizing s with
  | nil => exact ⟨rfl, rfl⟩
  | cons u l ih =>
    obtain ⟨hserial, htrack⟩ := s.needTestOf_place u
    obtain ⟨hserial', htrack'⟩ := ih (s.needTestOf u)
    exact ⟨hserial'.trans hserial, htrack'.trans htrack⟩

theorem State.settle_place (x before : State) : (x.settle before).cs.disk.SamePlace x.cs.disk := by
  have fed : x.repairFeed.cs = x.cs := by simp
  have tested := x.repairFeed.needTest_place
  rw [fed] at tested
  unfold State.settle
  rw [(State.repairFeed_keepsCycle _).cycle]
  repeat' split
  · exact tested
  · exact x.needTest_place
  · rw [fed]
    exact ⟨rfl, rfl⟩
  · exact ⟨rfl, rfl⟩

/-! ### The own CLAIM entered with a serial (R68, R82, R91) -/

theorem State.toWrite_state {s : State} {r : JobRecord} {t : Nat} (hr : s.jc.record = some r)
    (ht : s.cs.disk.track = some t) : s.toWrite.cs.state = .write := by
  simp only [State.toWrite, hr, ht]
  split <;> simp [State.mapCopy]

theorem State.toFetch_cycle {s : State} {r : JobRecord} {t : Nat} (hr : s.jc.record = some r)
    (ht : s.cs.disk.track = some t) :
    (s.toFetch.cs.state = .fetch ∨ s.toFetch.cs.state = .write) ∧ s.toFetch.cs.disk = s.cs.disk := by
  have fetches : ∀ x : State, x.jc.record = some r → x.cs.disk.track = some t → x.cs.state = .fetch →
      (x.fetchTry.cs.state = .fetch ∨ x.fetchTry.cs.state = .write) ∧ x.fetchTry.cs.disk = x.cs.disk := by
    intro x hx htx hstate
    simp only [State.fetchTry, hx, htx, hstate, if_true]
    repeat' split
    · exact ⟨Or.inr (State.toWrite_state hx htx), by simp⟩
    · exact ⟨Or.inr (State.toWrite_state (r := r) (t := t) hx htx), by simp⟩
    · exact ⟨Or.inl hstate, rfl⟩
  exact fetches (s.cycleTo .fetch) hr ht rfl

/-- In CLAIM the disk has its serial and moves on to track 0. -/
theorem State.claimEntered_claims {s : State} {r : JobRecord} (v : Nat) (hr : s.jc.record = some r)
    (h : s.cs.state = .claim) :
    ((s.claimEntered v).cs.state = .fetch ∨ (s.claimEntered v).cs.state = .write)
    ∧ (s.claimEntered v).cs.disk
      = { s.cs.disk with serial := some v, track := some 0, live := true, attempts := 0 } := by
  rw [State.claimEntered, if_pos h]
  exact State.toFetch_cycle hr rfl

theorem State.toTally_cs (o : DiskOutcome) (s : State) :
    (s.toTally o).cs = { s.cs with state := .tally, outcome := some o } := by simp [State.toTally, State.mapCopy]

/-- A pulled disk in TALLY waits for its serial (R91). -/
def State.pulledWaits (s : State) : Prop := s.cs.state = .tally ∧ s.cs.pulled = true ∧ s.cs.outcome = none

/-- A pulled disk that waited for its serial is tallied PULLED. -/
theorem State.claimEntered_pulled {s : State} (v : Nat) (h : s.pulledWaits) :
    (s.claimEntered v).cs
      = { s.cs with state := .tally, outcome := some .pulled, disk := { s.cs.disk with serial := some v } } := by
  have waits : s.cs.state = .tally ∧ s.cs.pulled = true ∧ s.cs.outcome = none := h
  rw [State.claimEntered, if_neg (by simp [waits.1]), if_pos waits, State.toTally_cs]
  rfl

/-! ### A serial lost (R67, R71, R89, R91) -/

/-- The states of the cycle in which a lost serial ends the disk (R89). -/
def State.serialAtStake (s : State) : Prop := s.cs.state ∈ [CycleState.claim, .fetch, .write, .verify]

/-- The disk's use ended with SERIAL CONFLICT, before it goes to TALLY. -/
def State.conflicted (s : State) : State :=
  ((s.mapDisk fun d => { d with conflict := true, serial := none }).fault .serialConflict).endUse

theorem State.conflicted_disk (s : State) :
    s.conflicted.cs.disk.serial = none ∧ s.conflicted.cs.disk.conflict = true
    ∧ s.conflicted.cs.disk.first = some (s.cs.disk.first.getD .serialConflict) := by
  rw [State.conflicted, State.endUse_disk, State.fault_cs]
  obtain ⟨hserial, -, hconflict⟩ :=
    Disk.record_kept .serialConflict { s.cs.disk with conflict := true, serial := none }
  exact ⟨hserial, hconflict, Disk.record_first _ _⟩

theorem State.serialLost_stake {s : State} (h : s.serialAtStake) : s.serialLost = s.conflicted.toTally .rejected := by
  have stake : s.cs.state ∈ [CycleState.claim, .fetch, .write, .verify] := h
  have tallied : (s.conflicted.cs.disk.serial.isSome || s.conflicted.cs.disk.conflict) = true := by
    simp [s.conflicted_disk.2.1]
  rw [State.serialLost, if_pos stake]
  exact if_pos tallied

/-- A disk ends with SERIAL CONFLICT: it goes to TALLY, REJECTED, without a serial, and the motor stops. -/
theorem State.serialLost_ends {s : State} (h : s.serialAtStake) :
    s.serialLost.cs.state = .tally ∧ s.serialLost.cs.outcome = some .rejected ∧ s.serialLost.cs.disk.serial = none
    ∧ s.serialLost.cs.disk.conflict = true
    ∧ s.serialLost.cs.disk.first = some (s.cs.disk.first.getD .serialConflict)
    ∧ s.serialLost.dp.motor = false ∧ s.serialLost.dp.wgate = false ∧ s.serialLost.tb = none := by
  obtain ⟨hserial, hconflict, hfirst⟩ := s.conflicted_disk
  obtain ⟨hmotor, -, hwgate, -⟩ := Drive.stopMotor_lines s.dp.dropGate
  have stopped : s.conflicted.dp = s.dp.dropGate.stopMotor := State.endUse_dp _
  have ended : s.conflicted.tb = none := State.endUse_tb _
  rw [State.serialLost_stake h, State.toTally_cs]
  exact ⟨rfl, rfl, hserial, hconflict, hfirst, by simpa [stopped] using hmotor, by simpa [stopped] using hwgate,
    by simpa using ended⟩

theorem State.serialLost_pulled {s : State} (h : s.pulledWaits) :
    s.serialLost = (s.mapDisk fun d => { d with conflict := true }).toTally .rejected := by
  have waits : s.cs.state = .tally ∧ s.cs.pulled = true ∧ s.cs.outcome = none := h
  rw [State.serialLost, if_neg (by simp [waits.1]), if_pos waits]

/-- A pulled disk that waited for its serial is tallied REJECTED. -/
theorem State.serialLost_pulled_cs {s : State} (h : s.pulledWaits) :
    s.serialLost.cs
      = { s.cs with state := .tally, outcome := some .rejected, disk := { s.cs.disk with conflict := true } } := by
  rw [State.serialLost_pulled h, State.toTally_cs]
  rfl

/-! ### The TALLY REJECTED without a serial (R68, R88) -/

/-- The TALLY of the disk, REJECTED and without a serial, is queued for the job. -/
def State.rejectQueued (j : JobId) (s : State) : Prop :=
  ∃ g ∈ s.lc.queue, g.jobId = j
    ∧ g.body = .tally .rejected none s.cs.disk.first s.cs.disk.further s.cs.disk.verified

theorem State.KeepsCycle.rejectQueued {s t : State} {j : JobId} (h : s.KeepsCycle t) (hs : s.rejectQueued j) :
    t.rejectQueued j := by
  obtain ⟨g, hg, hj, hbody⟩ := hs
  rw [State.rejectQueued, h.cycle]
  exact ⟨g, h.tallies g hg (by rw [Frame.key, hbody]; rfl), hj, hbody⟩

/-- The queue takes a TALLY: it holds none, and has a place. -/
def State.tallyPlace (s : State) : Prop := s.boot = .ready ∧ s.lc.has .tally = false ∧ s.lc.queue.length < 8

theorem State.enterTally_rejectQueued {s : State} {r : JobRecord} (hs : s.cs.state = .tally)
    (ho : s.cs.outcome = some .rejected) (hr : s.jc.record = some r) (hp : s.tallyPlace)
    (hc : s.cs.disk.conflict = true) : s.enterTally.rejectQueued r.jobId := by
  obtain ⟨hboot, hnone, hshort⟩ := hp
  have body : s.cs.disk.tallyBody .rejected
      = .tally .rejected none s.cs.disk.first s.cs.disk.further s.cs.disk.verified := by simp [Disk.tallyBody, hc]
  have taken : s.accepts (s.cs.disk.tallyBody .rejected) = true := by
    rw [State.accepts_low _ _ (by simp [body, Body.cls, Body.code]), body]
    simp [Body.key, hboot, hnone, hshort]
  have entered : s.enterTally = s.push (s.cs.disk.tallyBody .rejected) r.jobId := by
    simp [State.enterTally, hr, ho, hs, State.enter_accepted _ _ _ taken]
  rw [entered]
  exact ⟨_, List.mem_append_right _ (List.mem_singleton.2 rfl), rfl, body⟩

theorem State.toTally_rejectQueued {s : State} {r : JobRecord} (hr : s.jc.record = some r) (hp : s.tallyPlace)
    (hc : s.cs.disk.conflict = true) : (s.toTally .rejected).rejectQueued r.jobId :=
  State.enterTally_rejectQueued (s := s.mapCopy _) rfl rfl hr hp hc

theorem State.endUse_length (s : State) : s.endUse.lc.queue.length ≤ s.lc.queue.length := by
  simp only [State.endUse, State.dropNeed, State.withdraw, State.setQueue]
  exact Nat.le_trans (List.length_filter_le _ _) (by simp)

theorem State.endUse_absent {s : State} {k : FrameKey} (h : s.lc.has k = false) : s.endUse.lc.has k = false := by
  rw [Link.has, List.any_eq_false] at h ⊢
  exact fun g hg => h g (s.endUse_queue g hg)

/-- The end of a disk's use leaves the job's id. -/
theorem State.endUse_jobId {s : State} {r : JobRecord} (hr : s.jc.record = some r) :
    ∃ u, s.endUse.jc.record = some u ∧ u.jobId = r.jobId := by
  have hfixed : s.endUse.jc.record.map (·.fixed) = some r.fixed := by simp [hr]
  obtain ⟨u, hu, hfixed⟩ := Option.map_eq_some_iff.1 hfixed
  exact ⟨u, hu, congrArg FixedFields.jobId hfixed⟩

/-- A lost serial has the TALLY REJECTED without a serial entered. -/
theorem State.serialLost_queues {s : State} {r : JobRecord} (h : s.serialAtStake ∨ s.pulledWaits)
    (hr : s.jc.record = some r) (hp : s.tallyPlace) : s.serialLost.rejectQueued r.jobId := by
  rcases h with h | h
  · obtain ⟨hboot, hnone, hshort⟩ := hp
    obtain ⟨u, hu, hid⟩ : ∃ u, s.conflicted.jc.record = some u ∧ u.jobId = r.jobId := State.endUse_jobId hr
    have place : s.conflicted.tallyPlace :=
      ⟨by simpa [State.conflicted] using hboot, State.endUse_absent hnone,
        Nat.lt_of_le_of_lt (State.endUse_length _) hshort⟩
    rw [State.serialLost_stake h, ← hid]
    exact State.toTally_rejectQueued hu place s.conflicted_disk.2.1
  · rw [State.serialLost_pulled h]
    exact State.toTally_rejectQueued (s := s.mapDisk _) hr hp rfl

/-! ### The copy cycle told (R67, R68, R71) -/

section
variable {r : JobRecord} {i : StationId} {v : Nat} {s : State}
  (hnew : ¬ ⟨v, i⟩ ∈ r.claims)
include hnew

/-- An own CLAIM that meets no lower station's entry is told as entered. -/
theorem State.tellClaim_entered (carried : Nat) (hi : i = s.station)
    (hwins : ∀ c, (r.claims.eraseP fun c => decide (c.station = i)).find? (fun c => decide (c.serial = v)) = some c →
      i < c.station) :
    s.tellClaim v (r.applyClaim i v carried).2 = s.claimEntered v := by
  cases hfind : (r.claims.eraseP fun c => decide (c.station = i)).find? (fun c => decide (c.serial = v)) with
  | none =>
    rw [JobRecord.applyClaim_free carried hnew (by simpa using hfind)]
    exact if_pos hi
  | some c =>
    rw [JobRecord.applyClaim_replaces carried hnew hfind (hwins c hfind)]
    exact if_pos hi

/-- A CLAIM that takes this station's serial, or an own one that is refused it, is told as a serial lost. -/
theorem State.tellClaim_lost (carried : Nat) {c : Claim}
    (htaken : (r.claims.eraseP fun c => decide (c.station = i)).find? (fun c => decide (c.serial = v)) = some c)
    (hloses : i = s.station ∧ ¬ i < c.station ∨ c.station = s.station ∧ i < c.station) :
    s.tellClaim v (r.applyClaim i v carried).2 = s.serialLost := by
  rcases hloses with ⟨hi, hge⟩ | ⟨hc, hlt⟩
  · rw [JobRecord.applyClaim_refused carried hnew htaken hge]
    exact if_pos hi
  · have other : i ≠ s.station := fun hi => absurd hlt (by rw [hi, hc]; exact Nat.lt_irrefl _)
    rw [JobRecord.applyClaim_replaces carried hnew htaken hlt]
    exact (if_neg other).trans (if_pos hc)

theorem JobRecord.settleEntry_fate {c : Claim}
    (htaken : (r.claims.eraseP fun c => decide (c.station = i)).find? (fun c => decide (c.serial = v)) = some c) :
    (r.settleEntry i v).2 = .lost c.station := by
  have held : (r.implied i).holder v = some c := by rwa [JobRecord.holder, JobRecord.implied_eq]
  rw [JobRecord.implied] at held
  simp only [JobRecord.settleEntry, JobRecord.not_listed hnew, Bool.false_eq_true, if_false, held]

/-- A TALLY that finds its serial with this station's entry is told as a serial lost. -/
theorem State.tallyApplied_lost {b : TallyBody} {c : Claim} (hv : b.serial = some v)
    (htaken : (r.claims.eraseP fun c => decide (c.station = i)).find? (fun c => decide (c.serial = v)) = some c)
    (hc : c.station = s.station) :
    s.tallyApplied i b r = (s.setAccount (r.applyTally i b).1).serialLost := by
  have fate : (r.applyTally i b).2 = .lost c.station := by
    rw [JobRecord.applyTally_serial hv]
    exact JobRecord.settleEntry_fate hnew htaken
  simp only [State.tallyApplied, fate]
  exact if_pos hc

end

/-! ### From the account to the end of the command -/

theorem State.startTest_keepsCycle {s : State} (h : s.cs.state ≠ .standby) : s.KeepsCycle s.startTest := by
  rw [State.startTest_elsewhere h]
  exact .refl s

theorem State.claimHeard_keepsCycle {s x : State} {r : JobRecord} {i : StationId} {v carried : Nat}
    (hr : s.jc.record = some r) (hp : r.claimPasses i v = true)
    (hx : (s.setAccount (r.applyClaim i v carried).1).tellClaim v (r.applyClaim i v carried).2 = x)
    (h : x.cs.state ≠ .standby) : x.KeepsCycle (s.claimHeard i v carried) := by
  have heard : s.claimHeard i v carried = x.closeTest.startTest := by
    simp only [State.claimHeard, hr, hp, if_true, hx]
  rw [heard]
  exact x.closeTest_keepsCycle.trans (State.startTest_keepsCycle (by simpa using h))

theorem State.tallyTested_keepsCycle (i : StationId) (b : TallyBody) (r : JobRecord) (s : State) :
    (s.tallyApplied i b r).KeepsCycle (s.tallyTested i b r) := by
  unfold State.tallyTested
  refine .trans ?_ (State.trackLostTest_keepsCycle _ _)
  split
  · exact State.closeTest_keepsCycle _
  · exact .refl _

/-- Another station's TALLY leaves the copy cycle as the account has left it. -/
theorem State.tallyHeard_keepsCycle {s : State} {r : JobRecord} {i : StationId} {b : TallyBody}
    (hr : s.jc.record = some r) (hp : r.tallyPasses i b = true) (hi : i ≠ s.station)
    (h : (s.tallyApplied i b r).cs.state ≠ .standby) : (s.tallyApplied i b r).KeepsCycle (s.tallyHeard i b) := by
  have tested := s.tallyTested_keepsCycle i b r
  rw [State.tallyHeard_passes hr hp, if_neg hi]
  exact tested.trans (State.startTest_keepsCycle (by rwa [tested.cycle]))

/-- Nothing more happens to a disk in TALLY with its outcome. -/
theorem State.tallied_keepsCycle {x : State} {o : DiskOutcome} (before before' : State) (h : x.cs.state = .tally)
    (ho : x.cs.outcome = some o) : x.KeepsCycle ((x.afterCompletion before).settle before') :=
  State.settled_keepsCycle before before' ⟨by simp [h], fun _ => by simp [ho]⟩ (Or.inl (by simp [h]))

/-- Nothing more happens to a cycle that has let its disk go. -/
theorem State.gone_keepsCycle {x : State} (before before' : State) (h : x.cs.state = .out ∨ x.cs.state = .empty) :
    x.KeepsCycle ((x.afterCompletion before).settle before') := by
  refine State.settled_keepsCycle before before' ?_ (Or.inl ?_)
  · rcases h with h | h <;> simp [State.awaitsNoClaim, h]
  · rcases h with h | h <;> simp [h]

/-! ### The state in which the copy cycle is told -/

/-- A frame of the job has been heard, and the account it leaves stands in the record. -/
def State.accounted (k : FrameKey) (i : StationId) (q : JobRecord) (s : State) : State := (s.heard k i).setAccount q

@[simp] theorem State.accounted_kept (k : FrameKey) (i : StationId) (q : JobRecord) (s : State) :
    (s.accounted k i q).cs = s.cs ∧ (s.accounted k i q).dp = s.dp ∧ (s.accounted k i q).du = s.du
    ∧ (s.accounted k i q).station = s.station ∧ (s.accounted k i q).boot = s.boot := by
  simp [State.accounted, State.setAccount]

theorem State.accounted_record (k : FrameKey) (i : StationId) (q : JobRecord) (s : State) :
    (s.accounted k i q).jc.record = some q.drainTest := rfl

@[simp] theorem State.accounted_serialAtStake (k : FrameKey) (i : StationId) (q : JobRecord) (s : State) :
    (s.accounted k i q).serialAtStake ↔ s.serialAtStake := by simp [State.serialAtStake]

@[simp] theorem State.accounted_pulledWaits (k : FrameKey) (i : StationId) (q : JobRecord) (s : State) :
    (s.accounted k i q).pulledWaits ↔ s.pulledWaits := by simp [State.pulledWaits]

/-- Another station's frame leaves the queue, and a place in it. -/
theorem State.accounted_tallyPlace {k : FrameKey} {i : StationId} (q : JobRecord) {s : State} (hi : i ≠ s.station)
    (h : s.tallyPlace) : (s.accounted k i q).tallyPlace := by
  obtain ⟨hboot, hnone, hshort⟩ := h
  have queue : (s.accounted k i q).lc.queue = s.lc.queue := by
    simp [State.accounted, State.setAccount, State.heard_other (k := k) (Or.inl hi)]
  exact ⟨by simpa using hboot, by rwa [Link.has_queue queue], by rwa [queue]⟩

/-! ### The own TALLY (R90, R91) -/

/-- From `s` to `t` the disk stays in TALLY, with what its history entry names. -/
structure State.StaysInTally (o : DiskOutcome) (s t : State) : Prop where
  state  : t.cs.state = .tally
  pulled : t.cs.pulled = s.cs.pulled
  entry  : t.cs.disk.entry o none = s.cs.disk.entry o none
  drive  : t.dp = s.dp
  clock  : t.now = s.now

theorem State.serialLost_staysInTally (o : DiskOutcome) {s : State} (h : s.cs.state = .tally) :
    s.StaysInTally o s.serialLost := by
  by_cases hw : s.pulledWaits
  · have told := State.serialLost_pulled_cs hw
    have drive : s.serialLost.dp = s.dp := by
      rw [State.serialLost_pulled hw]
      simp [State.mapDisk, State.mapCopy]
    exact ⟨by rw [told], by rw [told], by rw [told]; rfl, drive, by simp⟩
  · have settled : ¬ (s.cs.state = .tally ∧ s.cs.pulled = true ∧ s.cs.outcome = none) := hw
    have stays : s.serialLost = s := by rw [State.serialLost, if_neg (by simp [h]), if_neg settled]
    rw [stays]
    exact ⟨h, rfl, rfl, rfl, rfl⟩

theorem State.tallyTested_staysInTally {s : State} (i : StationId) (b : TallyBody) (r : JobRecord)
    (h : s.cs.state = .tally) : s.StaysInTally b.outcome (s.tallyTested i b r) := by
  have lost : s.StaysInTally b.outcome (s.setAccount (r.applyTally i b).1).serialLost := by
    obtain ⟨hstate, hpulled, hentry, hdrive, hclock⟩ :=
      State.serialLost_staysInTally b.outcome (s := s.setAccount (r.applyTally i b).1) h
    exact ⟨hstate, hpulled, hentry, hdrive, hclock⟩
  have applied : s.StaysInTally b.outcome (s.tallyApplied i b r) := by
    rcases r.applyTally_fate i b with hfate | ⟨v, c, -, -, -, hfate⟩
    · simp only [State.tallyApplied, hfate]
      exact ⟨h, rfl, rfl, rfl, rfl⟩
    · simp only [State.tallyApplied, hfate, State.tellClaim]
      split
      · exact lost
      · exact ⟨h, rfl, rfl, rfl, rfl⟩
  have tested := s.tallyTested_keepsCycle i b r
  exact ⟨by rw [tested.cycle, applied.state], by rw [tested.cycle, applied.pulled], by rw [tested.cycle, applied.entry],
    tested.drive.trans applied.drive, tested.clock.trans applied.clock⟩

/-- The own TALLY of a disk in the drive ejects it. -/
theorem State.tallyDone_ejects {s : State} (o : DiskOutcome) (h : s.cs.state = .tally) (hp : s.cs.pulled = false) :
    (s.tallyDone o).cs.state = .out ∧ (s.tallyDone o).cs.outcome = some o ∧ (s.tallyDone o).dp.lock = false
    ∧ (s.tallyDone o).dp.ejectEnds = some (s.dp.ejectEnds.getD (s.now + 100000))
    ∧ (s.tallyDone o).pc.history.getLast? = some (s.cs.disk.entry o none) := by
  have done : s.tallyDone o = s.enterOut o none := by simp [State.tallyDone, h, hp]
  rw [done]
  have cycle : (s.enterOut o none).cs = { s.cs with state := .out, outcome := some o, pulled := false } := by
    simp [State.enterOut, State.mapCopy, State.mapDrive]
  have drive : (s.enterOut o none).dp = s.dp.ejectRequest s.now := by
    simp [State.enterOut, State.mapCopy, State.mapDrive]
  rw [cycle, drive]
  refine ⟨rfl, rfl, rfl, ?_, State.appendHistory_last _ _⟩
  cases he : s.dp.ejectEnds <;> simp [Drive.ejectRequest, he, Config.ejectPulse]

/-- The own TALLY of a pulled disk leaves the cycle EMPTY. -/
theorem State.tallyDone_pulled {s : State} (o : DiskOutcome) (h : s.cs.state = .tally) (hp : s.cs.pulled = true) :
    (s.tallyDone o).cs.state = .empty ∧ (s.tallyDone o).cs.outcome = none ∧ (s.tallyDone o).dp = s.dp
    ∧ (s.tallyDone o).pc.history.getLast? = some (s.cs.disk.entry o none) := by
  have done : s.tallyDone o = s.leavePulled o none := by simp [State.tallyDone, h, hp]
  rw [done]
  exact ⟨by simp [State.leavePulled, State.mapCopy], by simp [State.leavePulled, State.mapCopy], by simp,
    State.appendHistory_last _ _⟩

/-- What the own TALLY leaves of the cycle, the drive and the history. -/
theorem State.StaysInTally.done {o : DiskOutcome} {s x t : State} (h : s.StaysInTally o x)
    (ht : (x.tallyDone o).KeepsCycle t) :
    t.pc.history.getLast? = some (s.cs.disk.entry o none)
    ∧ (s.cs.pulled = false → t.cs.state = .out ∧ t.cs.outcome = some o
      ∧ t.dp.lock = false ∧ t.dp.ejectEnds = some (s.dp.ejectEnds.getD (s.now + 100000)))
    ∧ (s.cs.pulled = true → t.cs.state = .empty ∧ t.cs.outcome = none ∧ t.dp = s.dp) := by
  rw [ht.panel, ht.cycle, ht.drive, ← h.entry, ← h.pulled, ← h.drive, ← h.clock]
  cases hp : x.cs.pulled
  · obtain ⟨hstate, houtcome, hlock, heject, hhistory⟩ := State.tallyDone_ejects o h.state hp
    exact ⟨hhistory, fun _ => ⟨hstate, houtcome, hlock, heject⟩, by simp⟩
  · obtain ⟨hstate, houtcome, hdp, hhistory⟩ := State.tallyDone_pulled o h.state hp
    exact ⟨hhistory, by simp, fun _ => ⟨hstate, houtcome, hdp⟩⟩

/-- What the own TALLY does in TALLY stands to the end of the command. -/
theorem State.ownTally_keepsCycle {s : State} {r : JobRecord} {i : StationId} {b : TallyBody} (before before' : State)
    (hr : s.jc.record = some r) (hp : r.tallyPasses i b = true) (hi : i = s.station) (h : s.cs.state = .tally) :
    ((s.tallyTested i b r).tallyDone b.outcome).KeepsCycle
      (((s.tallyHeard i b).afterCompletion before).settle before') := by
  have stays := s.tallyTested_staysInTally i b r h
  have gone : ((s.tallyTested i b r).tallyDone b.outcome).cs.state = .out
      ∨ ((s.tallyTested i b r).tallyDone b.outcome).cs.state = .empty := by
    cases hpulled : (s.tallyTested i b r).cs.pulled
    · exact Or.inl (State.tallyDone_ejects _ stays.state hpulled).1
    · exact Or.inr (State.tallyDone_pulled _ stays.state hpulled).1
  have heard : s.tallyHeard i b = (s.tallyTested i b r).tallyDone b.outcome := by
    rw [State.tallyHeard_passes hr hp, if_pos hi, State.startTest_elsewhere]
    rcases gone with h | h <;> simp [h]
  rw [heard]
  exact State.gone_keepsCycle before before' gone

/-! ### To the end of the command -/

section
variable {y z : State} (before before' : State)

/-- An own CLAIM entered in CLAIM: the Distribution Unit's tests can still end the disk. -/
theorem State.claimEntered_settled {r : JobRecord} {v : Nat} (hr : y.jc.record = some r) (h : y.cs.state = .claim)
    (hz : (y.claimEntered v).cs.state ≠ .standby → (y.claimEntered v).KeepsCycle z) :
    let t := (z.afterCompletion before).settle before'
    t.cs.disk.serial = some v ∧ t.cs.disk.track = some 0
    ∧ (y.du.lost = [] → (t.cs.state = .fetch ∨ t.cs.state = .write) ∧ t.cs.disk.live = true
      ∧ t.cs.disk.attempts = 0 ∧ t.cs.disk.first = y.cs.disk.first) := by
  intro t
  obtain ⟨hstate, hdisk⟩ := State.claimEntered_claims v hr h
  replace hz := hz (by rcases hstate with h | h <;> simp [h])
  have claimed : z.awaitsNoClaim := by rcases hstate with h | h <;> simp [State.awaitsNoClaim, hz.cycle, h]
  have completed := hz.trans (State.afterCompletion_keepsCycle before claimed)
  obtain ⟨hserial, htrack⟩ := State.settle_place (z.afterCompletion before) before'
  rw [completed.cycle, hdisk] at hserial htrack
  refine ⟨hserial, htrack, fun hlost => ?_⟩
  have found : (z.afterCompletion before).losesNoDisk := Or.inr (by rw [completed.lost]; simpa using hlost)
  have settled := completed.trans (State.settle_keepsCycle before' found)
  rw [show t.cs = (y.claimEntered v).cs from settled.cycle, hdisk]
  exact ⟨hstate, rfl, rfl, rfl⟩

theorem State.claimEntered_pulled_settled {v : Nat} (h : y.pulledWaits)
    (hz : (y.claimEntered v).cs.state ≠ .standby → (y.claimEntered v).KeepsCycle z) :
    ((z.afterCompletion before).settle before').cs
      = { y.cs with state := .tally, outcome := some .pulled, disk := { y.cs.disk with serial := some v } } := by
  have told := State.claimEntered_pulled v h
  replace hz := hz (by simp [told])
  rw [(hz.trans (State.tallied_keepsCycle before before' (by rw [hz.cycle, told]) (by rw [hz.cycle, told]))).cycle, told]

/-- A lost serial: the disk stands in TALLY, and its TALLY stays queued. -/
theorem State.serialLost_settled (h : y.serialAtStake ∨ y.pulledWaits)
    (hz : y.serialLost.cs.state ≠ .standby → y.serialLost.KeepsCycle z) :
    y.serialLost.KeepsCycle ((z.afterCompletion before).settle before') := by
  have tallied : y.serialLost.cs.state = .tally ∧ y.serialLost.cs.outcome = some .rejected := by
    rcases h with h | h
    · obtain ⟨hstate, houtcome, -⟩ := State.serialLost_ends h
      exact ⟨hstate, houtcome⟩
    · simp [State.serialLost_pulled_cs h]
  obtain ⟨hstate, houtcome⟩ := tallied
  replace hz := hz (by simp [hstate])
  exact hz.trans (State.tallied_keepsCycle before before' (by rw [hz.cycle, hstate]) (by rw [hz.cycle, houtcome]))

end

/-- What a lost serial leaves of the disk and the drive. -/
theorem State.accounted_serialLost {k : FrameKey} {i : StationId} {q : JobRecord} {s z : State} (before before' : State)
    (hz : (s.accounted k i q).serialLost.cs.state ≠ .standby → (s.accounted k i q).serialLost.KeepsCycle z) :
    let t := (z.afterCompletion before).settle before'
    (s.serialAtStake →
      t.cs.state = .tally ∧ t.cs.outcome = some .rejected ∧ t.cs.disk.serial = none ∧ t.cs.disk.conflict = true
      ∧ t.cs.disk.first = some (s.cs.disk.first.getD .serialConflict)
      ∧ t.dp.motor = false ∧ t.dp.wgate = false ∧ t.tb = none)
    ∧ (s.pulledWaits → t.cs.state = .tally ∧ t.cs.outcome = some .rejected ∧ t.cs.disk.conflict = true) := by
  intro t
  refine ⟨fun h => ?_, fun h => ?_⟩
  · have stake : (s.accounted k i q).serialAtStake := by simpa using h
    have settled := State.serialLost_settled before before' (Or.inl stake) hz
    rw [settled.cycle, settled.drive, settled.builder]
    simpa using State.serialLost_ends stake
  · have waits : (s.accounted k i q).pulledWaits := by simpa using h
    have settled := State.serialLost_settled before before' (Or.inr waits) hz
    simp [t, settled.cycle, State.serialLost_pulled_cs waits]

/-! ### The three frames -/

section
variable {s : State} {r : JobRecord} {i : StationId} {v : Nat} (carried : Nat) (hr : s.jc.record = some r)
  (hp : r.claimPasses i v = true) (hnew : ¬ ⟨v, i⟩ ∈ r.claims)
include hr hp hnew

/-- An own CLAIM that meets no lower station's entry. -/
theorem State.claimHeard_entered (hi : i = s.station)
    (hwins : ∀ c, (r.claims.eraseP fun c => decide (c.station = i)).find? (fun c => decide (c.serial = v)) = some c →
      i < c.station) :
    let x := (s.accounted .claim i (r.applyClaim i v carried).1).claimEntered v
    x.cs.state ≠ .standby → x.KeepsCycle ((s.heard .claim i).claimHeard i v carried) :=
  State.claimHeard_keepsCycle (State.heard_record _ (by simp) hr) hp
    (State.tellClaim_entered hnew carried (by simpa [State.setAccount] using hi) hwins)

/-- A CLAIM that takes this station's serial, or an own one that is refused it. -/
theorem State.claimHeard_lost {c : Claim}
    (htaken : (r.claims.eraseP fun c => decide (c.station = i)).find? (fun c => decide (c.serial = v)) = some c)
    (hloses : i = s.station ∧ ¬ i < c.station ∨ c.station = s.station ∧ i < c.station) :
    let x := (s.accounted .claim i (r.applyClaim i v carried).1).serialLost
    x.cs.state ≠ .standby → x.KeepsCycle ((s.heard .claim i).claimHeard i v carried) :=
  State.claimHeard_keepsCycle (State.heard_record _ (by simp) hr) hp
    (State.tellClaim_lost hnew carried htaken (by simpa [State.setAccount] using hloses))

end

/-- A TALLY of another station that finds its serial with this station's entry. -/
theorem State.tallyHeard_lost {s : State} {r : JobRecord} {i : StationId} {b : TallyBody} {v : Nat} {c : Claim}
    (hr : s.jc.record = some r) (hp : r.tallyPasses i b = true) (hv : b.serial = some v) (hi : i ≠ s.station)
    (hnew : ¬ ⟨v, i⟩ ∈ r.claims)
    (htaken : (r.claims.eraseP fun c => decide (c.station = i)).find? (fun c => decide (c.serial = v)) = some c)
    (hc : c.station = s.station) :
    let x := (s.accounted .tally i (r.applyTally i b).1).serialLost
    x.cs.state ≠ .standby → x.KeepsCycle ((s.heard .tally i).tallyHeard i b) := by
  have told : (s.heard .tally i).tallyApplied i b r = (s.accounted .tally i (r.applyTally i b).1).serialLost :=
    State.tallyApplied_lost hnew hv htaken (by simpa using hc)
  rw [← told]
  exact State.tallyHeard_keepsCycle (State.heard_record _ (by simp) hr) hp (by simpa using hi)

/-- The account of a TALLY leaves the job's id. -/
theorem JobRecord.applyTally_jobId (i : StationId) (b : TallyBody) (r : JobRecord) :
    (r.applyTally i b).1.drainTest.jobId = r.jobId :=
  congrArg FixedFields.jobId ((JobRecord.drainTest_kept _).1.trans (JobRecord.applyTally_fixed i b r))

/-- Settles O31: the account names the notice that the copy cycle hears (`State.claimHeard_entered`,
`State.claimHeard_lost`, `State.tallyHeard_lost`), and what the notice does stands to the end of the command
(`State.KeepsCycle`). -/
theorem ownClaimAndTallyMoveTheDisk : Obligations.OwnClaimAndTallyMoveTheDisk := by
  refine ⟨fun f s r h hr hj hl => ?_, fun f s r b v c h hr hj hparse hv hother hin hlo hhi hnew htaken hc => ?_,
    fun f s r b h hr hj hown hparse hp htally => ?_⟩
  · intro v others hin hdep hlo hhi hnew entered lost
    have passes : r.claimPasses f.sender v = true := JobRecord.claimPasses_iff.2 ⟨hin, hdep, hlo, hhi⟩
    refine ⟨_, execClaim_own h hr hj (parseClaim_eight hl), fun ⟨hi, hwins⟩ hs => ?_, fun ⟨hi, hwins⟩ hs hp ho => ?_,
      fun ⟨c, htaken, hloses⟩ hs => ?_, fun ⟨c, htaken, hloses⟩ hs hp ho => ?_⟩
    · have told := State.claimHeard_entered (beAt f.body 4 4) hr passes hnew hi hwins
      simpa using State.claimEntered_settled s s (State.accounted_record _ _ _ s) (by simpa using hs) told
    · have told := State.claimHeard_entered (beAt f.body 4 4) hr passes hnew hi hwins
      have waits : s.pulledWaits := ⟨hs, hp, ho⟩
      rw [State.claimEntered_pulled_settled s s (by simpa using waits) told]
      exact ⟨rfl, rfl, rfl⟩
    · have told := State.claimHeard_lost (beAt f.body 4 4) hr passes hnew htaken hloses
      exact (State.accounted_serialLost s s told).1 hs
    · have told := State.claimHeard_lost (beAt f.body 4 4) hr passes hnew htaken hloses
      exact (State.accounted_serialLost s s told).2 ⟨hs, hp, ho⟩
  · have passes : r.tallyPasses f.sender b = true := (JobRecord.tallyPasses_serial hv).2 ⟨hin, hlo, hhi⟩
    have told := State.tallyHeard_lost hr passes hv hother hnew htaken hc
    obtain ⟨ends, tallied⟩ := State.accounted_serialLost s s told
    refine ⟨_, execTally_own h hr hj hparse, ends, fun hs hp ho => tallied ⟨hs, hp, ho⟩, fun hs hnone hshort => ?_⟩
    have loses : s.serialAtStake ∨ s.pulledWaits := hs
    replace loses := loses.imp (State.accounted_serialAtStake .tally f.sender (r.applyTally f.sender b).1 s).2
      (State.accounted_pulledWaits .tally f.sender (r.applyTally f.sender b).1 s).2
    have place := State.accounted_tallyPlace (k := .tally) (r.applyTally f.sender b).1 hother ⟨h.1, hnone, hshort⟩
    have queued := (State.serialLost_settled s s loses told).rejectQueued
      (State.serialLost_queues loses (State.accounted_record _ _ _ s) place)
    rwa [JobRecord.applyTally_jobId] at queued
  · have hh : (s.heard .tally f.sender).jc.record = some r := State.heard_record _ (by simp) hr
    have stays := (s.heard .tally f.sender).tallyTested_staysInTally f.sender b r (by simpa using htally)
    have settled := State.ownTally_keepsCycle s s hh hp (by simpa using hown) (by simpa using htally)
    exact ⟨_, execTally_own h hr hj hparse, by simpa [Disk.entry] using stays.done settled⟩

end Sys2Proof.Machine
end

section
/-! PROOFS. How a disk leaves the copy cycle for OUT, and the start test (R78, R79, R90). -/

namespace Sys2Proof.Machine

/-! ### Entry to OUT and to EMPTY (R90, R91, R138) -/

/-- An EJECT request leaves a running pulse its end. -/
theorem Drive.ejectRequest_eq (now : Nat) (dp : Drive) :
    dp.ejectRequest now = { dp with lock := false, ejectEnds := some (dp.ejectEnds.getD (now + 100000)) } := by
  unfold Drive.ejectRequest
  cases dp.ejectEnds <;> rfl

/-- The disk history with one more entry, which a full history makes room for with its oldest one (R169). -/
def Panel.recording (e : HistoryEntry) (pc : Panel) : Panel :=
  { pc with history := (if pc.history.length < 8 then pc.history else pc.history.drop 1) ++ [e] }

theorem Panel.recording_last (e : HistoryEntry) (pc : Panel) : (pc.recording e).history.getLast? = some e := by
  simp [Panel.recording]

theorem State.enterOut_cs (o : DiskOutcome) (cause : Option EndCause) (s : State) :
    (s.enterOut o cause).cs = { s.cs with state := .out, outcome := some o, pulled := false } := rfl

theorem State.enterOut_dp (o : DiskOutcome) (cause : Option EndCause) (s : State) :
    (s.enterOut o cause).dp =
      { s.dp with lock := false, ejectEnds := some (s.dp.ejectEnds.getD (s.now + 100000)) } :=
  s.dp.ejectRequest_eq s.now

theorem State.enterOut_pc (o : DiskOutcome) (cause : Option EndCause) (s : State) :
    (s.enterOut o cause).pc = s.pc.recording (s.cs.disk.entry o cause) := rfl

/-- A disk that leaves for OUT as REJECTED counts as one (R169). -/
theorem State.enterOut_rejected (cause : Option EndCause) (s : State) :
    (s.enterOut .rejected cause).lc.counters =
      { s.lc.counters with rejected := min (s.lc.counters.rejected + 1) 4294967295 } := rfl

theorem State.leavePulled_cs (o : DiskOutcome) (cause : Option EndCause) (s : State) :
    (s.leavePulled o cause).cs = { s.cs with state := .empty, outcome := none, pulled := false } := rfl

theorem State.leavePulled_dp (o : DiskOutcome) (cause : Option EndCause) (s : State) :
    (s.leavePulled o cause).dp = s.dp := rfl

theorem State.leavePulled_pc (o : DiskOutcome) (cause : Option EndCause) (s : State) :
    (s.leavePulled o cause).pc = s.pc.recording (s.cs.disk.entry o cause) := rfl

/-! ### The start test (R78) -/

theorem State.startConditions_noJob {s : State} (hr : s.jc.record = none) : s.startConditions = false := by
  simp [State.startConditions, hr]

theorem State.startTest_stays {s : State} (h : ¬ (s.cs.state = .standby ∧ s.startConditions = true)) :
    s.startTest = s := by
  rw [State.startTest, if_neg h]

/-- The disk record of a disk that WPROT rejects before it starts. -/
def Copy.protectedNew (cs : Copy) : Copy :=
  { cs with disk := { first := some .protected_ }, outcome := none, pulled := false, phase := none }

theorem State.startTest_rejects {s : State} (hs : s.cs.state = .standby) (hc : s.startConditions = true)
    (hw : s.dp.wprot = true) : s.startTest = (s.mapCopy Copy.protectedNew).enterOut .rejected none := by
  simp only [State.startTest, hs, hc, and_self, if_true, State.startDisk, hw]
  rfl

/-- Settles O9: the start conditions are read off the record, and the test either leaves the state or takes one of
two ways, by WPROT. -/
theorem startTestTakesUpTheDisk : Obligations.StartTestTakesUpTheDisk := by
  intro s
  refine ⟨?_, State.startTest_stays, fun hs hc hw => State.startTest_spinsUp hs hc hw, fun hs hc hw => ?_⟩
  · rcases hr : s.jc.record with _ | r
    · simp [State.startConditions_noJob hr]
    · simpa using State.startConditions_iff hr
  · have kept : s.startTest.lc.queue = s.lc.queue := State.startTest_queue s
    rw [State.startTest_rejects hs hc hw] at kept ⊢
    rw [State.enterOut_cs, State.enterOut_dp]
    exact ⟨rfl, rfl, rfl, rfl, rfl, kept, rfl⟩

end Sys2Proof.Machine
end

section
/-! PROOFS. The INDEX edges of a write, WPROT_CHANGE, and how the use of a disk ends (R83, R84, R87, R88, R139). -/

namespace Sys2Proof.Machine

/-! ### The use of a disk ends (R88) -/

/-- The lines of a stopped motor; a motion that was in progress leaves the cylinder unknown (R138, R143). -/
theorem Drive.stopMotor_eq (dp : Drive) : dp.stopMotor = { dp with
    motor := false, select := false, wgate := false, spindle := {}, counter := none, qualify := none
    motion := none, step := dp.step && dp.motion.isNone
    cylinder := if dp.motion.isSome then none else dp.cylinder } := by
  unfold Drive.stopMotor Drive.endMotion
  split
  next h => simp [h]
  next h => simp [h]

theorem State.endUse_drive (s : State) : s.endUse.dp = s.dp.stopMotor := by
  rw [State.endUse_dp, Drive.stopMotor_eq, Drive.stopMotor_eq, Drive.dropGate]

/-- The release of the drive pin reads slots and record alone. -/
theorem State.releaseDrivePin_congr {x y : State} (hs : x.store = y.store) (hj : x.jc = y.jc) :
    x.releaseDrivePin.store = y.releaseDrivePin.store ∧ x.releaseDrivePin.jc = y.releaseDrivePin.jc := by
  have frees : ∀ (st : Store) (i : Nat),
      ({ x with store := st }.freeIfClosing i).store = ({ y with store := st }.freeIfClosing i).store
      ∧ ({ x with store := st }.freeIfClosing i).jc = ({ y with store := st }.freeIfClosing i).jc := by
    intro st i
    unfold State.freeIfClosing
    dsimp only
    split
    · split <;> simp [State.rejoinRepair, State.mapRecord, hj]
    · exact ⟨rfl, hj⟩
  unfold State.releaseDrivePin
  rw [hs]
  split
  · exact frees _ _
  · exact ⟨hs, hj⟩

theorem State.endUse_pin (s : State) :
    s.endUse.store = s.releaseDrivePin.store ∧ s.endUse.jc = s.releaseDrivePin.jc := by
  have ended := State.releaseDrivePin_congr (x := s.stopWrite.endVerify) (y := s) (by simp) (by simp)
  simpa [State.endUse] using ended

theorem State.endUse_vu (s : State) :
    (∀ v, s.vu = some v → s.endUse.vu = if v.running then none else some v) ∧ (s.vu = none → s.endUse.vu = none) := by
  have ended : s.endUse.vu = s.stopWrite.endVerify.vu := by simp [State.endUse]
  rw [ended]
  refine ⟨fun v hv => ?_, fun hv => ?_⟩
  · cases hr : v.running <;> simp [State.endVerify, hv, hr]
  · simp [State.endVerify, hv]

/-- The WANTs withdrawn with the need part are those of its tracks (R46). -/
theorem State.dropNeed_queue (s : State) : s.dropNeed.lc.queue =
    s.lc.queue.filter fun g => !(s.du.need.any fun w => decide (g.key = .want w.track)) || g.started := by
  refine List.filter_congr fun g _ => ?_
  rcases g with ⟨body, jobId, faults, started⟩
  cases body <;> simp [Frame.key, Body.key, List.any_eq, eq_comm]

theorem State.endUse_filter (s : State) : s.endUse.lc.queue =
    s.lc.queue.filter fun g => !(s.du.need.any fun w => decide (g.key = .want w.track)) || g.started := by
  rw [State.endUse, State.dropNeed_queue]
  simp [State.stopMotor]

theorem State.endUse_du (s : State) : s.endUse.du = { s.du with need := [] } := by
  simp [State.endUse, State.dropNeed]

/-! ### A disk ended (R88, R90) -/

theorem State.endDisk_tallies {s : State} (o : DiskOutcome)
    (h : s.cs.disk.serial.isSome = true ∨ s.cs.disk.conflict = true) : s.endDisk o = s.endUse.toTally o := by
  rw [State.endDisk]
  refine if_pos ?_
  rw [State.endUse_disk]
  simpa using h

theorem State.endDisk_ejects {s : State} (o : DiskOutcome) (hs : s.cs.disk.serial = none)
    (hc : s.cs.disk.conflict = false) : s.endDisk o = s.endUse.enterOut o none := by
  rw [State.endDisk]
  refine if_neg ?_
  rw [State.endUse_disk]
  simp [hs, hc]

/-! ### The INDEX edges of a write (R83, R84) -/

theorem State.writeEdge_elsewhere {s : State} (h : s.cs.state ≠ .write) : s.writeEdge = s := if_neg h

section
variable {s : State} (hs : s.cs.state = .write)
include hs

theorem State.writeEdge_armed (hp : s.cs.phase = some .armed) : s.writeEdge = s.armedEdge := by
  simp [State.writeEdge, hs, hp]

theorem State.writeEdge_completes (hp : s.cs.phase = some .writing) :
    s.writeEdge = { s with cs := { s.cs with phase := some .completing } } := by
  simp [State.writeEdge, hs, hp, State.mapCopy]

theorem State.writeEdge_passes (ha : s.cs.phase ≠ some .armed) (hw : s.cs.phase ≠ some .writing) : s.writeEdge = s := by
  unfold State.writeEdge
  rw [if_pos hs]
  split
  · contradiction
  · contradiction
  · rfl

end

theorem State.armedEdge_protected {s : State} (hw : s.dp.wprot = true) : s.armedEdge = s.reject .protected_ := if_pos hw

/-- WGATE may be asserted (R139). -/
theorem State.gateAllowed_iff {s : State} : s.gateAllowed = true ↔
    s.dp.wprot = false ∧ s.role = some .member ∧ s.dp.motor = true ∧ s.dp.select = true ∧ s.dp.motion = none := by
  simp [State.gateAllowed, and_assoc]

section
variable {s : State} (hw : s.dp.wprot = false)
include hw

theorem State.armedEdge_opens (h : s.gateAllowed = true) : s.armedEdge = { s with
    dp := { s.dp with wgate := true }, tb := some { since := s.now }, cs := { s.cs with phase := some .writing } } := by
  simp [State.armedEdge, hw, h]

theorem State.armedEdge_waits (h : s.gateAllowed ≠ true) : s.armedEdge = s := by
  simp [State.armedEdge, hw, h]

end

/-! ### WPROT changes (R139) -/

/-- WPROT becomes active while WGATE is. -/
theorem State.wprotTo_drops {s : State} (hg : s.dp.wgate = true) :
    s.wprotTo true =
      let dropped : State := { s with dp := { s.dp with wprot := true, wgate := false }, tb := none }
      if s.cs.state = .write then dropped.reject .protected_ else dropped := by
  simp only [State.wprotTo, hg, and_self, if_true]
  rfl

theorem State.wprotTo_line {s : State} {active : Bool} (h : active = false ∨ s.dp.wgate = false) :
    s.wprotTo active = { s with dp := { s.dp with wprot := active } } := by
  rcases h with rfl | hg
  · rfl
  · simp [State.wprotTo, hg, State.mapDrive]

theorem exec_wprotChange (active : Bool) (s : State) :
    exec (.wprotChange active) s = .next ((s.wprotTo active).settle s) := rfl

/-- Settles O40: the two edges of a write, the line, and the end of a disk field by field. -/
theorem writeGateOpensAndDrops : Obligations.WriteGateOpensAndDrops := by
  refine ⟨fun s => ⟨State.writeEdge_elsewhere, fun hs => ⟨fun hp hw => ?_, fun hp hw hrole hmotor hselect hmotion => ?_,
    fun hp hw hnot => ?_, State.writeEdge_completes hs, State.writeEdge_passes hs⟩⟩,
    fun active s => ⟨fun h => ?_, fun ha hg hs => ?_, fun ha hg hs => ?_⟩, fun s f o => ?_⟩
  · rw [State.writeEdge_armed hs hp, State.armedEdge_protected hw]
  · have allowed := State.gateAllowed_iff.2 ⟨hw, hrole, hmotor, hselect, hmotion⟩
    rw [State.writeEdge_armed hs hp, State.armedEdge_opens hw allowed]
  · rw [State.writeEdge_armed hs hp, State.armedEdge_waits hw]
    rintro hallowed
    obtain ⟨-, hrole, hmotor, hselect, hmotion⟩ := State.gateAllowed_iff.1 hallowed
    simp [hrole, hmotor, hselect, hmotion] at hnot
  · rw [exec_wprotChange, State.wprotTo_line h]
  · subst ha
    rw [exec_wprotChange, State.wprotTo_drops hg, if_pos hs]
  · subst ha
    rw [exec_wprotChange, State.wprotTo_drops hg, if_neg hs]
  · intro u t d
    obtain ⟨hstore, hjc⟩ := s.endUse_pin
    obtain ⟨hvu, hvu'⟩ := s.endUse_vu
    have hdp : u.dp = _ := s.endUse_drive.trans s.dp.stopMotor_eq
    have kept : u.lc.counters = s.lc.counters ∧ u.ss = s.ss ∧ u.pc = s.pc ∧ u.now = s.now := by simp [u]
    obtain ⟨hcount, hss, hpc, hnow⟩ := kept
    refine ⟨rfl, hdp, s.endUse_tb, hvu, hvu', hstore, hjc, s.endUse_cs, s.endUse_du, s.endUse_filter, hcount, hss, hpc,
      hnow, fun h => State.endDisk_tallies o h, fun hserial hconflict => ?_⟩
    have ejects : t = u.enterOut o none := State.endDisk_ejects o hserial hconflict
    have heject : u.dp.ejectEnds = s.dp.ejectEnds := by rw [hdp]
    have hentry : u.cs.disk.entry o none = { d.entry o none with serial := none } := by
      rw [s.endUse_disk]
      simp [Disk.entry, d, hserial]
    rw [ejects, State.enterOut_cs, State.enterOut_dp, State.enterOut_pc, hpc, hentry, heject, hnow]
    refine ⟨rfl, rfl, rfl, by simp, by simp, by simp, by simp, fun ho => ?_⟩
    subst ho
    rw [State.enterOut_rejected, hcount]

end Sys2Proof.Machine
end

section
/-! PROOFS. RELEASE completed in its steps, and the drive pin of a FETCH (R31, R35, R41, R51, R54, R82, R114, R116). -/

namespace Sys2Proof.Machine

/-! ### What the release mark is judged by, to the end of the fill (R41) -/

/-- What the release mark is judged by: the fixed part of the record, the mark, and the last-track timeout. -/
def JobRecord.marking (r : JobRecord) : FixedFields × Nat × Bool := (r.fixed, r.mark, r.lastRun)

theorem JobRecord.marking_eq {q r : JobRecord} (h : q.marking = r.marking) :
    q.jobId = r.jobId ∧ q.kind = r.kind ∧ q.tracks = r.tracks ∧ q.mark = r.mark ∧ q.lastRun = r.lastRun := by
  obtain ⟨hfixed, hmark, hlast⟩ : q.fixed = r.fixed ∧ q.mark = r.mark ∧ q.lastRun = r.lastRun := by
    simpa [JobRecord.marking] using h
  have recipe : q.recipe = r.recipe := congrArg FixedFields.recipe hfixed
  exact ⟨congrArg FixedFields.jobId hfixed, congrArg FixedFields.kind hfixed, congrArg Recipe.tracks recipe, hmark,
    hlast⟩

theorem State.freeIfClosing_marking (i : Nat) (s : State) :
    (s.freeIfClosing i).jc.record.map JobRecord.marking = s.jc.record.map JobRecord.marking := by
  unfold State.freeIfClosing
  dsimp only
  split
  · split
    · simp only [State.rejoinRepair, State.mapRecord_jc, Option.map_map]
      rfl
    · rfl
  · rfl

theorem State.releaseLinkPin_marking (s : State) :
    s.releaseLinkPin.jc.record.map JobRecord.marking = s.jc.record.map JobRecord.marking := by
  unfold State.releaseLinkPin
  split
  · exact State.freeIfClosing_marking _ _
  · rfl

theorem State.heard_marking (k : FrameKey) (i : StationId) (s : State) :
    (s.heard k i).jc.record.map JobRecord.marking = s.jc.record.map JobRecord.marking := by
  have leaves : (s.ownLeaves (some k) i).jc.record.map JobRecord.marking = s.jc.record.map JobRecord.marking := by
    unfold State.ownLeaves
    dsimp only
    repeat' split
    · exact State.releaseLinkPin_marking _
    all_goals rfl
  have viewed : (s.heard k i).jc = (s.ownLeaves (some k) i).jc := by simp [State.heard]
  rw [viewed, leaves]

theorem State.settleGood_marking (i t : Nat) (s : State) :
    (s.settleGood i t).jc.record.map JobRecord.marking = s.jc.record.map JobRecord.marking := by
  unfold State.settleGood
  dsimp only
  split
  · simp only [State.mapRecord_jc, Option.map_map]
    rfl
  · rfl

theorem State.settleFill_marking (b : ReleaseBody) (s : State) :
    (s.settleFill b).jc.record.map JobRecord.marking = s.jc.record.map JobRecord.marking := by
  unfold State.settleFill
  split
  · dsimp only
    split
    · have leaves (t : Nat) (x : State) : (x.removeWant t).jc = x.jc := by simp
      rw [leaves, State.settleGood_marking]
    · rfl
  · rfl

/-! ### The release mark and the lost set (R41, R51) -/

theorem State.raiseMark_mark {s : State} {r : JobRecord} (m : Nat) (hr : s.jc.record = some r) :
    (s.raiseMark m).mark = some (max r.mark m) := by
  simp only [State.raiseMark, State.mark, State.mapRecord_jc, hr, Option.map_some]
  split <;> simp <;> omega

section
variable {s : State} {r : JobRecord} {b : ReleaseBody} (hr : s.jc.record = some r)
include hr

theorem State.markRelease_firstPass (hs : b.status = .good) (hf : b.reason = .firstPass) (hk : r.kind = .copy)
    (ht : b.track < r.tracks) : (s.markRelease b).mark = some (max r.mark (b.track + 1)) := by
  simp only [State.markRelease, hr, hk, hs, ht, and_self, if_true, hf]
  exact State.raiseMark_mark _ hr

/-- After the last-track timeout a GOOD RELEASE of the last track, of any reason, completes the mark. -/
theorem State.markRelease_last (hs : b.status = .good) (hk : r.kind = .copy) (hl : r.lastRun = true)
    (ht : b.track + 1 = r.tracks) : (s.markRelease b).mark = some (max r.mark r.tracks) := by
  have below : b.track < r.tracks := by omega
  by_cases hf : b.reason = .firstPass
  · rw [State.markRelease_firstPass hr hs hf hk below, ht]
  · simp only [State.markRelease, hr, hk, hs, below, and_self, if_true, hf, if_false, hl, ht]
    exact State.raiseMark_mark _ hr

theorem State.markRelease_other (hf : b.reason ≠ .firstPass) (h : r.lastRun = false ∨ b.track + 1 ≠ r.tracks) :
    (s.markRelease b).mark = some r.mark := by
  have early : ¬ (r.lastRun = true ∧ b.track + 1 = r.tracks) := by
    rintro ⟨hl, ht⟩
    rcases h with h | h
    · simp [hl] at h
    · exact h ht
  simp only [State.markRelease, hr, hf, if_false, early, ite_self]
  simp [State.mark, hr]

theorem State.markRelease_outside (h : r.kind = .format ∨ r.tracks ≤ b.track) :
    (s.markRelease b).mark = some r.mark := by
  have outside : ¬ (r.kind = .copy ∧ b.status = .good ∧ b.track < r.tracks) := by
    rintro ⟨hk, -, ht⟩
    rcases h with h | h
    · simp [hk] at h
    · omega
  simp only [State.markRelease, hr, outside, if_false]
  simp [State.mark, hr]

theorem State.lostRelease_mark (t : Nat) : (s.lostRelease t).mark = some r.mark := by
  have kept : (s.lostRelease t).mark = s.mark := by simp [State.mark]
  rw [kept, State.mark, hr]
  rfl

end

theorem State.endDisk_du (o : DiskOutcome) (s : State) : (s.endDisk o).du = { s.du with need := [] } := by
  rw [← s.endUse_du]
  unfold State.endDisk
  dsimp only
  split <;> simp

/-- A disk ended for want of a track loses its need entries and nothing else of the Distribution Unit. -/
theorem State.unobtainable_du (s : State) :
    s.unobtainable.du = s.du ∨ s.unobtainable.du = { s.du with need := [] } := by
  unfold State.unobtainable
  split
  · exact .inr (State.endDisk_du _ _)
  · exact .inl rfl

theorem mem_insertTrack_self (t : Nat) (l : List Nat) : t ∈ insertTrack t l := by
  induction l with
  | nil => simp [insertTrack]
  | cons x xs ih =>
    unfold insertTrack
    split
    · simp
    · split
      next h => simp [h]
      next => simp [ih]

theorem Distribution.has_eq_false {du : Distribution} {t : Nat} :
    du.has t = false ↔ ∀ w, w ∈ du.need ∨ w ∈ du.repair → w.track ≠ t := by
  rw [← Bool.not_eq_true, Distribution.has_iff]
  simp

/-- A lost track is asked for no longer (R51). -/
theorem State.lostRelease_lists (t : Nat) (s : State) :
    (s.lostRelease t).du.has t = false ∧ t ∈ (s.lostRelease t).du.lost := by
  unfold State.lostRelease
  dsimp only
  generalize hx : ((s.removeWant t).mapDu fun du => { du with lost := insertTrack t du.lost }) = x
  have lost : t ∈ x.du.lost := by
    rw [← hx]
    exact mem_insertTrack_self t _
  have gone : ∀ w, w ∈ x.du.need ∨ w ∈ x.du.repair → w.track ≠ t := by
    rw [← hx]
    exact Distribution.has_eq_false.1 (s.removeWant_has t)
  split
  · rcases x.unobtainable_du with h | h <;> rw [h, Distribution.has_eq_false]
    · exact ⟨gone, lost⟩
    · exact ⟨fun w hw => gone w (.inr (by simpa using hw)), lost⟩
  · exact ⟨Distribution.has_eq_false.2 gone, lost⟩

/-! ### The command (R35, R36, R159) -/

/-- What a completed RELEASE does to the release mark or the lost set, by its status (R41, R51). -/
def State.releaseMarked (b : ReleaseBody) (s : State) : State :=
  match b.status with
  | .good => s.markRelease b
  | .lost => s.lostRelease b.track

theorem State.releaseMarked_good {b : ReleaseBody} (s : State) (h : b.status = .good) :
    s.releaseMarked b = s.markRelease b := by rw [State.releaseMarked, h]

theorem State.releaseMarked_lost {b : ReleaseBody} (s : State) (h : b.status = .lost) :
    s.releaseMarked b = s.lostRelease b.track := by rw [State.releaseMarked, h]

theorem State.releaseHeard_eq (own : Bool) (origin : Option ReleaseOrigin) (b : ReleaseBody) (s : State) :
    s.releaseHeard own origin b =
      let marked := ((if own then s else s.suppressAnswers b.track).settleFill b).releaseMarked b
      (if own = true ∧ origin = some .source then marked.sourceReleased b.track b.status b.reason
        else marked).fetchTry := rfl

/-- The state in which a completed RELEASE comes to the release mark: the answers of another station's track are
withdrawn, and the fill is settled (R31, R54). -/
def State.releaseFilled (i : StationId) (b : ReleaseBody) (s : State) : State :=
  (if i = s.station then s.heard (.release b.track b.reason) i
    else (s.heard (.release b.track b.reason) i).suppressAnswers b.track).settleFill b

theorem State.releaseFilled_record {s : State} {r : JobRecord} (i : StationId) (b : ReleaseBody)
    (hr : s.jc.record = some r) : ∃ q, (s.releaseFilled i b).jc.record = some q ∧ q.marking = r.marking := by
  have marking : (s.releaseFilled i b).jc.record.map JobRecord.marking = some r.marking := by
    have heard := s.heard_marking (.release b.track b.reason) i
    rw [hr] at heard
    rw [State.releaseFilled, State.settleFill_marking]
    split
    · exact heard
    · exact heard
  exact Option.map_eq_some_iff.1 marking

section
variable {f : Rx} {s : State} {r : JobRecord} {b : ReleaseBody} (h : s.receives) (hr : s.jc.record = some r)
  (hj : f.jobId = r.jobId) (hp : parseRelease f.body = some b)
include h hr hj hp

/-- A RELEASE of the job, heard with no cut-off due. -/
theorem execRelease_job (hc : s.ownCheckFails f.sender = false) :
    exec (.release f) s = .next ((((s.heard (.release b.track b.reason) f.sender).releaseHeard
      (decide (f.sender = s.station)) (s.lc.releaseOrigin b.track b.reason) b).afterCompletion s).settle s) := by
  obtain ⟨q, hq, marking⟩ : ∃ q, (s.heard (.release b.track b.reason) f.sender).jc.record = some q
      ∧ q.marking = r.marking := by
    have heard := s.heard_marking (.release b.track b.reason) f.sender
    rw [hr] at heard
    exact Option.map_eq_some_iff.1 heard
  have job : f.jobId = q.jobId := hj.trans (JobRecord.marking_eq marking).1.symm
  have own := State.completed_own (raw := f.body) (k := fun b : ReleaseBody => .release b.track b.reason)
    (note := State.setNote f.jobId)
    (apply := fun b => State.releaseHeard (decide (f.sender = s.station)) (s.lc.releaseOrigin b.track b.reason) b)
    h hp hq job
  show execRelease f s = _
  rw [execRelease, if_neg (by simp [hc]), ← own]

/-- The release mark or the lost set follows the fill, and the drive pin is asked for last. -/
theorem execRelease_marks (hc : s.ownCheckFails f.sender = false)
    (ho : f.sender ≠ s.station ∨ s.lc.releaseOrigin b.track b.reason ≠ some .source) :
    exec (.release f) s = .next
      (((((s.releaseFilled f.sender b).releaseMarked b).fetchTry).afterCompletion s).settle s) := by
  have other : ¬ (f.sender = s.station ∧ s.lc.releaseOrigin b.track b.reason = some .source) :=
    fun ⟨hi, hsource⟩ => ho.elim (· hi) (· hsource)
  rw [execRelease_job h hr hj hp hc, State.releaseHeard_eq, State.releaseFilled]
  simp only [decide_eq_true_eq, other, if_false]

/-- An own RELEASE of the Source Sequencer moves it on before the drive pin is asked for (R114, R116). -/
theorem execRelease_source (hi : f.sender = s.station) (hc : s.ownCheckFails f.sender = false)
    (ho : s.lc.releaseOrigin b.track b.reason = some .source) :
    exec (.release f) s = .next (((((s.releaseFilled f.sender b).releaseMarked b).sourceReleased b.track b.status
      b.reason).fetchTry.afterCompletion s).settle s) := by
  rw [execRelease_job h hr hj hp hc, State.releaseHeard_eq, State.releaseFilled]
  simp only [hi, ho, decide_true, and_self, if_true]

end

theorem exec_release_cutOff {f : Rx} {s : State} (hc : s.ownCheckFails f.sender = true) :
    exec (.release f) s = exec (.releaseCutOff []) s := by
  show execRelease f s = _
  rw [execRelease, hc]
  rfl

/-! ### The check of an own RELEASE (R35, R36) -/

theorem State.useFails_iff {s : State} {r : JobRecord} (hr : s.jc.record = some r) (i : Nat) :
    s.useFails i = true ↔
      (s.store.slot i).damaged = true ∨ crc32 (s.store.trackData r.recipe i) ≠ (s.store.slot i).check := by
  have recipe : s.recipe = some r.recipe := by simp [State.recipe, hr]
  simp only [State.useFails, recipe, Bool.or_eq_true, Bool.not_eq_true', decide_eq_false_iff_not]
  exact Iff.rfl

theorem State.ownCheckFails_other {s : State} {i : StationId} (hi : i ≠ s.station) : s.ownCheckFails i = false := by
  simp [State.ownCheckFails, hi]

theorem State.ownCheckFails_iff {s : State} {g : Frame} {t : Nat} {reason : ReleaseReason} {o : ReleaseOrigin}
    {z n i : Nat} {w : CheckWord} (h : s.receives) (hf : s.lc.sending = some g)
    (hb : g.body = .release t .good reason o z n w) (hp : s.store.linkPinned = some i) :
    s.ownCheckFails s.station = true ↔ s.useFails i = true := by
  have used : s.sendingSlot = some i := by simp only [State.sendingSlot, hf, hb, hp]
  simp [State.ownCheckFails, h.1, h.2, used]

theorem State.ownCheckFails_unused {s : State} {i : StationId}
    (h : ∀ t reason o z n w g, s.lc.sending = some g → g.body ≠ .release t .good reason o z n w) :
    s.ownCheckFails i = false := by
  have unused : s.sendingSlot = none := by
    unfold State.sendingSlot
    split
    next g hg =>
      split
      next hb => exact absurd hb (h _ _ _ _ _ _ g hg)
      next => rfl
    next => rfl
  simp [State.ownCheckFails, unused]

/-! ### FETCH (R33, R82) -/

/-- A track is held in a slot neither damaged nor free pending (R23). -/
theorem Store.heldSlot_eq_some {st : Store} {t i : Nat} : st.heldSlot t = some i ↔
    (st.entry t).presence = .held ∧ (st.entry t).slot = some i ∧ (st.slot i).damaged = false
    ∧ (st.slot i).freePending = false := by
  have sound (j : Nat) : ¬ (st.slot j).closing = true
      ↔ (st.slot j).damaged = false ∧ (st.slot j).freePending = false := by
    rw [Slot.closing_iff, not_or, Bool.not_eq_true, Bool.not_eq_true]
  unfold Store.heldSlot
  split
  next j hp hs =>
    rw [hp, hs, Option.some_inj, ← sound]
    by_cases hc : (st.slot j).closing = true
    · rw [if_pos hc]
      exact ⟨nofun, fun ⟨_, hj, hn⟩ => absurd (hj ▸ hc) hn⟩
    · rw [if_neg hc, Option.some_inj]
      exact ⟨fun hj => ⟨rfl, hj, hj ▸ hc⟩, fun ⟨_, hj, _⟩ => hj⟩
  next hn => exact ⟨nofun, fun ⟨hp, hs, _⟩ => (hn i hp hs).elim⟩

section
variable {s : State}

theorem State.fetchTry_elsewhere (h : s.cs.state ≠ .fetch) : s.fetchTry = s := by
  unfold State.fetchTry
  split
  · exact if_neg h
  · rfl

variable {r : JobRecord} {t : Nat} (hr : s.jc.record = some r) (ht : s.cs.disk.track = some t)
  (hs : s.cs.state = .fetch)
include hr ht hs

theorem State.fetchTry_format (hk : r.kind = .format) : s.fetchTry = s.toWrite := by
  simp only [State.fetchTry, hr, ht, hs, if_true, hk]

theorem State.fetchTry_pins (hk : r.kind = .copy) (hp : s.store.drivePinned = none) {i : Nat}
    (hi : s.store.heldSlot t = some i) :
    s.fetchTry = State.toWrite { s with store := s.store.takeDrivePin i } := by
  simp only [State.fetchTry, hr, ht, hs, if_true, hk, Store.drivePinGrant, hp, hi]

theorem State.fetchTry_waits (hk : r.kind = .copy) (h : s.store.drivePinned ≠ none ∨ s.store.heldSlot t = none) :
    s.fetchTry = s := by
  have refused : s.store.drivePinGrant t = none := by
    unfold Store.drivePinGrant
    split
    · rfl
    next hn => exact h.resolve_left (not_not_intro hn)
  simp only [State.fetchTry, hr, ht, hs, if_true, hk, refused]

end

/-- Settles O35: the command by sender, check and origin, the release mark from the record that the fill leaves, and
the pin of a FETCH by the slot in which its track is held. -/
theorem releaseIsAppliedInItsSteps : Obligations.ReleaseIsAppliedInItsSteps := by
  refine ⟨fun f s r b h hr hj hp => ?_, fun s r t hr ht => ?_, fun s t => rfl⟩
  · intro heard filled marked
    obtain ⟨q, hq, marking⟩ := s.releaseFilled_record f.sender b hr
    obtain ⟨-, hkind, htracks, hmark, hlast⟩ := JobRecord.marking_eq marking
    have good (hs : b.status = .good) : marked = (s.releaseFilled f.sender b).markRelease b :=
      State.releaseMarked_good _ hs
    have lost (hs : b.status = .lost) : marked = (s.releaseFilled f.sender b).lostRelease b.track :=
      State.releaseMarked_lost _ hs
    refine ⟨fun hi => ?_, fun hi hc => ⟨fun ho => ?_, fun ho => ?_⟩, exec_release_cutOff,
      fun g t reason o z n w i hi hf hb hlink => ?_, State.ownCheckFails_unused, fun hs hf hk ht => ?_,
      fun hs hk hl ht => ?_, fun hs hf hn => ?_, fun hn => ?_, fun hs => ?_⟩
    · exact execRelease_marks h hr hj hp (State.ownCheckFails_other hi) (.inl hi)
    · exact execRelease_marks h hr hj hp hc (.inr ho)
    · exact execRelease_source h hr hj hp hi hc ho
    · rw [hi, State.ownCheckFails_iff h hf hb hlink, State.useFails_iff hr]
    · rw [good hs, State.markRelease_firstPass hq hs hf (hkind.trans hk) (htracks ▸ ht), hmark]
    · rw [good hs, State.markRelease_last hq hs (hkind.trans hk) (hlast.trans hl) (htracks ▸ ht), hmark, htracks]
    · rw [good hs, State.markRelease_other hq hf (by rwa [hlast, htracks]), hmark]
    · rcases hs : b.status with _ | _
      · rw [good hs, State.markRelease_outside hq (by simpa [hs, hkind, htracks] using hn), hmark]
      · rw [lost hs, State.lostRelease_mark hq, hmark]
    · rw [lost hs]
      exact State.lostRelease_lists _ _
  · intro held
    have held_iff (i : Nat) : held i ↔ s.store.heldSlot t = some i := Store.heldSlot_eq_some.symm
    refine ⟨rfl, State.fetchTry_elsewhere, State.toWrite_state hr ht, by simp, fun hs =>
      ⟨State.fetchTry_format hr ht hs, fun i hk hpin hi => ?_, fun hk hnot => ?_⟩⟩
    · exact State.fetchTry_pins hr ht hs hk hpin ((held_iff i).1 hi)
    · refine State.fetchTry_waits hr ht hs hk (hnot.imp_right fun hno => ?_)
      exact Option.eq_none_iff_forall_ne_some.2 fun i hi => hno i ((held_iff i).2 hi)

end Sys2Proof.Machine
end

section
/-! PROOFS. WRITE_COMPLETION: the write judged, the attempts, and the track verified (R84 to R87, R98). -/

namespace Sys2Proof.Machine

/-! ### A use of the pinned slot (R35, R36) -/

section
variable {s : State} {i : Nat} (r : Recipe) (u : Upset)

theorem State.applyCheck_unpinned (hp : s.store.drivePinned = none) : s.applyCheck r u = (s, false) := by
  simp only [State.applyCheck, hp]

variable (hp : s.store.drivePinned = some i)
include hp

/-- A use whose check agrees fails where the slot is damaged already. -/
theorem State.applyCheck_agrees (h : crc32 ((s.upsetAt i u).store.trackData r i) = (s.store.slot i).check) :
    s.applyCheck r u = (s.upsetAt i u, (s.store.slot i).damaged) := by
  simp only [State.applyCheck, hp]
  exact if_pos h

theorem State.applyCheck_differs (h : crc32 ((s.upsetAt i u).store.trackData r i) ≠ (s.store.slot i).check) :
    s.applyCheck r u = ((s.upsetAt i u).markDamaged i, true) := by
  simp only [State.applyCheck, hp]
  exact if_neg h

end

/-! ### The write judged (R84) -/

/-- The state once the stream of a write has stopped. -/
def State.writeStopped (s : State) : State := s.stopWrite.mapCopy fun cs => { cs with phase := none }

/-- What follows a write with its faults in order: a good write has none (R84). -/
def State.judged (faults : List DiskFault) (s : State) : State :=
  if faults = [] then s.writeGood else s.failedAttempt faults

theorem State.judged_good (s : State) : s.judged [] = s.writeGood := if_pos rfl

theorem State.judged_failed {faults : List DiskFault} (s : State) (h : faults ≠ []) :
    s.judged faults = s.failedAttempt faults := if_neg h

theorem exec_writeCompletion (u : Upset) (s : State) :
    exec (.writeCompletion u) s = .next ((s.writeCompletes u).settle s) := rfl

theorem State.writeCompletes_elsewhere {s : State} (u : Upset)
    (h : s.cs.state ≠ .write ∨ s.cs.phase ≠ some .completing) : s.writeCompletes u = s := by
  unfold State.writeCompletes
  split
  · exact if_neg (by rintro ⟨hs, hp⟩; exact h.elim (· hs) (· hp))
  · rfl

section
variable {s : State} {r : JobRecord} (u : Upset) (hr : s.jc.record = some r) (hs : s.cs.state = .write)
  (hp : s.cs.phase = some .completing)
include hr hs hp

theorem State.writeCompletes_copy (hk : r.kind = .copy) {x : State} {fails : Bool}
    (hx : s.writeStopped.applyCheck r.recipe u = (x, fails)) :
    s.writeCompletes u = x.judged (s.writeFaults r.recipe ++ if fails then [.storeDamage] else []) := by
  rw [State.writeStopped] at hx
  simp only [State.writeCompletes, hr, hs, hp, and_self, if_true, hk, hx]
  rfl

/-- No slot is used in a FORMAT job, or where none is pinned. -/
theorem State.writeCompletes_unpinned (h : r.kind = .format ∨ s.store.drivePinned = none) :
    s.writeCompletes u = s.writeStopped.judged (s.writeFaults r.recipe) := by
  rcases hk : r.kind with _ | _
  · have unpinned : s.store.drivePinned = none := h.resolve_left (by simp [hk])
    rw [State.writeCompletes_copy u hr hs hp hk (State.applyCheck_unpinned r.recipe u unpinned)]
    simp
  · simp only [State.writeCompletes, hr, hs, hp, and_self, if_true, hk]
    simp only [Bool.false_eq_true, if_false, List.append_nil]
    rfl

end

/-! ### A good write (R85, R98) -/

section
variable {s : State} {r : JobRecord} (hr : s.jc.record = some r)
include hr

theorem State.writeGood_unverified (hv : r.recipe.verify = .off) : s.writeGood = s.trackVerified := by
  have recipe : s.recipe = some r.recipe := by simp [State.recipe, hr]
  simp only [State.writeGood, recipe, hv, if_true]

theorem State.writeGood_verifies {t : Nat} (ht : s.cs.disk.track = some t) (hv : r.recipe.verify ≠ .off) :
    s.writeGood = { s with
      cs := { s.cs with state := .verify, phase := none }
      vu := some (VerifyRecord.build r.recipe t (s.cs.disk.serial.getD 0))
      dp := s.dp.arm r.recipe.verifyRevs } := by
  have recipe : s.recipe = some r.recipe := by simp [State.recipe, hr]
  simp only [State.writeGood, recipe, hv, if_false, State.toVerify, hr, ht]

/-- A verified track counts, and the next one is fetched (R85). -/
theorem State.trackVerified_next {t : Nat} (ht : s.cs.disk.track = some t) (h : t + 1 < r.tracks) :
    s.trackVerified = State.toFetch { s.releaseDrivePin with cs := { s.cs with
      disk := { s.cs.disk with verified := s.cs.disk.verified + 1, track := some (t + 1), attempts := 0 } } } := by
  have cycle : s.releaseDrivePin.cs = s.cs := by simp
  simp only [State.trackVerified, hr, ht, h, if_true, State.mapDisk, State.mapCopy, cycle]

/-- The last track verified ends the disk as ACCEPTED (R85). -/
theorem State.trackVerified_last {t : Nat} (ht : s.cs.disk.track = some t) (h : r.tracks ≤ t + 1) :
    s.trackVerified = State.endDisk .accepted (s.releaseDrivePin.mapDisk fun d =>
      { d with verified := d.verified + 1, live := false }) := by
  simp only [State.trackVerified, hr, ht, if_neg (Nat.not_lt.2 h)]

end

/-! ### A failed attempt (R86, R87) -/

theorem Disk.record_none {d : Disk} (f : DiskFault) (h : d.first = none) : d.record f = { d with first := some f } := by
  rw [Disk.record, h]

theorem Disk.record_some {d : Disk} (f : DiskFault) (h : d.first.isSome = true) :
    d.record f = { d with further := min (d.further + 1) 255 } := by
  unfold Disk.record
  split
  next hn => simp [hn] at h
  next => rfl

theorem Disk.record_attempts (f : DiskFault) (d : Disk) : (d.record f).attempts = d.attempts := by
  unfold Disk.record
  split <;> rfl

/-- The disk record after an attempt that failed with these faults, in order. -/
def Disk.failedWith (faults : List DiskFault) (d : Disk) : Disk :=
  { faults.foldl (fun d f => d.record f) d with attempts := d.attempts + 1 }

/-- Faults are recorded in the disk record, one after the other. -/
theorem State.faults_eq (faults : List DiskFault) (s : State) :
    faults.foldl (fun s f => s.fault f) s
      = { s with cs := { s.cs with disk := faults.foldl (fun d f => d.record f) s.cs.disk } } := by
  induction faults generalizing s with
  | nil => rfl
  | cons f faults ih => rw [List.foldl_cons, List.foldl_cons, ih]; rfl

theorem Disk.faults_attempts (faults : List DiskFault) (d : Disk) :
    (faults.foldl (fun d f => d.record f) d).attempts = d.attempts := by
  induction faults generalizing d with
  | nil => rfl
  | cons f faults ih => rw [List.foldl_cons, ih, Disk.record_attempts]

/-- The state in which a failed attempt is judged against the retry limit. -/
def State.attemptFailed (faults : List DiskFault) (s : State) : State :=
  { s with cs := { s.cs with disk := s.cs.disk.failedWith faults } }

theorem State.failedAttempt_eq (faults : List DiskFault) (s : State) :
    s.failedAttempt faults =
      let pinned := s.attemptFailed faults
      let unpinned := pinned.releaseDrivePin
      if DiskFault.storeDamage ∈ faults then
        if unpinned.attemptsSpent then unpinned.endDisk .rejected else unpinned.toFetch
      else if pinned.attemptsSpent then pinned.endDisk .rejected else pinned.toWrite := by
  have recorded : (faults.foldl (fun s f => s.fault f) s).mapDisk (fun d => { d with attempts := d.attempts + 1 })
      = s.attemptFailed faults := by
    rw [State.faults_eq]
    simp only [State.mapDisk, State.mapCopy, State.attemptFailed, Disk.failedWith, Disk.faults_attempts]
  rw [State.failedAttempt, recorded]

theorem State.attemptsSpent_iff {s : State} {q : Recipe} (hq : s.recipe = some q) :
    s.attemptsSpent = true ↔ q.writeRetry < s.cs.disk.attempts := by simp [State.attemptsSpent, hq]

theorem State.releaseDrivePin_recipe (s : State) : s.releaseDrivePin.recipe = s.recipe := by
  have fixed : s.releaseDrivePin.jc.record.map (·.fixed) = s.jc.record.map (·.fixed) := by simp
  have recipes := congrArg (Option.map FixedFields.recipe) fixed
  rwa [Option.map_map, Option.map_map] at recipes

section
variable {s : State} {r : JobRecord} {faults : List DiskFault} (hr : s.jc.record = some r)
include hr

theorem State.attemptFailed_spent : (s.attemptFailed faults).attemptsSpent = true ↔
    r.recipe.writeRetry < s.cs.disk.attempts + 1 :=
  State.attemptsSpent_iff (by simp [State.recipe, State.attemptFailed, hr])

theorem State.attemptFailed_unpinnedSpent : (s.attemptFailed faults).releaseDrivePin.attemptsSpent = true ↔
    r.recipe.writeRetry < s.cs.disk.attempts + 1 := by
  have cycle : (s.attemptFailed faults).releaseDrivePin.cs = (s.attemptFailed faults).cs := by simp
  rw [State.attemptsSpent_iff (q := r.recipe), cycle]
  · rfl
  · rw [State.releaseDrivePin_recipe]
    simp [State.recipe, State.attemptFailed, hr]

section
variable (hd : ¬ DiskFault.storeDamage ∈ faults)
include hd

theorem State.failedAttempt_retries (h : s.cs.disk.attempts + 1 ≤ r.recipe.writeRetry) :
    s.failedAttempt faults = (s.attemptFailed faults).toWrite := by
  rw [State.failedAttempt_eq]
  dsimp only
  rw [if_neg hd, if_neg (mt (State.attemptFailed_spent hr).1 (Nat.not_lt.2 h))]

theorem State.failedAttempt_rejects (h : r.recipe.writeRetry < s.cs.disk.attempts + 1) :
    s.failedAttempt faults = (s.attemptFailed faults).endDisk .rejected := by
  rw [State.failedAttempt_eq]
  dsimp only
  rw [if_neg hd, if_pos ((State.attemptFailed_spent hr).2 h)]

end

section
variable (hd : DiskFault.storeDamage ∈ faults)
include hd

theorem State.failedAttempt_fetches (h : s.cs.disk.attempts + 1 ≤ r.recipe.writeRetry) :
    s.failedAttempt faults = (s.attemptFailed faults).releaseDrivePin.toFetch := by
  rw [State.failedAttempt_eq]
  dsimp only
  rw [if_pos hd, if_neg (mt (State.attemptFailed_unpinnedSpent hr).1 (Nat.not_lt.2 h))]

theorem State.failedAttempt_rejectsDamaged (h : r.recipe.writeRetry < s.cs.disk.attempts + 1) :
    s.failedAttempt faults = (s.attemptFailed faults).releaseDrivePin.endDisk .rejected := by
  rw [State.failedAttempt_eq]
  dsimp only
  rw [if_pos hd, if_pos ((State.attemptFailed_unpinnedSpent hr).2 h)]

end

end

end Sys2Proof.Machine
end

section
/-! PROOFS. The seek of a write (R83, R137, R141, R142), and what WRITE_COMPLETION leads to. -/

namespace Sys2Proof.Machine

/-! ### A seek asked for (R137, R141) -/

section
variable {dp : Drive} (q : Recipe) (now c : Nat) (h : Bool)

theorem Drive.seekFrom_there {cur : Nat} (hc : cur = c) (hh : dp.head = h) :
    dp.seekFrom q now cur c h = (dp, true) := by
  simp [Drive.seekFrom, hc, hh]

/-- On its cylinder a seek selects the head and waits for the settle. -/
theorem Drive.seekFrom_head {cur : Nat} (hc : cur = c) (hg : dp.wgate = false) (hh : dp.head ≠ h) :
    dp.seekFrom q now cur c h = ({ dp with
      head := h
      motion := some { kind := .seek c h, settling := true, ends := now + q.headSettle * 1000 } }, false) := by
  simp [Drive.seekFrom, hc, hh, Drive.setHead, hg]

theorem Drive.seekFrom_steps {cur : Nat} (hc : cur ≠ c) : dp.seekFrom q now cur c h = ({ dp with
    dir := decide (cur < c)
    step := true
    motion := some {
      kind := .seek c h, pulses := 1, toGo := (if c < cur then cur - c else c - cur) * q.stepMult - 1
      ends := now + q.stepTime * 1000 } }, false) := by
  simp [Drive.seekFrom, hc]

theorem Drive.requestSeek_refused (hm : dp.motion ≠ none) : dp.requestSeek q now c h = (dp, false) :=
  if_pos (Option.isSome_iff_ne_none.2 hm)

variable (hm : dp.motion = none)
include hm

theorem Drive.requestSeek_known {cur : Nat} (hc : dp.cylinder = some cur) :
    dp.requestSeek q now c h = dp.seekFrom q now cur c h := by
  simp [Drive.requestSeek, hm, hc]

variable (hg : dp.wgate = false) (hc : dp.cylinder = none)
include hg hc

/-- From an unknown cylinder the recalibrate steps outward while TRK0 is inactive. -/
theorem Drive.requestSeek_recalibrates (ht : dp.trk0 = false) : dp.requestSeek q now c h = ({ dp with
    head := false
    dir := false
    step := true
    motion := some {
      kind := .recalibrate (some (c, h)), pulses := 1, ends := now + q.stepTime * 1000 } }, false) := by
  simp [Drive.requestSeek, hm, hc, Drive.recalibrate, Drive.setHead, hg, ht]

/-- With TRK0 active the recalibrate has ended at once. -/
theorem Drive.requestSeek_atTrack0 (ht : dp.trk0 = true) : dp.requestSeek q now c h =
    Drive.seekFrom q now 0 c h { dp with head := false, dir := false, cylinder := some 0 } := by
  simp [Drive.requestSeek, hm, hc, Drive.recalibrate, Drive.setHead, hg, ht]

end

/-! ### Entry to WRITE (R83) -/

/-- The state in WRITE, in a phase and with the drive port as the request has left it. -/
def State.inWrite (phase : WritePhase) (dp : Drive) (s : State) : State :=
  { s with cs := { s.cs with state := .write, phase := some phase }, dp := dp }

section
variable {s : State} {r : JobRecord} {t : Nat} (hr : s.jc.record = some r) (ht : s.cs.disk.track = some t) {d : Drive}
include hr ht

theorem State.toWrite_eq :
    s.toWrite =
      let x := s.dp.requestSeek r.recipe s.now (t / r.recipe.heads) (decide (t % r.recipe.heads = 1))
      if x.2 then (s.inWrite .seeking x.1).copySeekEnd true else s.inWrite .seeking x.1 := by
  simp only [State.toWrite, hr, ht]
  rfl

theorem State.toWrite_seeks
    (hd : s.dp.requestSeek r.recipe s.now (t / r.recipe.heads) (decide (t % r.recipe.heads = 1)) = (d, false)) :
    s.toWrite = s.inWrite .seeking d := by
  rw [State.toWrite_eq hr ht, hd]
  rfl

/-- Where no motion is needed the write is armed at once, or waits for a qualified spindle. -/
theorem State.toWrite_there
    (hd : s.dp.requestSeek r.recipe s.now (t / r.recipe.heads) (decide (t % r.recipe.heads = 1)) = (d, true))
    (hq : d.spindle = s.dp.spindle) :
    (s.dp.spindle.qualified = true → s.toWrite = s.inWrite .armed d)
    ∧ (s.dp.spindle.qualified = false → s.toWrite =
      s.inWrite .requalify { d with qualify := some { limit := s.now + s.pc.params.spinUpLimit * 1000 } }) := by
  have ended : s.toWrite = (s.inWrite .seeking d).copySeekEnd true := by
    rw [State.toWrite_eq hr ht, hd]
    rfl
  have spindle : (s.inWrite .seeking d).dp.spindle = s.dp.spindle := hq
  refine ⟨fun h => ?_, fun h => ?_⟩ <;> rw [ended, State.copySeekEnd, spindle, h] <;> rfl

end

/-- Settles O42: the check of the slot gives the faults by which the write is judged; then the attempt's outcome by the
retry limit, and the seek by cylinder, head and TRK0. -/
theorem writeCompletionJudgesTheWrite : Obligations.WriteCompletionJudgesTheWrite := by
  refine ⟨fun u s r hr => ⟨fun h => ?_, fun hs hp => ?_⟩, fun s r t hr ht => ?_, fun s r t hr ht => ?_⟩
  · rw [exec_writeCompletion, State.writeCompletes_elsewhere u h]
  · intro stopped faults
    refine ⟨fun h => ?_, fun i hk hpin => ?_⟩
    · have judged : s.writeCompletes u = stopped.judged faults := State.writeCompletes_unpinned u hr hs hp h
      refine ⟨fun hf => ?_, fun hf => ?_⟩
      · rw [exec_writeCompletion, judged, hf, State.judged_good]
      · rw [exec_writeCompletion, judged, State.judged_failed _ hf]
    · intro read sound
      have pinned : s.writeStopped.store.drivePinned = some i := hpin
      have agrees (h : sound = true) : s.writeCompletes u
          = read.judged (faults ++ if (s.store.slot i).damaged then [.storeDamage] else []) :=
        State.writeCompletes_copy u hr hs hp hk
          (State.applyCheck_agrees r.recipe u pinned (of_decide_eq_true h))
      refine ⟨fun hok hd hf => ?_, fun hok hd hf => ?_, fun hok hd => ?_, fun hbad => ?_⟩
      · rw [exec_writeCompletion, agrees hok, hd, hf]
        rfl
      · rw [exec_writeCompletion, agrees hok, hd, if_neg (by simp), List.append_nil, State.judged_failed _ hf]
      · rw [exec_writeCompletion, agrees hok, hd, if_pos rfl, State.judged_failed _ (by simp)]
      · have differs : s.writeCompletes u = (read.markDamaged i).judged (faults ++ [.storeDamage]) :=
          State.writeCompletes_copy u hr hs hp hk
            (State.applyCheck_differs r.recipe u pinned (of_decide_eq_false hbad))
        rw [exec_writeCompletion, differs, State.judged_failed _ (by simp)]
  · refine ⟨fun hv => ?_, State.writeGood_unverified hr, State.trackVerified_next hr ht, fun hlast hserial => ?_,
      fun f d => ⟨Disk.record_none f, Disk.record_some f⟩, fun faults =>
      ⟨fun hd => ⟨State.failedAttempt_retries hr hd, State.failedAttempt_rejects hr hd⟩,
        fun hd => ⟨State.failedAttempt_fetches hr hd, State.failedAttempt_rejectsDamaged hr hd⟩⟩⟩
    · rw [State.writeGood_verifies hr ht hv]
      exact ⟨rfl, rfl, rfl⟩
    · rw [State.trackVerified_last hr ht hlast, State.endDisk_tallies .accepted (.inl (by simpa using hserial)),
        State.toTally_cs, State.endUse_disk]
      exact ⟨rfl, rfl, by simp, by simp [State.endUse_drive, Drive.stopMotor_eq]⟩
  · intro c h write settles steps there home
    refine ⟨fun hm => State.toWrite_seeks hr ht (Drive.requestSeek_refused _ _ _ _ hm), fun hm hg => ?_⟩
    have known {cur : Nat} (hc : s.dp.cylinder = some cur) := Drive.requestSeek_known r.recipe s.now c h hm hc
    refine ⟨fun hc hh => ?_, fun hc hh => ?_, fun cur hc hne => ?_, fun hc h0 => ?_, fun hc h0 =>
      ⟨fun hne => ?_, fun hc0 hh => ?_, fun hc0 hh => ?_⟩⟩
    · exact State.toWrite_there hr ht ((known hc).trans (Drive.seekFrom_there _ _ _ _ rfl hh)) rfl
    · exact State.toWrite_seeks hr ht ((known hc).trans (Drive.seekFrom_head _ _ _ _ rfl hg hh))
    · exact State.toWrite_seeks hr ht ((known hc).trans (Drive.seekFrom_steps _ _ _ _ hne))
    · exact State.toWrite_seeks hr ht (Drive.requestSeek_recalibrates _ _ _ _ hm hg hc h0)
    all_goals have recalibrated := Drive.requestSeek_atTrack0 r.recipe s.now c h hm hg hc h0
    · have dir : decide (0 < c) = true := decide_eq_true (Nat.pos_of_ne_zero hne)
      have stepped := Drive.seekFrom_steps (dp := home) r.recipe s.now c h (Ne.symm hne)
      rw [dir] at stepped
      exact State.toWrite_seeks hr ht (recalibrated.trans stepped)
    · have headed := Drive.seekFrom_head (dp := home) r.recipe s.now c h hc0.symm hg (by simp [home, hh])
      rw [← hh]
      exact State.toWrite_seeks hr ht (recalibrated.trans headed)
    · have arrived := Drive.seekFrom_there (dp := home) r.recipe s.now c h hc0.symm (by simp [home, hh])
      exact State.toWrite_there hr ht (recalibrated.trans arrived) rfl

end Sys2Proof.Machine
end

section
/-! PROOFS. EJECT_PULSE_END, DISKIN_ACTIVE and DISKIN_INACTIVE (R77, R90, R91, R110, R117, R119, R137, R138, R147). -/

namespace Sys2Proof.Machine

/-! ### The EJECT pulse ends (R119, R137, R138) -/

/-- Outside ENDING the port is without a user where no record is held, or an OBSERVER's (R137). -/
theorem State.portUser_nobody {s : State} (h : s.ss.state ≠ .ending) :
    s.portUser = .nobody ↔ s.role = none ∨ s.role = some .observer := by
  unfold State.portUser State.role
  cases s.jc.record with
  | none => simp [h]
  | some r => cases hr : r.role <;> simp [h, hr]

theorem State.ejectEnd_idle {s : State} (h : s.dp.ejectEnds = none) : s.ejectEnd = s := by simp only [State.ejectEnd, h]

/-- The state once the EJECT pulse has ended. -/
def State.ejected (e : Nat) (s : State) : State := { s with now := max s.now e, dp := { s.dp with ejectEnds := none } }

theorem State.ejectEnd_pulse {s : State} {e : Nat} (h : s.dp.ejectEnds = some e) (hs : s.ss.state ≠ .ending) :
    s.ejectEnd = s.ejected e := by
  simp only [State.ejectEnd, h, if_neg hs]
  rfl

theorem State.ejectEnd_source {s : State} {e : Nat} (h : s.dp.ejectEnds = some e) (hs : s.ss.state = .ending) :
    s.ejectEnd = State.idlePort { s.ejected e with ss := {} } := by
  simp only [State.ejectEnd, h, if_pos hs]
  rfl

section
variable {s : State} {e : Nat} (h : s.dp.ejectEnds = some e) (hs : s.ss.state = .ending)
include h hs

/-- A port with a user keeps its lines. -/
theorem State.ejectEnd_used (hr : s.role = some .member ∨ s.role = some .source) :
    s.ejectEnd = { s.ejected e with ss := {} } := by
  have role : ¬ (s.role = none ∨ s.role = some .observer) := by rcases hr with hr | hr <;> simp [hr]
  have user := mt (State.portUser_nobody (s := { s.ejected e with ss := {} }) (by simp)).1 role
  rw [State.ejectEnd_source h hs, State.idlePort_eq, if_neg user]

theorem State.ejectEnd_unused (hr : s.role = none ∨ s.role = some .observer) :
    s.ejectEnd = { s.ejected e with ss := {}, dp := (s.ejected e).dp.atRest } := by
  have user := (State.portUser_nobody (s := { s.ejected e with ss := {} }) (by simp)).2 hr
  rw [State.ejectEnd_source h hs, State.idlePort_eq, if_pos user]

end

/-! ### The diskette seated (R77, R147, R163) -/

theorem State.dark_iff {s : State} : s.dark = true ↔ s.boot = .clearing true ∨ s.boot = .loading := by simp [State.dark]

section
variable {s : State} (hd : s.dp.diskin = false)
include hd

theorem State.seated_empty (hs : s.cs.state = .empty) (hb : s.boot ≠ .clearing true) (hl : s.boot ≠ .loading) :
    s.seated = ((s.diskinLine true).cycleTo .standby).startTest := by
  have lit : ¬ s.dark = true := mt State.dark_iff.1 (not_or.2 ⟨hb, hl⟩)
  unfold State.seated
  rw [if_neg (by simp [hd])]
  exact (if_neg lit).trans (if_pos hs)

theorem State.seated_line (h : s.cs.state ≠ .empty ∨ s.boot = .clearing true ∨ s.boot = .loading) :
    s.seated = s.diskinLine true := by
  unfold State.seated
  rw [if_neg (by simp [hd])]
  by_cases hdark : s.dark = true
  · exact if_pos hdark
  · exact (if_neg hdark).trans (if_neg (h.resolve_right fun hb => hdark (State.dark_iff.2 hb)))

end

/-! ### JOB OPENs queued (R110) -/

/-- A JOB OPEN that is queued now was queued before. -/
def State.opensFrom (s t : State) : Prop := ∀ g ∈ t.lc.queue, g.key = .jobOpen → g ∈ s.lc.queue

theorem State.opensFrom.trans {s t u : State} (h : s.opensFrom t) (h' : t.opensFrom u) : s.opensFrom u :=
  fun g hg hk => h g (h' g hg hk) hk

theorem State.opensFrom_of_queue {s t : State} (h : t.lc.queue = s.lc.queue) : s.opensFrom t :=
  fun _ hg _ => h ▸ hg

theorem State.opensFrom.mapCopy {s t : State} (h : s.opensFrom t) (g : Copy → Copy) : s.opensFrom (t.mapCopy g) :=
  h.trans (State.opensFrom_of_queue (s := t) (t := t.mapCopy g) rfl)

theorem State.toTally_opensFrom (o : DiskOutcome) (s : State) : s.opensFrom (s.toTally o) := by
  intro g hg hk
  unfold State.toTally State.enterTally at hg
  repeat' split at hg
  · refine (State.mem_queue_enter hg).resolve_right fun htally => ?_
    rw [hk] at htally
    exact nomatch htally
  all_goals exact hg

/-- A change of the TALLY queued that keeps its key leaves each JOB OPEN. -/
theorem State.mapFrame_opensFrom (m : Frame → Frame) (hm : ∀ g, (m g).key = g.key) (s : State) :
    s.opensFrom (s.mapFrame .tally m) := by
  intro g hg hk
  simp only [State.mapFrame_lc, List.mem_map] at hg
  obtain ⟨f, hf, rfl⟩ := hg
  have key : f.key = .jobOpen := by
    rw [← hk]
    split
    · exact (hm f).symm
    · rfl
  rwa [if_neg (by simp [key])]

/-- A COPY JOB OPEN that has not started does not outlast the diskette (R110). -/
theorem State.withdrawCopyOpen_started {s : State} {g : Frame} (hg : g ∈ s.withdrawCopyOpen.lc.queue) {terms : JobTerms}
    (hb : g.body = .jobOpen terms) (hs : g.started = false) : terms.kind ≠ .copy := by
  intro hk
  simp [State.withdrawCopyOpen, State.withdraw, State.setQueue, hb, hk, hs] at hg

theorem State.mem_withdrawCopyOpen {s : State} {f : Frame} (hk : f.key ≠ .jobOpen) :
    f ∈ s.withdrawCopyOpen.lc.queue ↔ f ∈ s.lc.queue := by
  rcases f with ⟨body, jobId, faults, started⟩
  cases body
  case jobOpen => exact absurd rfl hk
  all_goals simp [State.withdrawCopyOpen, State.withdraw, State.setQueue]

/-- The frames of the other keys are queued and on the medium as before. -/
theorem State.withdrawCopyOpen_any (s : State) {p : Frame → Bool} (hp : ∀ f, p f = true → f.key ≠ .jobOpen) :
    s.withdrawCopyOpen.lc.queue.any p = s.lc.queue.any p := by
  rw [Bool.eq_iff_iff, List.any_eq_true, List.any_eq_true]
  exact exists_congr fun f => and_congr_left fun h => State.mem_withdrawCopyOpen (hp f h)

/-! ### A disk pulled (R91) -/

/-- The state once the use of a pulled disk has ended. -/
def State.pulledOut (s : State) : State :=
  (s.fault .pulled).endUse.mapDrive fun dp => { dp with lock := false }

theorem State.pulledOut_cs (s : State) : s.pulledOut.cs =
    { s.cs with phase := none, disk := { s.cs.disk.record .pulled with live := false } } := by
  rw [State.pulledOut, State.mapDrive_cs, State.endUse_cs, State.fault_cs]

theorem State.pulledOut_lines (s : State) :
    s.pulledOut.dp.motor = false ∧ s.pulledOut.dp.lock = false ∧ s.pulledOut.dp.wgate = false
    ∧ s.pulledOut.tb = none := by
  have stopped : s.pulledOut.dp = { s.dp.stopMotor with lock := false } := by
    rw [State.pulledOut, State.mapDrive_dp, State.endUse_drive]
    rfl
  obtain ⟨motor, -, wgate, -⟩ := s.dp.stopMotor_lines
  rw [stopped]
  exact ⟨motor, rfl, wgate, (s.fault .pulled).endUse_tb⟩

theorem State.pulledOut_history (s : State) : s.pulledOut.pc = s.pc := by simp [State.pulledOut]

theorem State.pulledOut_opensFrom (s : State) : s.opensFrom s.pulledOut :=
  fun g hg _ => State.endUse_queue (s.fault .pulled) g hg

/-- The frame of the key is on the medium. -/
def Link.onMedium (lc : Link) (k : FrameKey) : Prop := lc.has k = true ∧ lc.waiting k = false

theorem State.withdrawCopyOpen_onMedium (s : State) {k : FrameKey} (hk : k ≠ .jobOpen) :
    s.withdrawCopyOpen.lc.onMedium k ↔ s.lc.onMedium k := by
  unfold Link.onMedium Link.has Link.waiting
  rw [State.withdrawCopyOpen_any s (p := fun f => decide (f.key = k)),
    State.withdrawCopyOpen_any s (p := fun f => decide (f.key = k) && !f.started)]
  all_goals
    intro f hf
    simp_all

section
variable {s : State}

theorem State.pullDisk_leaves (h : s.cs.state ∉ [CycleState.claim, .fetch, .write, .verify, .tally]) :
    s.pullDisk = s.pulledOut.leavePulled .pulled none := by
  unfold State.pullDisk
  split
  case h_6 => rfl
  all_goals simp_all

theorem State.pullDisk_unclaimed (h : s.cs.state = .claim) (hm : ¬ s.lc.onMedium .claim) :
    s.pullDisk = (s.pulledOut.withdrawKey .claim).leavePulled .pulled none := by
  simp only [State.pullDisk, h]
  exact if_neg hm

theorem State.pullDisk_claiming (h : s.cs.state = .claim) (hm : s.lc.onMedium .claim) :
    s.pullDisk = s.pulledOut.mapCopy fun cs => { cs with state := .tally, pulled := true, outcome := none } := by
  simp only [State.pullDisk, h]
  exact if_pos hm

theorem State.pullDisk_tallies (h : s.cs.state = .fetch ∨ s.cs.state = .write ∨ s.cs.state = .verify) :
    s.pullDisk = (s.pulledOut.mapCopy fun cs => { cs with pulled := true }).toTally .pulled := by
  rcases h with h | h | h <;> (simp only [State.pullDisk, h]; rfl)

/-- A TALLY queued takes the outcome PULLED. -/
def Frame.pulledTally (f : Frame) : Frame :=
  match f.body with
  | .tally _ v first further verified => { f with body := .tally .pulled v first further verified }
  | _ => f

theorem Frame.pulledTally_key (f : Frame) : f.pulledTally.key = f.key := by
  unfold Frame.pulledTally
  split
  next hb => simp [Frame.key, hb, Body.key]
  next => rfl

theorem State.pullDisk_tallied (h : s.cs.state = .tally) (hc : s.cs.disk.conflict = true ∨ s.lc.onMedium .tally) :
    s.pullDisk = s.pulledOut.mapCopy fun cs => { cs with pulled := true } := by
  simp only [State.pullDisk, h]
  exact if_pos hc

theorem State.pullDisk_tallyPulled (h : s.cs.state = .tally) (hc : s.cs.disk.conflict = false)
    (hm : ¬ s.lc.onMedium .tally) :
    s.pullDisk = ((s.pulledOut.mapCopy fun cs => { cs with pulled := true }).mapCopy fun cs =>
      { cs with outcome := some .pulled }).mapFrame .tally Frame.pulledTally := by
  simp only [State.pullDisk, h]
  refine (if_neg ?_).trans rfl
  rintro (hconflict | hmedium)
  · simp [hc] at hconflict
  · exact hm hmedium

end

/-- A pulled disk that leaves the cycle is entered as PULLED, with PULLED as its fault where it has none. -/
theorem State.pulledOut_leaves {s z : State} (hcs : z.cs = s.pulledOut.cs) (hdp : z.dp = s.pulledOut.dp) :
    let x := z.leavePulled .pulled none
    x.cs.state = .empty ∧ x.dp.motor = false ∧ x.dp.lock = false
    ∧ (x.pc.history.getLast?.map fun h => (h.outcome, h.first)) =
      some (.pulled, some (s.cs.disk.first.getD .pulled)) := by
  obtain ⟨motor, lock, -⟩ := s.pulledOut_lines
  refine ⟨rfl, (congrArg Drive.motor hdp).trans motor, (congrArg Drive.lock hdp).trans lock, ?_⟩
  rw [State.leavePulled_pc, Panel.recording_last, hcs, State.pulledOut_cs]
  simp [Disk.entry, Disk.record_first]

theorem State.pullDisk_opensFrom (s : State) : s.opensFrom s.pullDisk := by
  have out := s.pulledOut_opensFrom
  by_cases hleaves : s.cs.state ∉ [CycleState.claim, .fetch, .write, .verify, .tally]
  · rw [State.pullDisk_leaves hleaves]
    exact out.trans (State.opensFrom_of_queue (by simp))
  by_cases hclaim : s.cs.state = .claim
  · by_cases hm : s.lc.onMedium .claim
    · rw [State.pullDisk_claiming hclaim hm]
      exact out.mapCopy _
    · rw [State.pullDisk_unclaimed hclaim hm]
      refine out.trans (State.opensFrom.trans (t := s.pulledOut.withdrawKey .claim) (fun g hg _ => ?_)
        (State.opensFrom_of_queue (by simp)))
      exact (State.mem_queue_withdrawKey.1 hg).1
  by_cases htally : s.cs.state = .tally
  · by_cases hc : s.cs.disk.conflict = true ∨ s.lc.onMedium .tally
    · rw [State.pullDisk_tallied htally hc]
      exact out.mapCopy _
    · obtain ⟨hconflict, hm⟩ := not_or.1 hc
      rw [State.pullDisk_tallyPulled htally (by simpa using hconflict) hm]
      exact ((out.mapCopy _).mapCopy _).trans (State.mapFrame_opensFrom _ Frame.pulledTally_key _)
  · have writes : s.cs.state = .fetch ∨ s.cs.state = .write ∨ s.cs.state = .verify := by
      simpa [hclaim, htally] using Decidable.not_not.1 hleaves
    rw [State.pullDisk_tallies writes]
    exact (out.mapCopy _).trans (State.toTally_opensFrom _ _)

/-! ### The diskette leaves (R77, R90, R110) -/

theorem State.copyUnseated_pulls {s : State} (hb : s.cs.state.busy = true) (hp : s.cs.pulled = false) :
    s.copyUnseated = s.pullDisk := if_pos (by simp [hb, hp])

theorem State.copyUnseated_waits {s : State} (h : s.cs.state.busy = false ∨ s.cs.pulled = true) :
    s.copyUnseated = s.settleByDiskin := by
  refine if_neg ?_
  rcases h with h | h <;> simp [h]

/-- Without a disk in use the cycle goes to EMPTY with the diskette. -/
theorem State.settleByDiskin_leaves {s : State} (hd : s.dp.diskin = false)
    (h : s.cs.state = .empty ∨ s.cs.state = .standby ∨ s.cs.state = .out) :
    s.settleByDiskin.cs.state = .empty ∧ s.settleByDiskin.pc = s.pc := by
  rcases h with h | h | h <;> simp [State.settleByDiskin, h, hd, State.cycleTo]

theorem State.settleByDiskin_standby {s : State} (hd : s.dp.diskin = false) (h : s.cs.state = .standby) :
    s.settleByDiskin = s.cycleTo .empty := by simp only [State.settleByDiskin, h, hd]

theorem State.copyUnseated_opensFrom (s : State) : s.opensFrom s.copyUnseated := by
  unfold State.copyUnseated
  split
  · exact s.pullDisk_opensFrom
  · exact State.opensFrom_of_queue (by simp)

/-- The state in which the copy cycle sees the diskette leave. -/
def State.doorOpened (s : State) : State := (s.diskinLine false).withdrawCopyOpen

theorem State.doorOpened_kept (s : State) : s.doorOpened.cs = s.cs ∧ s.doorOpened.pc = s.pc ∧ s.doorOpened.ss = s.ss
    ∧ s.doorOpened.jc = s.jc ∧ s.doorOpened.dp.diskin = false := by
  simp [State.doorOpened, State.diskinLine]

theorem State.doorOpened_onMedium (s : State) {k : FrameKey} (hk : k ≠ .jobOpen) :
    s.doorOpened.lc.onMedium k ↔ s.lc.onMedium k := State.withdrawCopyOpen_onMedium (s.diskinLine false) hk

theorem State.unseated_out {s : State} (hd : s.dp.diskin = false) : s.unseated = s := if_neg (by simp [hd])

section
variable {s : State} (hd : s.dp.diskin = true) (hb : s.boot = .ready)
include hd hb

theorem State.unseated_ready : s.unseated =
    if s.role = some .source then s.doorOpened.copyUnseated.masterRemoved else s.doorOpened.copyUnseated := by
  have lit : ¬ s.dark = true := by simp [State.dark_iff, hb]
  unfold State.unseated
  rw [if_pos hd]
  exact if_neg lit

theorem State.unseated_diskin (hr : s.role ≠ some .source) : s.unseated.dp.diskin = false := by
  obtain ⟨-, -, -, -, hdoor⟩ := s.doorOpened_kept
  rw [State.unseated_ready hd hb, if_neg hr]
  simpa using hdoor

end

/-! ### The master removed (R117) -/

theorem State.endRead_lines (s : State) : s.endRead.dp.motor = s.dp.motor ∧ s.endRead.dp.lock = s.dp.lock := by
  unfold State.endRead
  split
  · split <;> exact ⟨rfl, rfl⟩
  · exact ⟨rfl, rfl⟩

theorem State.sourceAbandon_lines (reason : AbandonReason) (s : State) :
    (s.sourceAbandon reason).dp.motor = s.dp.motor ∧ (s.sourceAbandon reason).dp.lock = s.dp.lock := by
  unfold State.sourceAbandon
  split
  · exact ⟨rfl, rfl⟩
  · dsimp only
    split <;> simpa using s.endRead_lines

theorem State.sourceAbandon_called (reason : AbandonReason) (s : State) :
    (s.sourceAbandon reason).ss.abandon.isSome = true := by
  unfold State.sourceAbandon
  split
  next h => simp [h]
  next => simp [State.mapSource]

theorem State.readFailed_lines (reason : AbandonReason) (s : State) :
    (s.readFailed reason).dp.motor = s.dp.motor ∧ (s.readFailed reason).dp.lock = s.dp.lock := by
  unfold State.readFailed
  split
  · dsimp only
    split
    · obtain ⟨motor, lock⟩ := s.endRead.sourceAbandon_lines reason
      exact ⟨motor.trans s.endRead_lines.1, lock.trans s.endRead_lines.2⟩
    · simpa using s.endRead_lines
  · exact ⟨rfl, rfl⟩

/-- The state once the drive of a master that has left is at rest. -/
def State.masterGone (s : State) : State :=
  (s.mapSource fun ss => { ss with present := false }).stopMotor.mapDrive fun dp => { dp with lock := false }

theorem State.masterGone_lines (s : State) :
    s.masterGone.dp.motor = false ∧ s.masterGone.dp.lock = false ∧ s.masterGone.ss.present = false :=
  ⟨rfl, rfl, rfl⟩

section
variable {s : State} {q : Recipe} (hq : s.recipe = some q)
include hq

theorem State.masterRemoved_firstPass (h : s.ss.firstTrack < q.tracks) :
    s.masterRemoved = s.masterGone.endRead.sourceAbandon .masterRemoved := by
  simp only [State.masterRemoved, hq, h, if_true]
  rfl

theorem State.masterRemoved_after (h : ¬ s.ss.firstTrack < q.tracks) :
    s.masterRemoved = s.masterGone.readFailed .masterRemoved := by
  simp only [State.masterRemoved, hq, h, if_false]
  rfl

theorem State.masterRemoved_lines : s.masterRemoved.ss.present = false ∧ s.masterRemoved.dp.motor = false
    ∧ s.masterRemoved.dp.lock = false ∧ (s.ss.firstTrack < q.tracks → s.masterRemoved.ss.abandon.isSome = true) := by
  obtain ⟨motor, lock, present⟩ := s.masterGone_lines
  by_cases h : s.ss.firstTrack < q.tracks
  · rw [State.masterRemoved_firstPass hq h]
    obtain ⟨hm, hl⟩ := s.masterGone.endRead.sourceAbandon_lines .masterRemoved
    obtain ⟨hm', hl'⟩ := s.masterGone.endRead_lines
    exact ⟨by simpa using present, hm.trans (hm'.trans motor), hl.trans (hl'.trans lock),
      fun _ => State.sourceAbandon_called _ _⟩
  · rw [State.masterRemoved_after hq h]
    obtain ⟨hm, hl⟩ := s.masterGone.readFailed_lines .masterRemoved
    exact ⟨by simpa using present, hm.trans motor, hl.trans lock, fun hlt => absurd hlt h⟩

end

/-! ### What the diskette takes from the copy cycle (R91) -/

section
variable {s : State} (hp : s.cs.pulled = false)
include hp

theorem State.doorOpened_pulls (hb : s.cs.state.busy = true) : s.doorOpened.copyUnseated = s.doorOpened.pullDisk := by
  obtain ⟨hcs, -⟩ := s.doorOpened_kept
  exact State.copyUnseated_pulls (by rwa [hcs]) (by rwa [hcs])

/-- A disk with no CLAIM on the medium leaves the cycle at once. -/
theorem State.doorOpened_leaves (hs : s.cs.state = .spinup ∨ s.cs.state = .home
      ∨ s.cs.state = .claim ∧ ¬ s.lc.onMedium .claim) :
    let x := s.doorOpened.copyUnseated
    x.cs.state = .empty ∧ x.dp.motor = false ∧ x.dp.lock = false
    ∧ (x.pc.history.getLast?.map fun h => (h.outcome, h.first)) =
      some (.pulled, some (s.cs.disk.first.getD .pulled)) := by
  obtain ⟨hcs, -⟩ := s.doorOpened_kept
  rw [← hcs] at hs ⊢
  rcases hs with h | h | ⟨h, hm⟩
  · rw [State.doorOpened_pulls hp (by simp [← hcs, h, CycleState.busy]), State.pullDisk_leaves (by simp [h])]
    exact State.pulledOut_leaves rfl rfl
  · rw [State.doorOpened_pulls hp (by simp [← hcs, h, CycleState.busy]), State.pullDisk_leaves (by simp [h])]
    exact State.pulledOut_leaves rfl rfl
  · rw [State.doorOpened_pulls hp (by simp [← hcs, h, CycleState.busy]),
      State.pullDisk_unclaimed h (mt (s.doorOpened_onMedium (by simp)).1 hm)]
    exact State.pulledOut_leaves (by simp) (by simp)

/-- A disk whose CLAIM is on the medium waits in TALLY for what becomes of it. -/
theorem State.doorOpened_claiming (hs : s.cs.state = .claim) (hm : s.lc.onMedium .claim) :
    let x := s.doorOpened.copyUnseated
    x.cs.state = .tally ∧ x.cs.pulled = true ∧ x.cs.outcome = none ∧ x.dp.motor = false := by
  obtain ⟨hcs, -⟩ := s.doorOpened_kept
  rw [State.doorOpened_pulls hp (by simp [hs, CycleState.busy]),
    State.pullDisk_claiming (by rwa [hcs]) ((s.doorOpened_onMedium (by simp)).2 hm)]
  exact ⟨rfl, rfl, rfl, s.doorOpened.pulledOut_lines.1⟩

/-- A disk with a serial goes to TALLY as PULLED. -/
theorem State.doorOpened_tallies (hs : s.cs.state = .fetch ∨ s.cs.state = .write ∨ s.cs.state = .verify) :
    let x := s.doorOpened.copyUnseated
    x.cs.state = .tally ∧ x.cs.pulled = true ∧ x.cs.outcome = some .pulled ∧ x.dp.motor = false
    ∧ x.dp.wgate = false ∧ x.tb = none ∧ x.cs.disk.first = some (s.cs.disk.first.getD .pulled) := by
  obtain ⟨hcs, -⟩ := s.doorOpened_kept
  obtain ⟨motor, -, wgate, stream⟩ := s.doorOpened.pulledOut_lines
  rw [State.doorOpened_pulls hp (by rcases hs with h | h | h <;> simp [h, CycleState.busy]),
    State.pullDisk_tallies (by rwa [hcs])]
  dsimp only
  rw [State.toTally_cs]
  refine ⟨rfl, rfl, rfl, by simpa using motor, by simpa using wgate, by simpa using stream, ?_⟩
  simp [State.pulledOut_cs, Disk.record_first, hcs]

/-- In TALLY the outcome becomes PULLED, unless the TALLY is on the medium or has lost its serial (log 29). -/
theorem State.doorOpened_tallied (hs : s.cs.state = .tally) :
    let x := s.doorOpened.copyUnseated
    x.cs.state = .tally ∧ x.cs.pulled = true
    ∧ (s.cs.disk.conflict = true ∨ s.lc.onMedium .tally → x.cs.outcome = s.cs.outcome)
    ∧ (s.cs.disk.conflict = false → ¬ s.lc.onMedium .tally → x.cs.outcome = some .pulled) := by
  obtain ⟨hcs, -⟩ := s.doorOpened_kept
  have tally := s.doorOpened_onMedium (k := .tally) (by simp)
  have state : s.doorOpened.cs.state = .tally := by rwa [hcs]
  rw [State.doorOpened_pulls hp (by simp [hs, CycleState.busy])]
  by_cases hc : s.cs.disk.conflict = true ∨ s.lc.onMedium .tally
  · rw [State.pullDisk_tallied state (by rwa [hcs, tally])]
    dsimp only
    rw [State.mapCopy_cs, State.pulledOut_cs, hcs]
    exact ⟨hs, rfl, fun _ => rfl, fun hconflict hm => absurd hc (by simp [hconflict, hm])⟩
  · obtain ⟨hconflict, hm⟩ := not_or.1 hc
    rw [State.pullDisk_tallyPulled state (by simpa [hcs] using hconflict) (mt tally.1 hm)]
    dsimp only
    rw [State.mapFrame_cs, State.mapCopy_cs, State.mapCopy_cs, State.pulledOut_cs, hcs]
    exact ⟨hs, rfl, fun h => absurd h hc, fun _ _ => rfl⟩

end

/-- With no disk in use the cycle goes to EMPTY and the history stays. -/
theorem State.doorOpened_idle {s : State} (hs : s.cs.state = .empty ∨ s.cs.state = .standby ∨ s.cs.state = .out) :
    s.doorOpened.copyUnseated.cs.state = .empty ∧ s.doorOpened.copyUnseated.pc.history = s.pc.history := by
  obtain ⟨hcs, hpc, -, -, hdoor⟩ := s.doorOpened_kept
  have idle : s.doorOpened.cs.state.busy = false := by rcases hs with h | h | h <;> simp [hcs, h, CycleState.busy]
  obtain ⟨hempty, hsame⟩ := State.settleByDiskin_leaves hdoor (by rwa [hcs])
  rw [State.copyUnseated_waits (.inl idle), hsame, hpc]
  exact ⟨hempty, rfl⟩

/-- A source's cycle in STANDBY goes to EMPTY and nothing else of the station changes. -/
theorem State.doorOpened_source {s : State} (hs : s.cs.state = .standby) :
    s.doorOpened.copyUnseated = s.doorOpened.cycleTo .empty := by
  obtain ⟨hcs, -, -, -, hdoor⟩ := s.doorOpened_kept
  rw [State.copyUnseated_waits (.inl (by simp [hcs, hs, CycleState.busy])),
    State.settleByDiskin_standby hdoor (by rwa [hcs])]

theorem exec_diskinInactive (s : State) : exec .diskinInactive s = .next (s.unseated.settle s) := rfl

theorem State.unseated_frame (s : State) : s.unseated.now = s.now ∧ s.unseated.fixed = s.fixed
    ∧ s.unseated.account = s.account ∧ s.unseated.store.mem = s.store.mem := by
  simp [State.fixed, State.account]

/-- Settles O45: each line's event by the state of the cycle, a disk that leaves through `State.pullDisk`, a master
through `State.masterRemoved`. -/
theorem disketteIsSeatedEjectedOrPulled : Obligations.DisketteIsSeatedEjectedOrPulled := by
  refine ⟨fun s => ⟨fun h => congrArg Host.Outcome.next (State.ejectEnd_idle h), fun e h => ?_, fun hd => ?_,
    fun hd => ?_⟩, fun s => ⟨fun hd => ?_, fun hd hb hr => ?_, fun r hd hb hr hrole hs => ?_⟩⟩
  · intro ended
    refine ⟨fun hs => congrArg Host.Outcome.next (State.ejectEnd_pulse h hs), fun hs hr => ?_, fun hs hr => ?_⟩
    · exact congrArg Host.Outcome.next (State.ejectEnd_used h hs hr)
    · exact congrArg Host.Outcome.next (State.ejectEnd_unused h hs hr)
  · exact congrArg Host.Outcome.next (if_pos hd)
  · intro seated
    exact ⟨fun hs hb hl => congrArg Host.Outcome.next (State.seated_empty hd hs hb hl),
      fun h => congrArg Host.Outcome.next (State.seated_line hd h)⟩
  · rw [exec_diskinInactive, State.unseated_out hd]
  · have hx : s.unseated = s.doorOpened.copyUnseated := (State.unseated_ready hd hb).trans (if_neg hr)
    obtain ⟨now, fixed, account, mem⟩ := s.unseated_frame
    refine ⟨s.unseated, rfl, now, fixed, account, mem, State.unseated_diskin hd hb hr, ?_⟩
    rw [hx]
    refine ⟨fun g hg hst terms hterms => ?_, State.doorOpened_idle, fun hs hp => State.doorOpened_leaves hp hs,
      fun hs hhas hwait hp => State.doorOpened_claiming hp hs ⟨hhas, hwait⟩,
      fun hs hp => State.doorOpened_tallies hp hs, fun hs hp => State.doorOpened_tallied hp hs⟩
    have key : g.key = .jobOpen := by rw [Frame.key, hterms]; rfl
    exact State.withdrawCopyOpen_started (s.doorOpened.copyUnseated_opensFrom g hg key) hterms hst
  · have role : s.role = some .source := by simp [State.role, hr, hrole]
    obtain ⟨-, -, hss, hjc, -⟩ := s.doorOpened_kept
    have recipe : (s.doorOpened.cycleTo .empty).recipe = some r.recipe := by simp [State.recipe, hjc, hr]
    have sequencer : (s.doorOpened.cycleTo .empty).ss = s.ss := hss
    have hx : s.unseated = (s.doorOpened.cycleTo .empty).masterRemoved := by
      rw [State.unseated_ready hd hb, if_pos role, State.doorOpened_source hs]
    obtain ⟨present, motor, lock, abandons⟩ := State.masterRemoved_lines recipe
    rw [← hx] at present motor lock abandons
    rw [sequencer] at abandons
    exact ⟨s.unseated, rfl, present, motor, lock, abandons, s.unseated_frame⟩

end Sys2Proof.Machine
end

section
/-! PROOFS. The verify fault of a track (R105). -/

namespace Sys2Proof.Machine

section
variable {v : VerifyRecord}

theorem VerifyRecord.any_outcome (o : SectorOutcome) :
    v.entries.any (fun e => decide (e.outcome = o)) = true ↔ ∃ e ∈ v.entries, e.outcome = o := by simp

theorem VerifyRecord.any_badCheck :
    v.entries.any (fun e => decide (e.outcome = .idCheck) || decide (e.outcome = .dataCheck)) = true
      ↔ ∃ e ∈ v.entries, e.outcome = .idCheck ∨ e.outcome = .dataCheck := by simp

/-- The order of R105, line by line. -/
theorem VerifyRecord.fault_missing (h : ∃ e ∈ v.entries, e.outcome = .missing) : v.fault = some .verifyMissing :=
  if_pos ((v.any_outcome _).2 h)

/-- Past its first line the order goes on with the checks. -/
theorem VerifyRecord.fault_found (h : ∀ e ∈ v.entries, e.outcome ≠ .missing) :
    v.fault = if v.entries.any (fun e => decide (e.outcome = .idCheck) || decide (e.outcome = .dataCheck)) then
        some .verifyCheck
      else if v.entries.any (fun e => decide (e.outcome = .stampMismatch)) then some .stampMismatch
      else if v.entries.any (fun e => decide (e.outcome = .mismatch)) then some .verifyMismatch
      else none :=
  if_neg fun hm => by
    obtain ⟨e, he, ho⟩ := (v.any_outcome _).1 hm
    exact h e he ho

theorem VerifyRecord.fault_check (hm : ∀ e ∈ v.entries, e.outcome ≠ .missing)
    (h : ∃ e ∈ v.entries, e.outcome = .idCheck ∨ e.outcome = .dataCheck) : v.fault = some .verifyCheck := by
  rw [v.fault_found hm, if_pos (v.any_badCheck.2 h)]

/-- Where every sector has been read with good checks, the contents decide. -/
theorem VerifyRecord.fault_read
    (h : ∀ e ∈ v.entries, e.outcome = .ok ∨ e.outcome = .stampMismatch ∨ e.outcome = .mismatch) :
    v.fault = if v.entries.any (fun e => decide (e.outcome = .stampMismatch)) then some .stampMismatch
      else if v.entries.any (fun e => decide (e.outcome = .mismatch)) then some .verifyMismatch
      else none := by
  have found : ∀ e ∈ v.entries, e.outcome ≠ .missing := fun e he ho => by simpa [ho] using h e he
  rw [v.fault_found found, if_neg]
  intro hc
  obtain ⟨e, he, ho⟩ := v.any_badCheck.1 hc
  rcases ho with ho | ho <;> simpa [ho] using h e he

theorem VerifyRecord.fault_stamp
    (h : ∀ e ∈ v.entries, e.outcome = .ok ∨ e.outcome = .stampMismatch ∨ e.outcome = .mismatch)
    (hs : ∃ e ∈ v.entries, e.outcome = .stampMismatch) : v.fault = some .stampMismatch := by
  rw [v.fault_read h, if_pos ((v.any_outcome _).2 hs)]

theorem VerifyRecord.fault_unstamped
    (h : ∀ e ∈ v.entries, e.outcome = .ok ∨ e.outcome = .stampMismatch ∨ e.outcome = .mismatch)
    (hs : ∀ e ∈ v.entries, e.outcome ≠ .stampMismatch) :
    v.fault = if v.entries.any (fun e => decide (e.outcome = .mismatch)) then some .verifyMismatch else none := by
  rw [v.fault_read h, if_neg]
  intro ha
  obtain ⟨e, he, ho⟩ := (v.any_outcome _).1 ha
  exact hs e he ho

theorem VerifyRecord.fault_mismatch
    (h : ∀ e ∈ v.entries, e.outcome = .ok ∨ e.outcome = .stampMismatch ∨ e.outcome = .mismatch)
    (hs : ∀ e ∈ v.entries, e.outcome ≠ .stampMismatch) (hm : ∃ e ∈ v.entries, e.outcome = .mismatch) :
    v.fault = some .verifyMismatch := by
  rw [v.fault_unstamped h hs, if_pos ((v.any_outcome _).2 hm)]

theorem VerifyRecord.fault_ok (h : ∀ e ∈ v.entries, e.outcome = .ok) : v.fault = none := by
  rw [v.fault_unstamped (fun e he => .inl (h e he)) (fun e he => by simp [h e he]), if_neg]
  intro ha
  obtain ⟨e, he, ho⟩ := (v.any_outcome _).1 ha
  exact absurd ((h e he).symm.trans ho) (by decide)

/-- An entry that has failed meets some line of the order. -/
theorem VerifyRecord.ok_of_fault_none (h : v.fault = none) : ∀ e ∈ v.entries, e.outcome = .ok := by
  have found : ∀ e ∈ v.entries, e.outcome ≠ .missing := fun e he ho =>
    absurd (h.symm.trans (v.fault_missing ⟨e, he, ho⟩)) (by simp)
  have checked : ∀ e ∈ v.entries, ¬ (e.outcome = .idCheck ∨ e.outcome = .dataCheck) := fun e he ho =>
    absurd (h.symm.trans (v.fault_check found ⟨e, he, ho⟩)) (by simp)
  have read : ∀ e ∈ v.entries, e.outcome = .ok ∨ e.outcome = .stampMismatch ∨ e.outcome = .mismatch := by
    intro e he
    cases ho : e.outcome with
    | ok | stampMismatch | mismatch => simp
    | missing => exact absurd ho (found e he)
    | idCheck => exact absurd (.inl ho) (checked e he)
    | dataCheck => exact absurd (.inr ho) (checked e he)
  have stamped : ∀ e ∈ v.entries, e.outcome ≠ .stampMismatch := fun e he ho =>
    absurd (h.symm.trans (v.fault_stamp read ⟨e, he, ho⟩)) (by simp)
  intro e he
  refine (read e he).resolve_right fun hc => hc.elim (stamped e he) fun ho => ?_
  exact absurd (h.symm.trans (v.fault_mismatch read stamped ⟨e, he, ho⟩)) (by simp)

end

/-- Settles O49: one lemma for each line of the order, and no line left for a track without a failing entry. -/
theorem verifyFaultFollowsTheOrder : Obligations.VerifyFaultFollowsTheOrder := fun _ =>
  ⟨⟨VerifyRecord.fault_ok, VerifyRecord.ok_of_fault_none⟩, VerifyRecord.fault_missing, VerifyRecord.fault_check,
    fun h => ⟨VerifyRecord.fault_stamp h, VerifyRecord.fault_mismatch h⟩⟩

end Sys2Proof.Machine
end

section
/-! PROOFS. REVOLUTION_COUNTER_EXPIRY and NO_INDEX: the end of a verify, and of a master read's search (R84, R85,
R104 to R106, R112, R146, R148). -/

namespace Sys2Proof.Machine

/-! ### The verify's end (R104 to R106) -/

/-- The state once the Verify Unit has given its answer: the record stays, the counter is idle. -/
def State.verifyAnswered (v : VerifyRecord) (s : State) : State :=
  { s with vu := some { v with running := false, reading := none }, dp := s.dp.disarm }

/-- What follows the answer: the track verified, or its fault as one failed attempt. -/
def State.verifyJudged (fault : Option DiskFault) (s : State) : State :=
  match fault with
  | none => s.trackVerified
  | some f => s.failedAttempt [f]

theorem State.verifyJudged_none {o : Option DiskFault} (s : State) (h : o = none) :
    s.verifyJudged o = s.trackVerified := by rw [h]; rfl

theorem State.verifyJudged_some {o : Option DiskFault} {f : DiskFault} (s : State) (h : o = some f) :
    s.verifyJudged o = s.failedAttempt [f] := by rw [h]; rfl

section
variable {s : State} {r : JobRecord} {v : VerifyRecord} (u : Upset) (hr : s.jc.record = some r) (hv : s.vu = some v)
include hr hv

/-- A FULL COPY verify uses the slot, and goes on by the use. -/
theorem State.verifyEnd_full (hm : r.recipe.verify = .full) (hk : r.kind = .copy) {x : State} {fails : Bool}
    (hx : (s.verifyAnswered v).applyCheck r.recipe u = (x, fails)) :
    s.verifyEnd u = if fails then x.releaseDrivePin.toFetch else x.verifyJudged v.fault := by
  rw [State.verifyAnswered] at hx
  simp only [State.verifyEnd, hv, hr, hm, hk, and_self, if_true, hx]
  rfl

/-- In another mode, in a FORMAT job, or with no slot pinned, the verify's end uses none. -/
theorem State.verifyEnd_unused (h : r.recipe.verify ≠ .full ∨ r.kind = .format ∨ s.store.drivePinned = none) :
    s.verifyEnd u = (s.verifyAnswered v).verifyJudged v.fault := by
  by_cases hc : r.recipe.verify = .full ∧ r.kind = .copy
  · obtain ⟨hm, hk⟩ := hc
    have unpinned : s.store.drivePinned = none := by simpa [hm, hk] using h
    rw [State.verifyEnd_full u hr hv hm hk (State.applyCheck_unpinned r.recipe u unpinned)]
    rfl
  · simp only [State.verifyEnd, hv, hr, if_neg hc, Bool.false_eq_true, if_false]
    rfl

section
variable (hm : r.recipe.verify = .full) (hk : r.kind = .copy) {i : Nat} (hp : s.store.drivePinned = some i)
include hm hk hp

theorem State.verifyEnd_sound (hc : crc32 ((s.upsetAt i u).store.trackData r.recipe i) = (s.store.slot i).check)
    (hd : (s.store.slot i).damaged = false) :
    s.verifyEnd u = ((s.verifyAnswered v).upsetAt i u).verifyJudged v.fault := by
  have pinned : (s.verifyAnswered v).store.drivePinned = some i := hp
  rw [State.verifyEnd_full u hr hv hm hk (State.applyCheck_agrees r.recipe u pinned hc)]
  exact if_neg (Bool.eq_false_iff.1 hd)

theorem State.verifyEnd_damaged (hc : crc32 ((s.upsetAt i u).store.trackData r.recipe i) = (s.store.slot i).check)
    (hd : (s.store.slot i).damaged = true) :
    s.verifyEnd u = ((s.verifyAnswered v).upsetAt i u).releaseDrivePin.toFetch := by
  have pinned : (s.verifyAnswered v).store.drivePinned = some i := hp
  rw [State.verifyEnd_full u hr hv hm hk (State.applyCheck_agrees r.recipe u pinned hc)]
  exact if_pos hd

theorem State.verifyEnd_unsound (hc : crc32 ((s.upsetAt i u).store.trackData r.recipe i) ≠ (s.store.slot i).check) :
    s.verifyEnd u = (((s.verifyAnswered v).upsetAt i u).markDamaged i).releaseDrivePin.toFetch := by
  have pinned : (s.verifyAnswered v).store.drivePinned = some i := hp
  exact State.verifyEnd_full u hr hv hm hk (State.applyCheck_differs r.recipe u pinned hc)

end

end

/-! ### The search of a master read fails (R112) -/

theorem State.sourceNoIndex_searching {s : State} {m : MasterRead} (hm : s.ss.read = some m)
    (hp : m.phase = .searching) : s.sourceNoIndex = s.readFailed .masterUnreadable := by
  simp only [State.sourceNoIndex, hm, hp, if_true]

theorem State.sourceNoIndex_elsewhere {s : State} {m : MasterRead} (hm : s.ss.read = some m)
    (hp : m.phase ≠ .searching) : s.sourceNoIndex = s := by
  simp only [State.sourceNoIndex, hm, hp, if_false]

theorem State.sourceNoIndex_idle {s : State} (hm : s.ss.read = none) : s.sourceNoIndex = s := by
  simp only [State.sourceNoIndex, hm]

/-! ### The revolution counter's expiry (R148) -/

theorem State.role_eq {s : State} {r : JobRecord} (hr : s.jc.record = some r) : s.role = some r.role := by
  simp [State.role, hr]

theorem exec_revolutionCounterExpiry (u : Upset) (s : State) :
    exec (.revolutionCounterExpiry u) s = .next ((s.counterExpires u).settle s) := rfl

theorem State.counterExpires_running {s : State} (u : Upset) (h : s.dp.counter ≠ some 0) : s.counterExpires u = s :=
  if_neg h

/-- The state with the revolution counter idle. -/
def State.counterIdle (s : State) : State := s.mapDrive Drive.disarm

section
variable {s : State} {r : JobRecord} (u : Upset) (hc : s.dp.counter = some 0) (hr : s.jc.record = some r)
include hc hr

theorem State.counterExpires_verify {v : VerifyRecord} (hrole : r.role = .member) (hs : s.cs.state = .verify)
    (hv : s.vu = some v) (hrun : v.running = true) : s.counterExpires u = s.counterIdle.verifyEnd u := by
  simp [State.counterExpires, hc, State.role_eq hr, hrole, hs, hv, hrun, State.counterIdle]

theorem State.counterExpires_member (hrole : r.role = .member) (h : s.cs.state ≠ .verify ∨ s.vu = none) :
    s.counterExpires u = s.counterIdle := by
  simp only [State.counterExpires, hc, if_true, State.role_eq hr, hrole]
  refine if_neg ?_
  rintro ⟨hs, hv⟩
  rcases h with h | h
  · exact h hs
  · simp [h] at hv

/-- A master read sees the expiry as it sees INDEX absent. -/
theorem State.counterExpires_source (hrole : r.role = .source) :
    s.counterExpires u = s.counterIdle.sourceNoIndex := by
  simp only [State.counterExpires, hc, if_true, State.role_eq hr, hrole]
  rfl

theorem State.counterExpires_observer (hrole : r.role = .observer) : s.counterExpires u = s.counterIdle := by
  simp only [State.counterExpires, hc, if_true, State.role_eq hr, hrole]
  rfl

end

/-! ### INDEX absent (R146) -/

theorem exec_noIndex (s : State) : exec .noIndex s = .next (s.indexAbsent.settle s) := rfl

/-- The state after two nominal periods without INDEX, before the port's user is told. -/
def State.indexGone (q : Recipe) (w : Nat) (s : State) : State :=
  (s.tickTo (w + 2 * q.nominal.period)).mapDrive Drive.noIndex

section
variable {s : State} {r : JobRecord} {w : Nat} (hr : s.jc.record = some r) (hw : s.dp.spindle.watch = some w)
include hr hw

theorem State.indexAbsent_stopped (hm : s.dp.motor = false) : s.indexAbsent = s := by
  simp [State.indexAbsent, State.recipe, hr, hw, hm]

theorem State.indexAbsent_turning (hm : s.dp.motor = true) :
    s.indexAbsent = (s.indexGone r.recipe w).tellNoIndex := by
  simp [State.indexAbsent, State.recipe, hr, hw, hm, State.indexGone]

end

section
variable {s : State} {r : JobRecord} (hr : s.jc.record = some r)
include hr

theorem State.tellNoIndex_member (h : r.role = .member) : s.tellNoIndex = s.copyNoIndex := by
  simp only [State.tellNoIndex, State.role_eq hr, h]

theorem State.tellNoIndex_source (h : r.role = .source) : s.tellNoIndex = s.sourceNoIndex := by
  simp only [State.tellNoIndex, State.role_eq hr, h]

theorem State.tellNoIndex_observer (h : r.role = .observer) : s.tellNoIndex = s := by
  simp only [State.tellNoIndex, State.role_eq hr, h]

end

section
variable {s : State}

theorem State.copyNoIndex_write (hs : s.cs.state = .write)
    (hp : s.cs.phase = some .writing ∨ s.cs.phase = some .completing) :
    s.copyNoIndex = State.failedAttempt [.noIndex] { s with tb := none, cs := { s.cs with phase := none } } :=
  if_pos ⟨hs, hp⟩

theorem State.copyNoIndex_verify (hs : s.cs.state = .verify) :
    s.copyNoIndex = s.endVerify.failedAttempt [.noIndex] := by
  simp [State.copyNoIndex, hs]

theorem State.copyNoIndex_elsewhere (hw : s.cs.state ≠ .write) (hv : s.cs.state ≠ .verify) : s.copyNoIndex = s := by
  simp [State.copyNoIndex, hw, hv]

end

/-- Settles O43: what the port's user does at the expiry and at NO INDEX, by its role; a verify ends by the use of its
slot. -/
theorem counterExpiryAndNoIndexEndTheRead : Obligations.CounterExpiryAndNoIndexEndTheRead := by
  refine ⟨fun u s r hr => ⟨fun hc => ?_, fun hc => ?_⟩, fun s r w hr hw => ?_⟩
  · rw [exec_revolutionCounterExpiry, State.counterExpires_running u hc]
  · intro idle
    have record : idle.jc.record = some r := hr
    refine ⟨fun v hrole hs hv hrun => ?_, fun hrole h => ?_, fun m hrole hm => ?_, fun h => ?_⟩
    · intro ended
      have expires : s.counterExpires u = idle.verifyEnd u := State.counterExpires_verify u hc hr hrole hs hv hrun
      have answered : idle.verifyAnswered v = ended := rfl
      rw [exec_revolutionCounterExpiry, expires]
      refine ⟨fun h => ?_, fun i hm hk hp => ?_⟩
      · rw [State.verifyEnd_unused u record hv h, answered]
        exact ⟨fun hf => by rw [State.verifyJudged_none _ hf], fun f hf => by rw [State.verifyJudged_some _ hf]⟩
      · intro read sound
        have upset : ended.upsetAt i u = read := rfl
        refine ⟨fun hok hd => ?_, fun hok hd => ?_, fun hbad => ?_⟩
        · rw [State.verifyEnd_sound u record hv hm hk hp hok hd, answered, upset]
          exact ⟨fun hf => by rw [State.verifyJudged_none _ hf], fun f hf => by rw [State.verifyJudged_some _ hf]⟩
        · rw [State.verifyEnd_damaged u record hv hm hk hp hok hd, answered, upset]
        · rw [State.verifyEnd_unsound u record hv hm hk hp hbad, answered, upset]
    · rw [exec_revolutionCounterExpiry, State.counterExpires_member u hc hr hrole h]
      rfl
    · have reads : idle.ss.read = some m := hm
      have expires : s.counterExpires u = idle.sourceNoIndex := State.counterExpires_source u hc hr hrole
      rw [exec_revolutionCounterExpiry, expires]
      exact ⟨fun hp => by rw [State.sourceNoIndex_searching reads hp],
        fun hp => by rw [State.sourceNoIndex_elsewhere reads hp]⟩
    · rw [exec_revolutionCounterExpiry]
      rcases h with hrole | ⟨hrole, hm⟩
      · rw [State.counterExpires_observer u hc hr hrole]
        rfl
      · have idles : idle.sourceNoIndex = idle := State.sourceNoIndex_idle hm
        rw [State.counterExpires_source u hc hr hrole]
        exact congrArg (fun x : State => Host.Outcome.next (x.settle s)) idles
  · intro gone
    have record : gone.jc.record = some r := hr
    rw [exec_noIndex]
    refine ⟨fun hmotor => ?_, fun hmotor => ?_⟩
    · rw [State.indexAbsent_stopped hr hw hmotor]
    have absent : s.indexAbsent = gone.tellNoIndex := State.indexAbsent_turning hr hw hmotor
    rw [absent]
    refine ⟨fun hrole hs hp => ?_, fun hrole hs => ?_, fun m hrole hm => ?_, fun h => ?_⟩
    · rw [State.tellNoIndex_member record hrole, State.copyNoIndex_write (s := gone) hs hp]
    · rw [State.tellNoIndex_member record hrole, State.copyNoIndex_verify (s := gone) hs]
    · rw [State.tellNoIndex_source record hrole]
      exact ⟨fun hp => by rw [State.sourceNoIndex_searching (s := gone) hm hp],
        fun hp => by rw [State.sourceNoIndex_elsewhere (s := gone) hm hp]⟩
    · rcases h with hrole | ⟨hrole, hw, hv⟩ | ⟨hrole, hm⟩
      · rw [State.tellNoIndex_observer record hrole]
      · rw [State.tellNoIndex_member record hrole, State.copyNoIndex_elsewhere (s := gone) hw hv]
      · rw [State.tellNoIndex_source record hrole, State.sourceNoIndex_idle (s := gone) hm]

end Sys2Proof.Machine
end

section
/-! PROOFS. ID_RECORD and the search for a data marker, at a verify and in a master read (R99, R100, R112). -/

namespace Sys2Proof.Machine

/-! ### Which reader runs -/

section
variable {s : State}

theorem State.verifying_some {v : VerifyRecord} (hs : s.cs.state = .verify) (hv : s.vu = some v)
    (hrun : v.running = true) : s.verifying = some v := by
  simp [State.verifying, hs, hv, hrun]

theorem State.verifying_none (hs : s.cs.state ≠ .verify) : s.verifying = none := if_neg hs

theorem State.searching_some {m : MasterRead} (hm : s.ss.read = some m) (hp : m.phase = .searching) :
    s.searching = some m := by
  simp [State.searching, hm, hp]

theorem State.searching_none (hm : s.ss.read = none) : s.searching = none := by
  simp [State.searching, hm]

/-- The state with the master read in progress as given. -/
def State.withRead (m : MasterRead) (s : State) : State := { s with ss := { s.ss with read := some m } }

theorem State.mapRead_eq {m : MasterRead} (g : MasterRead → MasterRead) (hm : s.ss.read = some m) :
    s.mapRead g = s.withRead (g m) := by
  simp only [State.mapRead, State.mapSource, hm, Option.map_some, State.withRead]

theorem State.setVu_same {v : VerifyRecord} (hv : s.vu = some v) : { s with vu := some v } = s := by
  rw [← hv]

end

/-! ### An ID record at a verify (R99) -/

/-- An ID record is of the track and of a sector not yet OK. -/
def VerifyRecord.Seeks (q : Recipe) (v : VerifyRecord) (c h z y : Byte) : Prop :=
  c.toNat = v.cylinder ∧ h.toNat = v.head ∧ y.toNat = q.sizeCode ∧ ∃ e ∈ v.entries, e.id = z.toNat ∧ e.outcome ≠ .ok

theorem exec_idRecord (c h z y : Byte) (check : BitVec 16) (s : State) :
    exec (.idRecord c h z y check) s = .next ((s.idRead c h z y check).settle s) := rfl

section
variable {q : Recipe} {v : VerifyRecord} {c h z y : Byte} {check : BitVec 16} (now : Nat)

theorem VerifyRecord.matching_iff (q : Recipe) (v : VerifyRecord) (c h z y : Byte) :
    (decide (c.toNat = v.cylinder) && decide (h.toNat = v.head) && decide (y.toNat = q.sizeCode)
      && v.entries.any fun e => decide (e.id = z.toNat) && decide (e.outcome ≠ .ok)) = true
      ↔ v.Seeks q c h z y := by
  simp [VerifyRecord.Seeks, and_assoc]

theorem VerifyRecord.idRead_starts (ho : v.Seeks q c h z y) (hg : q.idCheck [c, h, z, y] = check) :
    v.idRead q now c h z y check = { v with reading := some z.toNat, reach := q.reachEnd now } := by
  simp only [VerifyRecord.idRead, if_pos ((v.matching_iff q c h z y).2 ho), if_pos hg]

theorem VerifyRecord.idRead_bad (ho : v.Seeks q c h z y) (hg : q.idCheck [c, h, z, y] ≠ check) :
    v.idRead q now c h z y check = v.observe z.toNat .idCheck := by
  simp only [VerifyRecord.idRead, if_pos ((v.matching_iff q c h z y).2 ho), if_neg hg]

theorem VerifyRecord.idRead_passes (ho : ¬ v.Seeks q c h z y) : v.idRead q now c h z y check = v := by
  simp only [VerifyRecord.idRead, if_neg (mt (v.matching_iff q c h z y).1 ho)]

end

section
variable {s : State} {r : JobRecord} (hr : s.jc.record = some r) (c h z y : Byte) (check : BitVec 16)
include hr

theorem State.idRead_verify {v : VerifyRecord} (hv : s.verifying = some v) (hn : v.reading = none) :
    s.idRead c h z y check = { s with vu := some (v.idRead r.recipe s.now c h z y check) } := by
  simp only [State.idRead, hr, hv, VerifyRecord.markerMissed, hn]

/-! ### An ID record in a master read (R112) -/

/-- It ends the search for a data marker before it is judged (log 22). -/
theorem State.idRead_master {m : MasterRead} (hv : s.verifying = none) (hm : s.ss.read = some m)
    (hp : m.phase = .searching) :
    s.idRead c h z y check = (s.withRead { m with reading := none }).masterId r.recipe m c h y z.toNat
      (decide (r.recipe.idCheck [c, h, z, y] = check)) := by
  simp only [State.idRead, hr, hv, State.searching_some hm hp, State.mapRead_eq _ hm]

end

section
variable {q : Recipe} {m : MasterRead} {c h y : Byte} {z : Nat}

/-- An ID record is of a sector of the track that is read. -/
def MasterRead.Fits (q : Recipe) (m : MasterRead) (c h y : Byte) (z : Nat) : Prop :=
  c.toNat = m.track / q.heads ∧ h.toNat = m.track % q.heads ∧ y.toNat = q.sizeCode ∧ z ∈ q.ids

theorem State.masterId_bad (s : State) : s.masterId q m c h y z false = s := rfl

theorem State.masterId_misfit (s : State) (hf : ¬ m.Fits q c h y z) :
    s.masterId q m c h y z true = s.readFailed .masterMisfit := if_neg hf

theorem State.masterId_settled (s : State) (hf : m.Fits q c h y z) (hu : ¬ z ∈ m.unsettled) :
    s.masterId q m c h y z true = s := (if_pos hf).trans (if_neg hu)

theorem State.masterId_starts {s : State} {n : MasterRead} (hn : s.ss.read = some n) (hf : m.Fits q c h y z)
    (hu : z ∈ m.unsettled) :
    s.masterId q m c h y z true = s.withRead { n with reading := some z, reach := q.reachEnd s.now } :=
  ((if_pos hf).trans (if_pos hu)).trans (State.mapRead_eq _ hn)

end

/-! ### A search for a data marker that ends without one (R100, R112) -/

section
variable {s : State}

theorem State.markerMissed_verify {v : VerifyRecord} (hv : s.verifying = some v) :
    s.markerMissed = { s with vu := some v.markerMissed } := by
  simp only [State.markerMissed, hv]

theorem State.markerMissed_master {m : MasterRead} (hv : s.verifying = none) (hm : s.ss.read = some m)
    (hp : m.phase = .searching) : s.markerMissed = s.withRead { m with reading := none } := by
  simp only [State.markerMissed, hv, State.searching_some hm hp, State.mapRead_eq _ hm]

theorem State.markerMissed_idle (hv : s.verifying = none) (hm : s.ss.read = none) : s.markerMissed = s := by
  simp only [State.markerMissed, hv, State.searching_none hm]

theorem VerifyRecord.markerMissed_some {v : VerifyRecord} {z : Nat} (hz : v.reading = some z) :
    v.markerMissed = { v.observe z .missing with reading := none } := by
  simp only [VerifyRecord.markerMissed, hz]

theorem VerifyRecord.markerMissed_none {v : VerifyRecord} (hn : v.reading = none) : v.markerMissed = v := by
  simp only [VerifyRecord.markerMissed, hn]

theorem State.reach_verify {v : VerifyRecord} (hv : s.verifying = some v) :
    s.reach = v.reading.map fun _ => v.reach := by
  simp only [State.reach, hv]

theorem State.reach_master {m : MasterRead} (hv : s.verifying = none) (hm : s.ss.read = some m)
    (hp : m.phase = .searching) : s.reach = m.reading.map fun _ => m.reach := by
  simp only [State.reach, hv, State.searching_some hm hp]

theorem State.reach_idle (hv : s.verifying = none) (hm : s.ss.read = none) : s.reach = none := by
  simp only [State.reach, hv, State.searching_none hm]

theorem exec_markerOfAnotherValue (s : State) : exec .markerOfAnotherValue s = .next s.markerMissed := rfl

/-- With a search under way the clock comes to the end of its reach (logs 2, 45). -/
theorem exec_dataMarkerReachExpiry_some {e : Nat} (h : s.reach = some e) :
    exec .dataMarkerReachExpiry s = .next (s.tickTo e).markerMissed := by
  show execDataMarkerReachExpiry s = _
  rw [execDataMarkerReachExpiry, h]

theorem exec_dataMarkerReachExpiry_none (h : s.reach = none) : exec .dataMarkerReachExpiry s = .next s := by
  show execDataMarkerReachExpiry s = _
  rw [execDataMarkerReachExpiry, h]

end

/-- The clock where a command ends a search whose reach ends at a time. -/
def State.searchEnd (c : Instr) (reach : Nat) (s : State) : State :=
  { s with now := if c = .dataMarkerReachExpiry then max s.now reach else s.now }

section
variable {s : State} {c : Instr} (hc : c = .dataMarkerReachExpiry ∨ c = .markerOfAnotherValue)
include hc

/-- A search under way ends as at a missed marker, at the clock of the command. -/
theorem exec_searchEnds {e : Nat} (h : s.reach = some e) :
    exec c s = .next (s.searchEnd c e).markerMissed := by
  rcases hc with rfl | rfl
  · exact exec_dataMarkerReachExpiry_some h
  · exact exec_markerOfAnotherValue s

theorem exec_searchIdle (h : s.reach = none) (hm : s.markerMissed = s) : exec c s = .next s := by
  rcases hc with rfl | rfl
  · exact exec_dataMarkerReachExpiry_none h
  · rw [exec_markerOfAnotherValue, hm]

end

/-- Settles O47: an ID record by the reader that runs, and a search for a data marker that ends without one. -/
theorem recordsAndMarkersAreSoughtInAVerify : Obligations.RecordsAndMarkersAreSoughtInAVerify := by
  refine ⟨fun c h z y check s r v hr hs hv hrun hn => ?_, fun c h z y check s r m hr hs hm hp => ?_,
    fun s c hc => ?_⟩
  · intro own good
    rw [exec_idRecord, State.idRead_verify hr c h z y check (State.verifying_some hs hv hrun) hn]
    refine ⟨fun ho hg => ?_, fun ho hg => ?_, fun ho => ?_⟩
    · rw [VerifyRecord.idRead_starts _ ho hg]
      rfl
    · rw [VerifyRecord.idRead_bad _ ho hg]
      rfl
    · rw [VerifyRecord.idRead_passes _ ho, State.setVu_same hv]
  · intro fits good passed
    have judged : s.idRead c h z y check = passed.masterId r.recipe m c h y z.toNat (decide good) :=
      State.idRead_master hr c h z y check (State.verifying_none hs) hm hp
    rw [exec_idRecord, judged]
    refine ⟨fun hg hf hu => ?_, fun hg hf hu => ?_, fun hg hf => ?_, fun hg => ?_⟩
    · rw [decide_eq_true hg, State.masterId_starts (s := passed) rfl hf hu]
      rfl
    · rw [decide_eq_true hg, State.masterId_settled passed hf hu]
    · rw [decide_eq_true hg, State.masterId_misfit passed hf]
    · rw [decide_eq_false hg, State.masterId_bad]
  · intro clock
    refine ⟨fun v z hs hv hrun hz => ?_, fun m z hs hm hp hz => ?_, fun v hs hv hrun hn => ?_, fun hs hm => ?_⟩
    · have verifying := State.verifying_some hs hv hrun
      have reach : s.reach = some v.reach := by rw [State.reach_verify verifying, hz]; rfl
      rw [exec_searchEnds hc reach, State.markerMissed_verify (s := s.searchEnd c v.reach) verifying,
        VerifyRecord.markerMissed_some hz]
      rfl
    · have verifying := State.verifying_none hs
      have reach : s.reach = some m.reach := by rw [State.reach_master verifying hm hp, hz]; rfl
      rw [exec_searchEnds hc reach, State.markerMissed_master (s := s.searchEnd c m.reach) verifying hm hp]
      rfl
    · have verifying := State.verifying_some hs hv hrun
      have reach : s.reach = none := by rw [State.reach_verify verifying, hn]; rfl
      refine exec_searchIdle hc reach ?_
      rw [State.markerMissed_verify verifying, VerifyRecord.markerMissed_none hn, State.setVu_same hv]
    · have verifying := State.verifying_none hs
      exact exec_searchIdle hc (State.reach_idle verifying hm) (State.markerMissed_idle verifying hm)

end Sys2Proof.Machine
end

section
/-! PROOFS. DATA_RECORD: observed in a verify, stored in a master read (R100, R101, R103, R104, R112, R113). -/

namespace Sys2Proof.Machine

/-! ### The observation of a sector (R101) -/

theorem Memory.length_scan (m : List Host.Cell) (a n : Nat) : (Memory.scan m a n).length = n := by
  induction m, a, n using Memory.scan.induct with
  | case1 => simp [Memory.scan]
  | case2 a n ih => simp [Memory.scan, ih]
  | case3 x b rest n ih => simp [Memory.scan, ih]
  | case4 x b rest a n hx ih => simp [Memory.scan, hx, ih]

theorem Store.length_sectorData (st : Store) (q : Recipe) (i z : Nat) : (st.sectorData q i z).length = q.size :=
  Memory.length_scan _ _ _

theorem stampDiffers_iff (stamp : List (Nat × Byte)) (data : List Byte) :
    stampDiffers stamp data = true ↔ ∃ p ∈ stamp, data[p.1]? ≠ some p.2 := by
  simp [stampDiffers]

theorem dataDiffers_iff (stamp : List (Nat × Byte)) (data expected : List Byte) :
    dataDiffers stamp data expected = true
      ↔ ∃ k < expected.length, (∀ p ∈ stamp, p.1 ≠ k) ∧ data[k]? ≠ expected[k]? := by
  simp [dataDiffers]

/-- The byte that a sector is compared with outside its stamp part, in FULL mode: the one of the slot pinned, the fill
byte in a FORMAT job, and the byte itself where no slot is pinned. -/
def JobRecord.expectedByte (r : JobRecord) (st : Store) (z : Nat) (data : List Byte) (k : Nat)
    (pinned : Option Nat) : Option Byte :=
  match r.kind, pinned with
  | .format, _ => some r.recipe.fill
  | .copy, some i => (st.sectorData r.recipe i z)[k]?
  | .copy, none => data[k]?

/-- The data differ from what is expected: in FULL mode some byte outside the stamp part does. -/
theorem State.expectedData_differs (s : State) (r : JobRecord) (z : Nat) (stamp : List (Nat × Byte))
    (data : List Byte) :
    (s.expectedData r z).any (dataDiffers stamp data) = true ↔ r.recipe.verify = .full
      ∧ ∃ k < r.recipe.size, (∀ p ∈ stamp, p.1 ≠ k) ∧ data[k]? ≠ r.expectedByte s.store z data k s.store.drivePinned := by
  by_cases hm : r.recipe.verify = .full
  · cases hk : r.kind with
    | format =>
      simp only [State.expectedData, hm, if_true, hk, JobRecord.expectedByte, true_and, Option.any_some,
        dataDiffers_iff, List.length_replicate]
      exact exists_congr fun k => and_congr_right fun hk => by rw [List.getElem?_replicate, if_pos hk]
    | copy =>
      cases hp : s.store.drivePinned with
      | some i => simp only [State.expectedData, hm, if_true, hk, hp, JobRecord.expectedByte, true_and, Option.map_some,
          Option.any_some, dataDiffers_iff, Store.length_sectorData]
      | none => simp [State.expectedData, hm, hk, hp, JobRecord.expectedByte]
  · simp [State.expectedData, hm]

theorem observation_eq (q : Recipe) (stamp : List (Nat × Byte)) (expected : Option (List Byte)) (data : List Byte)
    (check : BitVec 16) :
    observation q stamp expected data check =
      if data.length ≠ q.size ∨ q.dataCheck data ≠ check then .dataCheck
      else if stampDiffers stamp data then .stampMismatch
      else if expected.any (dataDiffers stamp data) then .mismatch else .ok := by
  cases expected <;> rfl

/-- The observation is the first line that applies. -/
theorem observation_first {q : Recipe} {stamp : List (Nat × Byte)} {expected : Option (List Byte)} {data : List Byte}
    {check : BitVec 16} {o : SectorOutcome} {badCheck badStamp badData : Prop}
    (hc : badCheck ↔ data.length ≠ q.size ∨ q.dataCheck data ≠ check) (hs : stampDiffers stamp data = true ↔ badStamp)
    (hd : expected.any (dataDiffers stamp data) = true ↔ badData)
    (h : badCheck ∧ o = .dataCheck ∨ ¬badCheck ∧ badStamp ∧ o = .stampMismatch
      ∨ ¬badCheck ∧ ¬badStamp ∧ badData ∧ o = .mismatch ∨ ¬badCheck ∧ ¬badStamp ∧ ¬badData ∧ o = .ok) :
    observation q stamp expected data check = o := by
  rw [← hs, ← hd, hc] at h
  rw [observation_eq]
  rcases h with ⟨h1, rfl⟩ | ⟨h1, h2, rfl⟩ | ⟨h1, h2, h3, rfl⟩ | ⟨h1, h2, h3, rfl⟩
  · rw [if_pos h1]
  · rw [if_neg h1, if_pos h2]
  · rw [if_neg h1, if_neg h2, if_pos h3]
  · rw [if_neg h1, if_neg h2, if_neg h3]

/-! ### A data record at a verify (R103, R104) -/

theorem exec_dataRecord (data : List Byte) (check : BitVec 16) (u : Upset) (s : State) :
    exec (.dataRecord data check u) s = .next ((s.dataRead data check u).settle s) := rfl

/-- The state as a data record is compared: the pinned slot with the bytes that have changed of themselves (log 4). -/
def State.pinUpset (u : Upset) (s : State) : State :=
  match s.store.drivePinned with
  | some i => s.upsetAt i u
  | none => s

theorem State.pinUpset_pinned (u : Upset) (s : State) :
    (s.pinUpset u).store.drivePinned = s.store.drivePinned := by
  unfold State.pinUpset
  split <;> rfl

/-- The verify record after an observation, the search for IDs resumed. -/
def VerifyRecord.observed (z : Nat) (o : SectorOutcome) (v : VerifyRecord) : VerifyRecord :=
  { v.observe z o with reading := none }

section
variable {s : State} {r : JobRecord} {v : VerifyRecord} (data : List Byte) (check : BitVec 16) (u : Upset)

theorem VerifyRecord.all_ok (v : VerifyRecord) :
    v.entries.all (fun e => decide (e.outcome = .ok)) = true ↔ ∀ e ∈ v.entries, e.outcome = .ok := by simp

section
variable {z : Nat} {e : SectorEntry} {o : SectorOutcome} (hz : v.reading = some z)
  (he : v.entries.find? (fun e => decide (e.id = z)) = some e)
  (ho : observation r.recipe e.stamp ((s.pinUpset u).expectedData r z) data check = o)
include hz he ho

/-- The verify runs on while some entry is not OK. -/
theorem State.verifyData_runs (h : ∃ e ∈ (v.observed z o).entries, e.outcome ≠ .ok) :
    s.verifyData r v data check u = { s.pinUpset u with vu := some (v.observed z o) } := by
  subst ho
  simp only [State.verifyData, hz, he]
  refine if_neg fun ha => ?_
  obtain ⟨e, hmem, hopen⟩ := h
  exact hopen ((VerifyRecord.all_ok _).1 ha e hmem)

/-- The last entry to become OK ends it. -/
theorem State.verifyData_ends (h : ∀ e ∈ (v.observed z o).entries, e.outcome = .ok) :
    s.verifyData r v data check u = State.verifyEnd [] { s.pinUpset u with vu := some (v.observed z o) } := by
  subst ho
  simp only [State.verifyData, hz, he]
  exact if_pos ((VerifyRecord.all_ok _).2 h)

end

variable (hr : s.jc.record = some r)
include hr

theorem State.dataRead_verify (hv : s.verifying = some v)
    (hi : s.now ≤ v.reach + r.recipe.cellTime (r.recipe.size + 2)) :
    s.dataRead data check u = s.verifyData r v data check u := by
  simp only [State.dataRead, hr, hv]
  exact if_pos (decide_eq_true hi)

/-- A data record that ended too late is a missed marker (log 45). -/
theorem State.dataRead_lateVerify (hv : s.verifying = some v)
    (hi : ¬ s.now ≤ v.reach + r.recipe.cellTime (r.recipe.size + 2)) : s.dataRead data check u = s.markerMissed := by
  simp only [State.dataRead, hr, hv]
  exact if_neg (by simpa [Recipe.inReach] using hi)

/-! ### A data record in a master read (R112, R113) -/

section
variable {m : MasterRead} (hv : s.verifying = none) (hm : s.ss.read = some m) (hp : m.phase = .searching)
include hv hm hp

theorem State.dataRead_master (hi : s.now ≤ m.reach + r.recipe.cellTime (r.recipe.size + 2)) :
    s.dataRead data check u = s.masterData r.recipe m data check := by
  simp only [State.dataRead, hr, hv, State.searching_some hm hp]
  exact if_pos (decide_eq_true hi)

theorem State.dataRead_lateMaster (hi : ¬ s.now ≤ m.reach + r.recipe.cellTime (r.recipe.size + 2)) :
    s.dataRead data check u = s.withRead { m with reading := none } := by
  rw [← State.markerMissed_master hv hm hp]
  simp only [State.dataRead, hr, hv, State.searching_some hm hp]
  exact if_neg (by simpa [Recipe.inReach] using hi)

end

end

section
variable {s : State} {q : Recipe} {m : MasterRead} {z i : Nat} {data : List Byte} {check : BitVec 16}
  (hz : m.reading = some z) (hi : m.slot = some i)
include hz hi

theorem State.masterData_bad (hm : s.ss.read = some m) (h : ¬ (data.length = q.size ∧ q.dataCheck data = check)) :
    s.masterData q m data check = s.withRead { m with reading := none } := by
  simp only [State.masterData, hz, hi, if_neg h, State.mapRead_eq _ hm]

/-- The master read with a sector settled. -/
def MasterRead.settled (z : Nat) (m : MasterRead) : MasterRead :=
  { m with unsettled := m.unsettled.erase z, reading := none }

/-- A good record goes into the slot, and the last one ends the read good. -/
theorem State.masterData_good (h : data.length = q.size ∧ q.dataCheck data = check) :
    s.masterData q m data check =
      let stored : State := { s.withRead (m.settled z) with store := s.store.writeSector q i z data }
      if m.unsettled.erase z = [] then stored.readGood q (m.settled z) i else stored := by
  simp only [State.masterData, hz, hi, if_pos h, MasterRead.settled, State.withRead]

end

/-- Settles O48: the first line of the observation, the verify's end by the use of its slot, and the master's sector
stored at its offset. -/
theorem dataRecordIsObservedOrStored : Obligations.DataRecordIsObservedOrStored := by
  refine ⟨fun data check u s r v z o e hr hs hv hrun hz he => ?_, fun s r v hr hv => ?_,
    fun data check u s r m z i hr hs hm hp hz hi => ?_⟩
  · intro read expected badCheck badStamp badData ho v1 intime
    have verifying := State.verifying_some hs hv hrun
    have used : s.pinUpset u = read := rfl
    have bytes (k : Nat) : r.expectedByte read.store z data k read.store.drivePinned = expected k :=
      congrArg (r.expectedByte read.store z data k) (s.pinUpset_pinned u)
    have differs : ((s.pinUpset u).expectedData r z).any (dataDiffers e.stamp data) = true ↔ badData := by
      rw [State.expectedData_differs, used]
      simp only [bytes]
      rfl
    have observed := observation_first Iff.rfl (stampDiffers_iff e.stamp data) differs ho
    rw [exec_dataRecord]
    refine ⟨fun h hopen => ?_, fun h hall => ?_, fun h => ?_⟩
    · rw [State.dataRead_verify data check u hr verifying h, State.verifyData_runs data check u hz he observed hopen]
      rfl
    · rw [State.dataRead_verify data check u hr verifying h, State.verifyData_ends data check u hz he observed hall]
      rfl
    · rw [State.dataRead_lateVerify data check u hr verifying h, State.markerMissed_verify verifying,
        VerifyRecord.markerMissed_some hz]
      rfl
  · intro ended
    have judged : (v.fault = none → State.verifyJudged v.fault ended = ended.trackVerified)
        ∧ ∀ f, v.fault = some f → State.verifyJudged v.fault ended = ended.failedAttempt [f] :=
      ⟨ended.verifyJudged_none, fun _ => ended.verifyJudged_some⟩
    refine ⟨fun h => ?_, fun i hmode hk hpin => ⟨fun hok hd => ?_, fun hok hd => ?_, fun hbad => ?_⟩⟩
    · rw [State.verifyEnd_unused [] hr hv h]
      exact judged
    · rw [State.verifyEnd_sound [] hr hv hmode hk hpin hok hd]
      exact judged
    · exact State.verifyEnd_damaged [] hr hv hmode hk hpin hok hd
    · exact State.verifyEnd_unsound [] hr hv hmode hk hpin hbad
  · intro intime good a stored
    have verifying := State.verifying_none hs
    rw [exec_dataRecord]
    refine ⟨fun h hg hleft => ?_, fun h hg hlast => ?_, fun h => ?_⟩
    · rw [State.dataRead_master data check u hr verifying hm hp h, State.masterData_good hz hi hg]
      dsimp only
      rw [if_neg hleft]
      rfl
    · rw [State.dataRead_master data check u hr verifying hm hp h, State.masterData_good hz hi hg]
      dsimp only
      rw [if_pos hlast]
      rfl
    · by_cases ht : intime
      · rw [State.dataRead_master data check u hr verifying hm hp ht,
          State.masterData_bad hz hi hm (h.resolve_left (not_not_intro ht))]
        rfl
      · rw [State.dataRead_lateMaster data check u hr verifying hm hp ht]
        rfl

end Sys2Proof.Machine
end

section
/-! SUPPORT. When the transmit queue takes a frame (R153), and JOB ABANDON entered or held in reserve (R17, R118,
R120). -/

namespace Sys2Proof.Machine

theorem State.accepts_low_iff {s : State} {b : Body} (h : b.cls < 4) :
    s.accepts b = true ↔ s.boot = .ready ∧ s.lc.has b.key = false ∧ s.lc.queue.length < 8 := by
  simp [State.accepts_low s b h, and_assoc]

theorem State.accepts_high_iff {s : State} {b : Body} (h : 4 ≤ b.cls) :
    s.accepts b = true ↔ s.boot = .ready ∧ s.lc.has b.key = false ∧ s.lc.queue.length < 6 := by
  simp [State.accepts_high s b h, and_assoc]

theorem State.refuses_low {s : State} {b : Body} (h : b.cls < 4)
    (hn : s.boot ≠ .ready ∨ s.lc.has b.key = true ∨ 8 ≤ s.lc.queue.length) : ¬ s.accepts b = true := by
  rw [State.accepts_low_iff h]
  rintro ⟨hb, hk, hl⟩
  rcases hn with hn | hn | hn
  · exact hn hb
  · simp [hk] at hn
  · omega

theorem State.refuses_high {s : State} {b : Body} (h : 4 ≤ b.cls)
    (hn : s.lc.has b.key = true ∨ 6 ≤ s.lc.queue.length) : ¬ s.accepts b = true := by
  rw [State.accepts_high_iff h]
  rintro ⟨-, hk, hl⟩
  rcases hn with hn | hn
  · simp [hk] at hn
  · omega

/-- A reason joins the reserve once. -/
theorem State.reserveAbandon_eq (reason : AbandonReason) (s : State) :
    s.reserveAbandon reason = { s with jc := { s.jc with abandonDue :=
      if reason ∈ s.jc.abandonDue then s.jc.abandonDue else s.jc.abandonDue ++ [reason] } } := by
  unfold State.reserveAbandon
  split <;> rfl

section
variable {s : State} {r : JobRecord} {reason : AbandonReason} (hr : s.jc.record = some r)
include hr

theorem State.enterAbandon_eq : s.enterAbandon reason =
    if s.accepts (.jobAbandon reason) then s.push (.jobAbandon reason) r.jobId else s.reserveAbandon reason := by
  unfold State.enterAbandon
  rw [hr]

theorem State.enterAbandon_enters (hb : s.boot = .ready) (hn : s.lc.has .jobAbandon = false)
    (hl : s.lc.queue.length < 8) : s.enterAbandon reason =
      { s with lc := { s.lc with queue := s.lc.queue ++ [{ body := .jobAbandon reason, jobId := r.jobId }] } } := by
  rw [State.enterAbandon_eq hr, if_pos ((State.accepts_low_iff (b := .jobAbandon reason) (by simp)).2 ⟨hb, hn, hl⟩)]
  rfl

theorem State.enterAbandon_reserves
    (h : s.boot ≠ .ready ∨ s.lc.has .jobAbandon = true ∨ 8 ≤ s.lc.queue.length) : s.enterAbandon reason =
      { s with jc := { s.jc with abandonDue :=
        if reason ∈ s.jc.abandonDue then s.jc.abandonDue else s.jc.abandonDue ++ [reason] } } := by
  rw [State.enterAbandon_eq hr, if_neg (State.refuses_low (by simp) h), State.reserveAbandon_eq]

end

end Sys2Proof.Machine
end

section
/-! PROOFS. The Source Sequencer: the slot of a master read, its decision points, its releases and its abandon (R27,
R32, R111 to R118). -/

namespace Sys2Proof.Machine

/-! ### The slot of a master read (R27, R32, R112) -/

theorem State.recipe_eq {s : State} {r : JobRecord} (hr : s.jc.record = some r) : s.recipe = some r.recipe := by
  simp [State.recipe, hr]

theorem exec_masterReadSlotGrant (s : State) : exec .masterReadSlotGrant s = .next (s.trySlot.settle s) := rfl

theorem State.trySlot_idle {s : State} (hm : s.ss.read = none) : s.trySlot = s := by
  unfold State.trySlot
  split
  next h => simp [hm] at h
  next => rfl

/-- The state with slot `i` FILLING for master read `x`, and the drive port as the request has left it. -/
def State.readGranted (i : Nat) (x : MasterRead) (dp : Drive) (s : State) : State :=
  { s with
    store := s.store.takeSlot i x.track 0
    ss := { s.ss with read := some { x with slot := some i } }
    dp := dp }

section
variable {s : State} {r : JobRecord} {m : MasterRead} (hr : s.jc.record = some r) (hm : s.ss.read = some m)
include hr hm

theorem State.trySlot_granted (h : m.phase ≠ .slotWait) : s.trySlot = s := by
  simp only [State.trySlot, State.recipe_eq hr, hm, if_neg h]

variable (hp : m.phase = .slotWait)
include hp

theorem State.trySlot_held (hh : s.held m.track = true) :
    s.trySlot = State.releaseTrack m.track { s with ss := { s.ss with read := none } } := by
  simp only [State.trySlot, State.recipe_eq hr, hm, hp, hh, if_true]
  rfl

variable (hh : s.held m.track = false)
include hh

theorem State.trySlot_waits
    (h : (s.store.entry m.track).presence ≠ .absent ∨ s.store.allocation m.track = none) : s.trySlot = s := by
  simp only [State.trySlot, State.recipe_eq hr, hm, hp, hh, if_true, Bool.false_eq_true, if_false]
  split
  next habsent => simp [h.resolve_left (not_not_intro habsent)]
  next => rfl

variable {i : Nat} (habsent : (s.store.entry m.track).presence = .absent) (hi : s.store.allocation m.track = some i)
include habsent hi

theorem State.trySlot_grants : s.trySlot =
    let x := s.dp.requestSeek r.recipe s.now (m.track / r.recipe.heads) (decide (m.track % r.recipe.heads = 1))
    let granted := s.readGranted i { m with phase := .seeking } x.1
    if x.2 then granted.sourceSeekEnd true else granted := by
  simp only [State.trySlot, State.recipe_eq hr, hm, hp, hh, habsent, hi, if_true, Bool.false_eq_true, if_false]
  rfl

variable {d : Drive}

theorem State.trySlot_seeks
    (hd : s.dp.requestSeek r.recipe s.now (m.track / r.recipe.heads) (decide (m.track % r.recipe.heads = 1))
      = (d, false)) : s.trySlot = s.readGranted i { m with phase := .seeking } d := by
  rw [State.trySlot_grants hr hm hp hh habsent hi, hd]
  rfl

/-- Where no motion is needed the search begins at once, or waits for a qualified spindle. -/
theorem State.trySlot_there
    (hd : s.dp.requestSeek r.recipe s.now (m.track / r.recipe.heads) (decide (m.track % r.recipe.heads = 1))
      = (d, true)) :
    (s.dp.spindle.qualified = true → s.trySlot =
      s.readGranted i { m with phase := .searching, unsettled := r.recipe.ids, reading := none }
        { d with counter := some (r.recipe.masterRevs - 1 + 1) })
    ∧ (s.dp.spindle.qualified = false → s.trySlot = s.readGranted i { m with phase := .requalify }
        { d with qualify := some { limit := s.now + s.pc.params.spinUpLimit * 1000 } }) := by
  have spindle : d.spindle = s.dp.spindle := by
    have asked := congrArg (·.1.spindle) hd
    simpa using asked.symm
  have ended : s.trySlot = (s.readGranted i { m with phase := .seeking } d).sourceSeekEnd true := by
    rw [State.trySlot_grants hr hm hp hh habsent hi, hd]
    rfl
  have granted : (s.readGranted i { m with phase := .seeking } d).dp.spindle = s.dp.spindle := spindle
  have recipe : (s.readGranted i { m with phase := .seeking } d).recipe = some r.recipe := State.recipe_eq hr
  refine ⟨fun h => ?_, fun h => ?_⟩
  · rw [ended, State.sourceSeekEnd, granted, h, State.startSearch, recipe]
    rfl
  · rw [ended, State.sourceSeekEnd, granted, h]
    rfl

end

/-! ### A RELEASE sent (R113, R114, R116) -/

/-- The check word that a RELEASE of the Source Sequencer carries. -/
def State.releaseCheck (s : State) (v : Reserve) : CheckWord :=
  match v.status, s.store.heldSlot v.track with
  | .good, some i => (s.store.slot i).check
  | _, _ => 0

theorem State.sourceRelease_eq (s : State) (r : JobRecord) (v : Reserve) : s.sourceRelease r v =
    .release v.track v.status v.reason .source r.recipe.sizeCode r.recipe.sectors (s.releaseCheck v) := by
  unfold State.sourceRelease State.releaseCheck
  split
  next hs =>
    rw [hs]
    cases s.store.heldSlot v.track <;> rfl
  next hs =>
    rw [hs]

section
variable {s : State} {r : JobRecord} {v : Reserve} (hr : s.jc.record = some r)
include hr

theorem State.enterRelease_abandoned (ha : s.ss.abandon ≠ none) :
    s.enterRelease v = State.releaseDrivePin { s with ss := { s.ss with reserve := none } } := by
  unfold State.enterRelease
  split
  next h => exact absurd h ha
  next => rfl
  next h => simp [hr] at h

variable (ha : s.ss.abandon = none)
include ha

theorem State.enterRelease_eq : s.enterRelease v =
    if s.accepts (s.sourceRelease r v) then
      State.push (s.sourceRelease r v) r.jobId { s with ss := { s.ss with reserve := none } }
    else { s with ss := { s.ss with reserve := some v } } := by
  simp only [State.enterRelease, hr, ha, State.mapSource]

theorem State.enterRelease_enters (hb : s.boot = .ready) (hn : s.lc.has (.release v.track v.reason) = false)
    (hl : s.lc.queue.length < 6) : s.enterRelease v = { s with
      ss := { s.ss with reserve := none }
      lc := { s.lc with queue := s.lc.queue ++ [{ body := s.sourceRelease r v, jobId := r.jobId }] } } := by
  rw [State.enterRelease_eq hr ha, if_pos]
  · rfl
  · rw [State.sourceRelease_eq]
    exact (State.accepts_high_iff (by simp)).2 ⟨hb, hn, hl⟩

theorem State.enterRelease_reserves (h : s.lc.has (.release v.track v.reason) = true ∨ 6 ≤ s.lc.queue.length) :
    s.enterRelease v = { s with ss := { s.ss with reserve := some v } } := by
  rw [State.enterRelease_eq hr ha, if_neg]
  rw [State.sourceRelease_eq]
  exact State.refuses_high (by simp) h

end

/-- The state with the drive pin taken on the slot of a track, where the drive path holds none (R33). -/
def State.trackPinned (t : Nat) (s : State) : State :=
  match s.store.drivePinned, s.store.heldSlot t with
  | none, some i => { s with store := s.store.takeDrivePin i }
  | _, _ => s

theorem State.trackPinned_ss (t : Nat) (s : State) : (s.trackPinned t).ss = s.ss := by
  unfold State.trackPinned
  split <;> rfl

theorem State.releaseTrack_eq (t : Nat) (s : State) : s.releaseTrack t =
    match s.ss.state with
    | .read => ((s.trackPinned t).mapSource fun ss => { ss with state := .release }).enterRelease
        ⟨t, .good, .firstPass⟩
    | _ => (s.trackPinned t).enterRelease ⟨t, .good, .restore⟩ := by
  unfold State.releaseTrack State.trackPinned Store.drivePinGrant
  cases s.store.drivePinned <;> cases s.store.heldSlot t <;> rfl

section
variable {s : State} (t : Nat)

theorem State.releaseTrack_firstPass (hs : s.ss.state = .read) : s.releaseTrack t =
    State.enterRelease ⟨t, .good, .firstPass⟩ { s.trackPinned t with ss := { s.ss with state := .release } } := by
  rw [State.releaseTrack_eq, hs, ← s.trackPinned_ss t]
  rfl

theorem State.releaseTrack_restore (hs : s.ss.state ≠ .read) :
    s.releaseTrack t = (s.trackPinned t).enterRelease ⟨t, .good, .restore⟩ := by
  rw [State.releaseTrack_eq]
  split
  next h => exact absurd h hs
  next => rfl

end

/-! ### The decision points (R111, R114 to R116, R118) -/

section
variable {s : State} (t : Nat)

theorem State.serve_abandoned (ha : s.ss.abandon ≠ none) : s.serve t = s :=
  if_pos (Option.isSome_iff_ne_none.2 ha)

variable {t} (ha : s.ss.abandon = none)
include ha

theorem State.serve_held {i : Nat} (hi : s.store.heldSlot t = some i) : s.serve t = s.releaseTrack t := by
  simp [State.serve, ha, hi]

theorem State.serve_reads (hi : s.store.heldSlot t = none) (hm : s.ss.present = true) :
    s.serve t = s.startRead t := by
  simp [State.serve, ha, hi, hm]

theorem State.serve_lost (hi : s.store.heldSlot t = none) (hm : s.ss.present = false) :
    s.serve t = s.enterRelease ⟨t, .lost, .restore⟩ := by
  simp [State.serve, ha, hi, hm]

variable {r : JobRecord} (hr : s.jc.record = some r) (hd : s.du.restores = [])
include hr hd

theorem State.decision_reads (h : s.ss.firstTrack < r.tracks) :
    s.decision = (s.mapSource fun ss => { ss with state := .read }).startRead s.ss.firstTrack := by
  simp only [State.decision, State.recipe_eq hr, ha, hd]
  exact if_pos (show s.ss.firstTrack < r.recipe.tracks from h)

theorem State.decision_waits (h : r.tracks ≤ s.ss.firstTrack) :
    s.decision = s.mapSource fun ss => { ss with state := .serve } := by
  simp only [State.decision, State.recipe_eq hr, ha, hd]
  exact if_neg (show ¬ s.ss.firstTrack < r.recipe.tracks from Nat.not_lt.2 h)

end

section
variable {s : State} (t : Nat)

theorem State.sourceWithdrawn_abandoned (reason : ReleaseReason) (ha : s.ss.abandon ≠ none) :
    s.sourceWithdrawn t reason = s.releaseDrivePin := if_pos (Option.isSome_iff_ne_none.2 ha)

variable (ha : s.ss.abandon = none)
include ha

/-- A restore withdrawn at its offer is served again. -/
theorem State.sourceWithdrawn_serves : s.sourceWithdrawn t .restore = s.releaseDrivePin.serve t := by
  simp [State.sourceWithdrawn, ha]

/-- A first-pass track withdrawn at its offer is read again. -/
theorem State.sourceWithdrawn_reads {reason : ReleaseReason} (hn : reason ≠ .restore) :
    s.sourceWithdrawn t reason = State.startRead t { s.releaseDrivePin with
      ss := { s.releaseDrivePin.ss with state := .read } } := by
  cases reason
  case restore => exact absurd rfl hn
  all_goals simp [State.sourceWithdrawn, ha, State.mapSource]

end

/-! ### A read that ends, fails or is abandoned (R112, R116 to R118) -/

theorem State.endRead_idle {s : State} (hm : s.ss.read = none) : s.endRead = s := by
  simp only [State.endRead, hm]

/-- The store once a master read has ended: its slot is freed. -/
def MasterRead.slotFreed (m : MasterRead) (st : Store) : Store :=
  match m.slot with
  | some i => st.freeSlot i
  | none => st

theorem State.endRead_reading {s : State} {m : MasterRead} (hm : s.ss.read = some m) : s.endRead = { s with
    store := m.slotFreed s.store
    ss := { s.ss with read := none }
    dp := { s.dp with counter := none, qualify := none } } := by
  simp only [State.endRead, hm, MasterRead.slotFreed]
  cases m.slot <;> rfl

theorem State.readFailed_idle {s : State} (reason : AbandonReason) (hm : s.ss.read = none) :
    s.readFailed reason = s := by
  simp only [State.readFailed, hm]

section
variable {s : State} {m : MasterRead} {reason : AbandonReason} (hm : s.ss.read = some m)
include hm

theorem State.readFailed_firstPass (hs : s.ss.state = .read) :
    s.readFailed reason = s.endRead.sourceAbandon reason := by
  simp only [State.readFailed, hm, hs]

theorem State.readFailed_restore (hs : s.ss.state ≠ .read) :
    s.readFailed reason = s.endRead.enterRelease ⟨m.track, .lost, .restore⟩ := by
  simp only [State.readFailed, hm]

end

/-- The Source Sequencer's abandon is set, and its JOB ABANDON called for. -/
def State.callAbandon (reason : AbandonReason) (s : State) : State :=
  State.enterAbandon reason { s with ss := { s.ss with abandon := some reason } }

theorem State.sourceAbandon_again {s : State} {reason : AbandonReason} (ha : s.ss.abandon ≠ none) :
    s.sourceAbandon reason = s := by
  unfold State.sourceAbandon
  split
  next => rfl
  next h => exact absurd h ha

section
variable {s : State} {reason : AbandonReason} (ha : s.ss.abandon = none)
include ha

theorem State.sourceAbandon_eq : s.sourceAbandon reason =
    State.callAbandon reason (if s.ss.reserve.isSome then s.endRead.giveUpRelease else s.endRead) := by
  simp only [State.sourceAbandon, ha, State.endRead_ss, State.callAbandon, State.mapSource]

theorem State.sourceAbandon_unreserved (hv : s.ss.reserve = none) :
    s.sourceAbandon reason = s.endRead.callAbandon reason := by
  rw [State.sourceAbandon_eq ha, hv]
  rfl

theorem State.sourceAbandon_reserved (hv : s.ss.reserve ≠ none) :
    s.sourceAbandon reason = s.endRead.giveUpRelease.callAbandon reason := by
  rw [State.sourceAbandon_eq ha, if_pos (Option.isSome_iff_ne_none.2 hv)]

end

/-! ### The obligation -/

/-- Settles O46: the grant through the drive port's request, the decision points, the RELEASE sent and completed, and
the reads that end, fail, go out or are withdrawn, with the master removed. -/
theorem slotGrantBeginsTheMasterRead : Obligations.SlotGrantBeginsTheMasterRead := by
  refine ⟨fun s r hr => ⟨fun hm => ?_, fun m hm => ⟨fun hp => ?_, fun hp => ⟨fun hh => ?_, fun hh h => ?_,
      fun i d hh ha hi => ?_, fun i cur hh ha hi hmotion hcur _ hne => ?_⟩⟩⟩,
    fun s r hr => ⟨fun ha => ⟨State.decision_abandoned ha, fun t => State.serve_abandoned t ha⟩,
      fun ha => ⟨fun t rest => State.decision_restores hr ha, State.decision_reads ha hr, State.decision_waits ha hr,
        fun t i => State.serve_held ha, fun t => State.serve_reads ha, fun t => State.serve_lost ha⟩,
      fun t => rfl⟩,
    fun s r v t hr => ?_, fun s r reason t hr => ?_⟩
  · rw [exec_masterReadSlotGrant, State.trySlot_idle hm]
  · rw [exec_masterReadSlotGrant, State.trySlot_granted hr hm hp]
  · rw [exec_masterReadSlotGrant, State.trySlot_held hr hm hp hh]
  · rw [exec_masterReadSlotGrant, State.trySlot_waits hr hm hp hh h]
  · intro granted asked
    refine ⟨fun hd => ?_, fun hd hq => ?_, fun hd hq => ?_⟩
    · rw [exec_masterReadSlotGrant, State.trySlot_seeks hr hm hp hh ha hi hd]
      rfl
    · rw [exec_masterReadSlotGrant, (State.trySlot_there hr hm hp hh ha hi hd).1 hq]
      rfl
    · rw [exec_masterReadSlotGrant, (State.trySlot_there hr hm hp hh ha hi hd).2 hq]
      rfl
  · have asked := (Drive.requestSeek_known r.recipe s.now (m.track / r.recipe.heads)
      (decide (m.track % r.recipe.heads = 1)) hmotion hcur).trans (Drive.seekFrom_steps _ _ _ _ (Ne.symm hne))
    rw [exec_masterReadSlotGrant, State.trySlot_seeks hr hm hp hh ha hi asked]
    rfl
  · intro body freed
    have sent : s.sourceRelease r v = body := s.sourceRelease_eq r v
    refine ⟨fun ha hb hn hl => ?_, State.enterRelease_reserves hr, State.enterRelease_abandoned hr, rfl, rfl, rfl, rfl⟩
    rw [← sent]
    exact State.enterRelease_enters hr ha hb hn hl
  · intro ended given abandons
    exact ⟨State.endRead_idle, fun m => State.endRead_reading, State.enterAbandon_enters hr,
      State.enterAbandon_reserves hr, State.sourceAbandon_again,
      fun ha => ⟨State.sourceAbandon_unreserved ha, State.sourceAbandon_reserved ha⟩, State.readFailed_idle reason,
      fun m hm => ⟨State.readFailed_firstPass hm, State.readFailed_restore hm⟩,
      ⟨State.releaseTrack_firstPass t, State.releaseTrack_restore t⟩,
      ⟨fun ha why => State.sourceWithdrawn_abandoned t why ha,
        fun ha => ⟨State.sourceWithdrawn_serves t ha, State.sourceWithdrawn_reads t ha (by simp)⟩⟩,
      State.masterRemoved_firstPass (State.recipe_eq hr),
      fun h => State.masterRemoved_after (State.recipe_eq hr) (Nat.not_lt.2 h)⟩

end Sys2Proof.Machine
end

section
/-! PROOFS. ARBITRATION_START and JOIN_START: the frame picked starts, or a RELEASE not held here is withdrawn (R34,
R54 to R56, R114, R116, R150, R154, R155). -/

namespace Sys2Proof.Machine

/-! ### The command (R150, R154) -/

theorem exec_start {c : Instr} (hc : c = .arbitrationStart ∨ c = .joinStart) (s : State) :
    exec c s = .next s.startArbitration := by
  rcases hc with rfl | rfl <;> rfl

/-- The idle gap ends the passing over of a frame. -/
def State.listening (s : State) : State := { s with lc := { s.lc with deaf := false } }

theorem State.startArbitration_early {s : State} (h : s.boot ≠ .ready) : s.startArbitration = s := if_neg h

theorem State.startArbitration_busy {s : State} (hb : s.boot = .ready) (h : s.lc.sending ≠ none) :
    s.startArbitration = s.listening := by
  rw [State.startArbitration, if_pos hb]
  dsimp only
  split
  next => rfl
  next hn => exact absurd hn h

/-! ### One pick (R34, R154) -/

section
variable {s : State} {f : Frame} (fuel : Nat)

theorem State.offer_idle (hp : s.pick = none) : State.offer (fuel + 1) s = s := by
  rw [State.offer, hp]

variable (hp : s.pick = some f)
include hp

/-- A RELEASE of a track held here takes the link pin as it starts. -/
theorem State.offer_release {t : Nat} {reason : ReleaseReason} {o : ReleaseOrigin} {z n : Nat} {w : CheckWord}
    {i : Nat} (hb : f.body = .release t .good reason o z n w) (hi : s.store.heldSlot t = some i) :
    State.offer (fuel + 1) s = State.startFrame f.key { s with store := s.store.takeLinkPin i } := by
  simp only [State.offer, hp, hb, hi]

theorem State.offer_withdraws {t : Nat} {reason : ReleaseReason} {o : ReleaseOrigin} {z n : Nat} {w : CheckWord}
    (hb : f.body = .release t .good reason o z n w) (hi : s.store.heldSlot t = none) :
    State.offer (fuel + 1) s = State.offer fuel (s.withdrawnAtOffer t reason o) := by
  simp only [State.offer, hp, hb, hi]

/-- A CALL ANSWER is filled as it starts. -/
theorem State.offer_answer {a : Bool} {j : JobId} (hb : f.body = .call false a j) :
    State.offer (fuel + 1) s = (s.refill f.key
      (.call false s.pc.params.fitted ((s.jc.record.map (·.jobId)).getD 0))).startFrame f.key := by
  simp only [State.offer, hp, hb]

/-- A pick that starts needs no further pick. -/
theorem State.offer_starts (fuel' : Nat)
    (h : ∀ t reason o z n w, f.body = .release t .good reason o z n w → s.held t = true) :
    State.offer (fuel + 1) s = State.offer (fuel' + 1) s := by
  unfold State.offer
  rw [hp]
  dsimp only
  split
  next t reason o z n w hb =>
    obtain ⟨i, hi⟩ := Option.isSome_iff_exists.1 (h t reason o z n w hb)
    simp only [hi]
  next => rfl
  next => rfl

end

/-! ### The frame that starts (R154, R155) -/

/-- A start where it is known whether the loss count is kept. -/
theorem State.startFrame_counting {s : State} {k : FrameKey} {keeps : Bool}
    (hk : keeps = true ↔ k = .holdOff ∨ s.lc.lossFor = some k) : s.startFrame k = { s with lc := { s.lc with
      queue := s.lc.queue.map fun g => if g.key = k then { g with started := true } else g
      lossCount := if keeps then s.lc.lossCount else 0
      lossFor := if keeps then s.lc.lossFor else none } } := by
  rw [State.startFrame_eq]
  simp only [hk]

/-- A frame filled again as it starts, in the place it has in the queue. -/
theorem State.startFrame_refilled {s : State} {k : FrameKey} {b : Body} {keeps : Bool} (hb : b.key = k)
    (hk : keeps = true ↔ k = .holdOff ∨ s.lc.lossFor = some k) : (s.refill k b).startFrame k =
      { s with lc := { s.lc with
        queue := s.lc.queue.map fun g => if g.key = k then { g with started := true, body := b } else g
        lossCount := if keeps then s.lc.lossCount else 0
        lossFor := if keeps then s.lc.lossFor else none } } := by
  have filled : (s.refill k b).lc.queue.map (fun g => if g.key = k then { g with started := true } else g)
      = s.lc.queue.map fun g => if g.key = k then { g with started := true, body := b } else g := by
    simp only [State.refill, State.mapFrame_lc, List.map_map]
    refine List.map_congr_left fun g _ => ?_
    by_cases hg : g.key = k
    · have key : ({ g with body := b } : Frame).key = k := hb
      simp only [Function.comp, if_pos hg, if_pos key]
    · simp only [Function.comp, if_neg hg]
  rw [State.startFrame_counting (s := s.refill k b) hk, filled]
  rfl

/-! ### The frame that is withdrawn (R54 to R56, R114, R116) -/

theorem State.dequeue_only {s : State} {f : Frame} (hq : s.lc.queue = [f]) : (s.dequeue f.key).lc.queue = [] := by
  simp [State.dequeue, State.setQueue, hq]

theorem State.pick_empty {s : State} (hq : s.lc.queue = []) : s.pick = none := by
  simp [State.pick, hq, lowestClass]

section
variable {s : State} (t : Nat)

theorem State.withdrawnAtOffer_abandoned (reason : ReleaseReason) (ha : s.ss.abandon ≠ none) :
    s.withdrawnAtOffer t reason .source = (s.dequeue (.release t reason)).releaseDrivePin.repairFeed :=
  congrArg State.repairFeed (State.sourceWithdrawn_abandoned t reason ha)

variable (ha : s.ss.abandon = none)
include ha

theorem State.withdrawnAtOffer_serves : s.withdrawnAtOffer t .restore .source =
    ((s.dequeue (.release t .restore)).releaseDrivePin.serve t).repairFeed :=
  congrArg State.repairFeed (State.sourceWithdrawn_serves t ha)

theorem State.withdrawnAtOffer_reads {reason : ReleaseReason} (hn : reason ≠ .restore) :
    s.withdrawnAtOffer t reason .source = (((s.dequeue (.release t reason)).releaseDrivePin.mapSource fun ss =>
      { ss with state := .read }).startRead t).repairFeed :=
  congrArg State.repairFeed (State.sourceWithdrawn_reads (s := s.dequeue (.release t reason)) t ha hn)

end

/-- Settles O13: the frame picked by its kind, then the picks one by one, each by what the frame picked is. -/
theorem arbitrationStartsTheFramePicked : Obligations.ArbitrationStartsTheFramePicked := by
  refine ⟨fun s f c hc hb hs hp => ?_, fun s c hc => ?_, fun fuel s => ?_, fun fuel s f t reason o z n w hp hf hi => ?_⟩
  · intro counts
    have picked : s.listening.pick = some f := hp
    have offers : exec c s = .next (State.offer 16 s.listening) := State.start_offers s c hc hb hs
    refine ⟨fun keeps hk => ⟨fun hr ha => ?_, fun t reason o z n w i hf hi => ?_, fun a j hf => ?_⟩,
      fun t reason z n w hf hi hq => ?_⟩
    · rw [offers, State.offer_plain _ f 15 picked ⟨hr, ha⟩]
      exact congrArg _ (State.startFrame_counting (s := s.listening) hk)
    · rw [offers, State.offer_release 15 picked hf hi]
      exact congrArg _ (State.startFrame_counting hk)
    · have key : f.key = .call false := by rw [Frame.key, hf]; rfl
      rw [offers, State.offer_answer 15 picked hf]
      exact congrArg _ (State.startFrame_refilled (s := s.listening) (by rw [key]; rfl) hk)
    · have key : f.key = .release t reason := by rw [Frame.key, hf]; rfl
      have left : (s.listening.dequeue f.key).lc.queue = [] := State.dequeue_only (s := s.listening) hq
      refine ⟨s.listening.dequeue f.key, ?_, left, rfl, rfl⟩
      rw [offers, State.offer_withdraws 15 picked hf hi, ← State.offer_idle 14 (State.pick_empty left), key]
      rfl
  · intro ready
    refine ⟨fun h => ?_, fun hb h => ?_, fun hb hs hp => ?_, State.start_offers s c hc⟩
    · rw [exec_start hc, State.startArbitration_early h]
    · rw [exec_start hc, State.startArbitration_busy hb h]
      rfl
    · rw [State.start_offers s c hc hb hs]
      exact congrArg _ (State.offer_idle (s := ready) 15 hp)
  · exact ⟨State.offer_idle fuel, fun f hp => State.offer_starts fuel hp 15⟩
  · intro out off
    rw [State.offer_withdraws fuel hp hf hi]
    refine ⟨fun ho => ?_, fun ho => ?_, fun ho ha => ?_, fun ho ha => ⟨fun hr => ?_, fun hr => ?_⟩⟩ <;> subst ho
    · rfl
    · rfl
    · rw [State.withdrawnAtOffer_abandoned t reason ha]
    · subst hr
      rw [State.withdrawnAtOffer_serves t ha]
    · rw [State.withdrawnAtOffer_reads t ha hr]
      rfl

end Sys2Proof.Machine
end

section
/-! PROOFS. STOP_BRIEF_PRESS and STOP_HELD (R13, R64, R94, R120). -/

namespace Sys2Proof.Machine

theorem exec_stopBriefPress (s : State) : exec .stopBriefPress s = .next s.stopPressed := rfl

theorem exec_stopHeld (s : State) : exec .stopHeld s = .next s.stopHeld := rfl

/-! ### A CLAIM that waits while the conditions fail (R64) -/

/-- The state with the paused flag set. -/
def State.pausedNow (s : State) : State := s.mapCopy fun cs => { cs with paused := true }

theorem State.claimConditions_paused {s : State} (h : s.cs.paused = true) : s.claimConditions = false := by
  unfold State.claimConditions
  split <;> simp [h]

theorem State.claimRefill_withdraws {s : State} (hr : s.jc.record ≠ none) (hw : s.lc.waiting .claim = true)
    (hc : s.claimConditions = false) : s.claimRefill = (s.withdrawKey .claim).claimWithdrawn := by
  unfold State.claimRefill
  split
  · simp [hw, hc]
  next hn => exact absurd hn hr

section
variable {s : State} {r : JobRecord} (hr : s.jc.record = some r) (hw : s.lc.waiting .claim = true)
include hr hw

theorem State.pausedNow_withdraws : s.pausedNow.claimRefill = (s.pausedNow.withdrawKey .claim).claimWithdrawn :=
  State.claimRefill_withdraws (by simp [State.pausedNow, hr]) hw (State.claimConditions_paused rfl)

/-- In CLAIM the cycle goes back to STANDBY, where a paused station starts no disk. -/
theorem State.pausedNow_toStandby (hs : s.cs.state = .claim) :
    s.pausedNow.claimRefill = { s.pausedNow.withdrawKey .claim with
      cs := { s.cs with paused := true, state := .standby }
      dp := { s.dp.stopMotor with lock := false }
      tb := none } := by
  have fails : (s.pausedNow.withdrawKey .claim).claimConditions = false := State.claimConditions_paused rfl
  have claiming : (s.pausedNow.withdrawKey .claim).cs.state = .claim := hs
  rw [State.pausedNow_withdraws hr hw, State.claimWithdrawn, if_pos claiming,
    State.toStandby_calm (State.startConditions_of_claim fails)]
  rfl

/-- A pulled disk that waits on the CLAIM leaves the cycle. -/
theorem State.pausedNow_leaves (hs : s.cs.state = .tally) (hp : s.cs.pulled = true) (ho : s.cs.outcome = none) :
    s.pausedNow.claimRefill = (s.pausedNow.withdrawKey .claim).leavePulled .pulled none := by
  have tallying : (s.pausedNow.withdrawKey .claim).cs.state = .tally := hs
  have elsewhere : ¬ (s.pausedNow.withdrawKey .claim).cs.state = .claim := by rw [tallying]; decide
  rw [State.pausedNow_withdraws hr hw, State.claimWithdrawn, if_neg elsewhere]
  exact if_pos ⟨tallying, hp, ho⟩

end

/-! ### The brief press (R94, R120) -/

theorem State.stopPressed_unused {s : State} (h : s.boot ≠ .ready ∨ s.jc.record = none) : s.stopPressed = s := by
  unfold State.stopPressed
  split
  next hb => rw [h.resolve_left (not_not_intro hb)]
  next => rfl

section
variable {s : State} {r : JobRecord} (hb : s.boot = .ready) (hr : s.jc.record = some r)
include hb hr

theorem State.stopPressed_eq : s.stopPressed =
    if r.opener = s.station then if r.state = .opened then s.enterStop else s
    else if r.role = .member then s.pausedNow.claimRefill else s := by
  simp only [State.stopPressed, hb, hr, if_true]
  rfl

theorem State.stopPressed_opener (ho : r.opener = s.station) (h : r.state = .opened) :
    s.stopPressed = s.enterStop := by
  rw [State.stopPressed_eq hb hr, if_pos ho, if_pos h]

theorem State.stopPressed_openerIdle (ho : r.opener = s.station)
    (h : r.state = .draining ∨ s.lc.has .jobStop = true) : s.stopPressed = s := by
  rw [State.stopPressed_eq hb hr, if_pos ho]
  rcases h with h | h
  · simp [h]
  · simp [State.enterStop, hr, h]

theorem State.stopPressed_member (ho : r.opener ≠ s.station) (h : r.role = .member) :
    s.stopPressed = s.pausedNow.claimRefill := by
  rw [State.stopPressed_eq hb hr, if_neg ho, if_pos h]

theorem State.stopPressed_other (ho : r.opener ≠ s.station) (h : r.role ≠ .member) : s.stopPressed = s := by
  rw [State.stopPressed_eq hb hr, if_neg ho, if_neg h]

end

/-! ### The held press (R13, R120) -/

theorem State.stopHeld_unused {s : State} (h : s.boot ≠ .ready ∨ s.jc.record = none) : s.stopHeld = s := by
  unfold State.stopHeld
  split
  next hb => rw [h.resolve_left (not_not_intro hb)]
  next => rfl

section
variable {s : State} {r : JobRecord} (hb : s.boot = .ready) (hr : s.jc.record = some r)
include hb hr

theorem State.stopHeld_abandons (hi : inMask r.roster s.station = true) (hd : inMask r.departed s.station = false)
    (hn : s.lc.has .jobAbandon = false) : s.stopHeld = s.enterAbandon .operator := by
  simp [State.stopHeld, hb, hr, hi, hd, hn]

theorem State.stopHeld_idle (h : inMask r.roster s.station = false ∨ inMask r.departed s.station = true
    ∨ s.lc.has .jobAbandon = true) : s.stopHeld = s := by
  rcases h with h | h | h <;> simp [State.stopHeld, hb, hr, h]

end

/-- Settles O10: the brief press by opener and role, and what the paused flag does to a CLAIM that waits; the held
press by roster and queue. -/
theorem stopPressesStopPauseOrAbandon : Obligations.StopPressesStopPauseOrAbandon := by
  refine ⟨fun s => ⟨fun r hb hr ho hs hn => ?_, fun r hb hr ho h => ?_,
      fun r hb hr ho hm => ⟨fun hw => ?_, fun hw hs => ?_, fun hw hs hp hq => ?_⟩, fun r hb hr ho hm => ?_, fun h => ?_⟩,
    fun s => ⟨fun r hb hr hi hd hn => ?_, fun r hb hr h => ?_, fun h => ?_⟩⟩
  · rw [exec_stopBriefPress, State.stopPressed_opener hb hr ho hs, State.enterStop_new s r hb hr hn]
    exact ⟨fun h => by rw [if_pos h], fun h => by rw [if_neg (Nat.not_lt.2 h)]⟩
  · rw [exec_stopBriefPress, State.stopPressed_openerIdle hb hr ho h]
  · rw [exec_stopBriefPress, State.stopPressed_member hb hr ho hm, State.claimRefill_none (s := s.pausedNow) hw]
    rfl
  · obtain ⟨motor, select, -⟩ := s.dp.stopMotor_lines
    refine ⟨_, (exec_stopBriefPress s).trans (congrArg _ (State.stopPressed_member hb hr ho hm)), ?_⟩
    rw [State.pausedNow_toStandby hr hw hs]
    exact ⟨rfl, rfl, motor, select, rfl, rfl, rfl, rfl, rfl, rfl⟩
  · refine ⟨_, (exec_stopBriefPress s).trans (congrArg _ (State.stopPressed_member hb hr ho hm)), ?_⟩
    rw [State.pausedNow_leaves hr hw hs hp hq]
    exact ⟨rfl, rfl, rfl, rfl, rfl, rfl, rfl, rfl⟩
  · rw [exec_stopBriefPress, State.stopPressed_other hb hr ho hm]
  · rw [exec_stopBriefPress, State.stopPressed_unused h]
  · rw [exec_stopHeld, State.stopHeld_abandons hb hr hi hd hn]
    exact ⟨fun h => by rw [State.enterAbandon_enters hr hb hn h],
      fun h => by rw [State.enterAbandon_reserves hr (.inr (.inr h))]⟩
  · rw [exec_stopHeld, State.stopHeld_idle hb hr h]
  · rw [exec_stopHeld, State.stopHeld_unused h]

end Sys2Proof.Machine
end

section
/-! PROOFS. LOAD_PRESS (R2, R5, R94, R109, R125). -/

namespace Sys2Proof.Machine

theorem exec_loadPress (sel : Fin 8) (s : State) : exec (.loadPress sel) s = .next (s.loadPressed sel) := rfl

/-! ### The terms of the JOB OPEN (R5) -/

/-- The roster built now: this station, and every station present and fitted. -/
theorem State.inMask_rosterNow (s : State) (i : StationId) : inMask s.rosterNow i = true ↔
    i = s.station ∨ s.lc.presence[i].present = true ∧ s.lc.presence[i].fitted = true := by
  rw [inMask, State.rosterNow, maskOf_mem]
  simp

theorem State.loadKind_copy (s : State) : s.loadKind = .copy ↔ s.dp.diskin = true := by
  unfold State.loadKind
  split <;> simp [*]

/-! ### The checks in table order (R109) -/

section
variable {s : State} {sel : Fin 8}

theorem State.load_noted (h : s.lc.foreign.isSome = true) : s.load sel = s.refuseLoad .rigBusy := by
  simp only [State.load, State.loadChecks, if_pos h]

variable (hf : ¬ s.lc.foreign.isSome = true)
include hf

theorem State.load_unusable (hu : s.usableRecipe sel = none) : s.load sel = s.refuseLoad .recipeInvalid := by
  simp only [State.load, State.loadChecks, if_neg hf, hu]

variable {q : Recipe} (hu : s.usableRecipe sel = some q)
include hu

theorem State.load_unprotected
    (hp : s.dp.diskin = true ∧ s.pc.params.requireProt = true ∧ s.dp.wprot = false) :
    s.load sel = s.refuseLoad .masterNotProtected := by
  rw [← s.loadKind_copy] at hp
  simp only [State.load, State.loadChecks, if_neg hf, hu, if_pos hp]

variable (hp : ¬ (s.dp.diskin = true ∧ s.pc.params.requireProt = true ∧ s.dp.wprot = false))
include hp

theorem State.load_overfull (ho : s.dp.diskin = true ∧ overfull s.rosterNow q.tracks s.pc.params.r = true) :
    s.load sel = s.refuseLoad .noRoom := by
  rw [← s.loadKind_copy] at hp ho
  simp only [State.load, State.loadChecks, if_neg hf, hu, if_neg hp]
  rw [if_pos (show s.loadKind = .copy ∧ overfull (s.termsNow q).roster q.tracks (s.termsNow q).r = true from ho)]

variable (ho : ¬ (s.dp.diskin = true ∧ overfull s.rosterNow q.tracks s.pc.params.r = true))
include ho

theorem State.load_asks : s.load sel =
    if s.accepts (.jobOpen (s.termsNow q)) then s.enterOpen (s.termsNow q) else s.refuseLoad .rigBusy := by
  rw [← s.loadKind_copy] at hp ho
  simp only [State.load, State.loadChecks, if_neg hf, hu, if_neg hp]
  rw [if_neg (show ¬ (s.loadKind = .copy ∧ overfull (s.termsNow q).roster q.tracks (s.termsNow q).r = true) from ho)]
  by_cases ha : s.accepts (.jobOpen (s.termsNow q)) = true
  · simp only [if_pos ha]
  · simp only [if_neg ha]

theorem State.load_full (hl : 8 ≤ s.lc.queue.length) : s.load sel = s.refuseLoad .rigBusy := by
  rw [State.load_asks hf hu hp ho, if_neg (State.refuses_low (by simp) (.inr (.inr hl)))]

theorem State.load_opens (hb : s.boot = .ready) (hn : s.lc.has .jobOpen = false) (hl : ¬ 8 ≤ s.lc.queue.length) :
    s.load sel = s.enterOpen (s.termsNow q) := by
  rw [State.load_asks hf hu hp ho, if_pos
    ((State.accepts_low_iff (b := .jobOpen (s.termsNow q)) (by simp)).2 ⟨hb, hn, Nat.not_le.1 hl⟩)]

end

/-! ### The press (R94, R109) -/

section
variable {s : State} (sel : Fin 8)

theorem State.loadPressed_early (hb : s.boot ≠ .ready) : s.loadPressed sel = s := if_neg hb

variable (hb : s.boot = .ready)
include hb

theorem State.loadPressed_noJob (hr : s.jc.record = none) :
    s.loadPressed sel = if s.lc.has .jobOpen then s else s.load sel := by
  simp only [State.loadPressed, hb, hr, if_true]

theorem State.loadPressed_job {r : JobRecord} (hr : s.jc.record = some r) : s.loadPressed sel =
    if r.role = .member ∧ s.cs.paused = true then (s.mapCopy fun cs => { cs with paused := false }).startTest
    else s := by
  simp only [State.loadPressed, hb, hr, if_true]

end

/-- Settles O8: the checks one after another, each with the refusal it gives, to the JOB OPEN entered; then a press
elsewhere. -/
theorem loadPressOpensAJobOrIsRefused : Obligations.LoadPressOpensAJobOrIsRefused := by
  refine ⟨fun sel s hb hr hn => ⟨s.inMask_rosterNow, ?_⟩, fun sel s => ⟨fun r hb hr hm hp => ?_,
    fun r hb hr h => ?_, fun hb hr hn => ?_, fun hb => ?_⟩⟩
  · rw [exec_loadPress, State.loadPressed_noJob sel hb hr, if_neg (by simp [hn])]
    dsimp only
    by_cases hf : s.lc.foreign.isSome = true
    · rw [if_pos hf, State.load_noted hf]
      rfl
    rw [if_neg hf]
    split
    next hu =>
      rw [State.load_unusable hf hu]
      rfl
    next q hu =>
      by_cases hp : s.dp.diskin = true ∧ s.pc.params.requireProt = true ∧ s.dp.wprot = false
      · rw [if_pos hp, State.load_unprotected hf hu hp]
        rfl
      rw [if_neg hp]
      by_cases ho : s.dp.diskin = true ∧ overfull s.rosterNow q.tracks s.pc.params.r = true
      · rw [if_pos ho, State.load_overfull hf hu hp ho]
        rfl
      rw [if_neg ho]
      by_cases hl : 8 ≤ s.lc.queue.length
      · rw [if_pos hl, State.load_full hf hu hp ho hl]
        rfl
      · rw [if_neg hl, State.load_opens hf hu hp ho hb hn hl]
        rfl
  · rw [exec_loadPress, State.loadPressed_job sel hb hr, if_pos ⟨hm, hp⟩]
    rfl
  · rw [exec_loadPress, State.loadPressed_job sel hb hr, if_neg h]
  · rw [exec_loadPress, State.loadPressed_noJob sel hb hr, if_pos hn]
  · rw [exec_loadPress, State.loadPressed_early sel hb]

end Sys2Proof.Machine
end

section
/-! SUPPORT. What R123 fixes in a valid recipe: its interleave table and its stamp spans. -/

namespace Sys2Proof.Machine

/-- Distinct numbers that all stand in a list no longer are its numbers in another order. -/
theorem perm_of_nodup_of_mem {l m : List Nat} (hl : l.Nodup) (hm : ∀ x ∈ l, x ∈ m) (hlen : m.length ≤ l.length) :
    l.Perm m := by
  induction l generalizing m with
  | nil =>
    rw [List.eq_nil_of_length_eq_zero (Nat.le_zero.1 hlen)]
  | cons a l ih =>
    obtain ⟨hfresh, hl⟩ := List.nodup_cons.1 hl
    have ha : a ∈ m := hm a (.head _)
    have rest : ∀ x ∈ l, x ∈ m.erase a := fun x hx => by
      have hne : x ≠ a := fun hxa => hfresh (hxa ▸ hx)
      exact (List.mem_erase_of_ne hne).2 (hm x (.tail _ hx))
    have shorter : (m.erase a).length ≤ l.length := by
      rw [List.length_erase_of_mem ha]
      rw [List.length_cons] at hlen
      omega
    exact List.cons_perm_iff_perm_erase.2 ⟨ha, ih hl rest shorter⟩

section
variable {r : Recipe} (h : r.valid = true)
include h

/-- The conditions of R123 that the track builder rests on. -/
theorem Recipe.valid_parts : r.interleaveHolds = true ∧ (∀ p ∈ r.spans, r.spanHolds p = true)
    ∧ spansApart r.spans = true := by
  simp only [Recipe.valid, Bool.and_eq_true, List.all_eq_true] at h
  obtain ⟨⟨⟨⟨⟨⟨⟨⟨-, hi⟩, -⟩, -⟩, -⟩, -⟩, hspans⟩, hapart⟩, -⟩ := h
  exact ⟨hi, hspans, hapart⟩

/-- The interleave table lists the values below the sector count in some order. -/
theorem Recipe.interleave_perm : r.interleave.Perm (List.range r.sectors) := by
  obtain ⟨hi, -, -⟩ := Recipe.valid_parts h
  simp only [Recipe.interleaveHolds, Bool.and_eq_true, decide_eq_true_eq, List.all_eq_true] at hi
  obtain ⟨hlen, hall⟩ := hi
  have size : r.interleave.length ≤ (List.range r.sectors).length := Nat.le_of_eq (hlen.trans List.length_range.symm)
  exact (perm_of_nodup_of_mem List.nodup_range hall size).symm

theorem Recipe.spanHolds_of_mem {p : Span} (hp : p ∈ r.spans) : r.spanHolds p = true := by
  obtain ⟨-, hs, -⟩ := Recipe.valid_parts h
  exact hs p hp

theorem Recipe.span_fits {p : Span} (hp : p ∈ r.spans) : p.offset + p.length ≤ r.size := by
  have hs := Recipe.spanHolds_of_mem h hp
  simp only [Recipe.spanHolds, Bool.and_eq_true, decide_eq_true_eq] at hs
  exact hs.1.2

theorem Recipe.span_binary {p : Span} (hp : p ∈ r.spans) (hf : p.form = .binary) : p.length = 4 := by
  have hs := Recipe.spanHolds_of_mem h hp
  simp only [Recipe.spanHolds, hf, Bool.and_eq_true, decide_eq_true_eq] at hs
  exact hs.2

end

theorem Span.apart_iff {p q : Span} : p.apart q = true ↔
    p.track = q.track → p.sector = q.sector → p.offset + p.length ≤ q.offset ∨ q.offset + q.length ≤ p.offset := by
  simp only [Span.apart, Bool.or_eq_true, decide_eq_true_eq]
  omega

theorem Span.apart_symm {p q : Span} (h : p.apart q = true) : q.apart p = true := by
  rw [Span.apart_iff] at h ⊢
  exact fun ht hz => (h ht.symm hz.symm).symm

theorem spansApart_pairwise {ps : List Span} (h : spansApart ps = true) :
    ps.Pairwise fun p q => p.apart q = true := by
  induction ps with
  | nil => exact .nil
  | cons p ps ih =>
    simp only [spansApart, Bool.and_eq_true, List.all_eq_true] at h
    exact .cons h.1 (ih h.2)

/-- Spans of one sector that cover the same byte are one span. -/
theorem Recipe.span_unique {r : Recipe} (h : r.valid = true) {p q : Span} (hp : p ∈ r.spans) (hq : q ∈ r.spans)
    (ht : p.track = q.track) (hz : p.sector = q.sector) {k : Nat} (hpk : p.offset ≤ k ∧ k < p.offset + p.length)
    (hqk : q.offset ≤ k ∧ k < q.offset + q.length) : p = q := by
  obtain ⟨-, -, hapart⟩ := Recipe.valid_parts h
  have pairwise := spansApart_pairwise hapart
  have either : p = q ∨ p.apart q = true :=
    List.Pairwise.forall_of_forall_of_flip (R := fun p q => p = q ∨ p.apart q = true) (fun _ _ => .inl rfl)
      (pairwise.imp .inr) (pairwise.imp fun h => .inr (Span.apart_symm h)) hp hq
  refine either.resolve_right fun apart => ?_
  have := Span.apart_iff.1 apart ht hz
  omega

end Sys2Proof.Machine
end

section
/-! PROOFS. The physical order of a cylinder (R127). -/

namespace Sys2Proof.Machine

/-- The index that the model reads, `rotation` positions back around the track, is the one of integer arithmetic. -/
theorem backward_index {sectors rotation : Nat} (k : Nat) (hr : rotation < sectors) :
    (((k : Int) - (rotation : Int)) % (sectors : Int)).toNat = (k + sectors - rotation) % sectors := by
  have : (k : Int) - rotation = ((k + sectors - rotation : Nat) : Int) - sectors := by omega
  rw [this, Int.sub_emod_right, ← Int.natCast_emod, Int.toNat_natCast]

theorem Recipe.length_physicalOrder (r : Recipe) (c : Nat) : (r.physicalOrder c).length = r.sectors := by
  simp [Recipe.physicalOrder]

theorem Recipe.getElem?_physicalOrder (r : Recipe) (c : Nat) {k : Nat} (hk : k < r.sectors) :
    (r.physicalOrder c)[k]? =
      some (r.firstId + r.interleave.getD ((k + r.sectors - r.skew * c % r.sectors) % r.sectors) 0) := by
  simp [Recipe.physicalOrder, hk]

/-- The physical order is the interleave table with the entries of its end, as many as the rotation, moved to its
head. -/
theorem Recipe.physicalOrder_eq_rotation {r : Recipe} (h : r.interleave.length = r.sectors) (c : Nat) :
    r.physicalOrder c = (r.interleave.drop (r.sectors - r.skew * c % r.sectors)
      ++ r.interleave.take (r.sectors - r.skew * c % r.sectors)).map (r.firstId + ·) := by
  refine List.ext_getElem? fun k => ?_
  rcases Nat.lt_or_ge k r.sectors with hk | hk
  · have hrot : r.skew * c % r.sectors < r.sectors := Nat.mod_lt _ (by omega)
    have index : (k + r.sectors - r.skew * c % r.sectors) % r.sectors < r.interleave.length :=
      h ▸ Nat.mod_lt _ (by omega)
    rw [Recipe.getElem?_physicalOrder r c hk, List.getD_eq_getElem?_getD, List.getElem?_map]
    by_cases moved : k < r.skew * c % r.sectors
    · have wraps : (k + r.sectors - r.skew * c % r.sectors) % r.sectors = r.sectors - r.skew * c % r.sectors + k := by
        rw [Nat.mod_eq_of_lt (by omega)]
        omega
      rw [List.getElem?_append_left (by rw [List.length_drop]; omega), List.getElem?_drop, ← wraps,
        List.getElem?_eq_getElem index]
      rfl
    · have back : (k + r.sectors - r.skew * c % r.sectors) % r.sectors = k - r.skew * c % r.sectors := by
        rw [show k + r.sectors - r.skew * c % r.sectors = k - r.skew * c % r.sectors + r.sectors by omega,
          Nat.add_mod_right, Nat.mod_eq_of_lt (by omega)]
      have past : k - (r.interleave.length - (r.sectors - r.skew * c % r.sectors)) = k - r.skew * c % r.sectors := by
        omega
      rw [List.getElem?_append_right (by rw [List.length_drop]; omega), List.length_drop, past,
        List.getElem?_take_of_lt (by omega), ← back, List.getElem?_eq_getElem index]
      rfl
  · rw [List.getElem?_eq_none (by rw [Recipe.length_physicalOrder]; exact hk), List.getElem?_eq_none]
    rw [List.length_map, List.length_append, List.length_drop, List.length_take]
    omega

theorem Recipe.physicalOrder_perm_ids {r : Recipe} (h : r.valid = true) (c : Nat) :
    (r.physicalOrder c).Perm r.ids := by
  have perm := Recipe.interleave_perm h
  have whole : (r.interleave.drop (r.sectors - r.skew * c % r.sectors)
      ++ r.interleave.take (r.sectors - r.skew * c % r.sectors)).Perm r.interleave :=
    List.perm_append_comm.trans (.of_eq (List.take_append_drop _ _))
  rw [Recipe.physicalOrder_eq_rotation (perm.length_eq.trans List.length_range)]
  exact (whole.trans perm).map _

/-- Settles O55: the model's index is the rotation's, and a rotated table is the same table in another order. -/
theorem physicalOrderIsInterleavedAndRotated : Obligations.PhysicalOrderIsInterleavedAndRotated := by
  refine fun r c => ⟨r.length_physicalOrder c, fun k hk => ?_, fun h => Recipe.physicalOrder_perm_ids h c⟩
  dsimp only
  rw [Recipe.getElem?_physicalOrder r c hk, backward_index k (Nat.mod_lt _ (by omega))]

end Sys2Proof.Machine
end

section
/-! PROOFS. The checks of R131 and R35: what a record or a slot read with its own check leaves in the register. -/

namespace Sys2Proof.Machine

/-! ### The register (R131, R171) -/

/-- The register after one bit: doubled, the polynomial added where a bit falls out. -/
def crcBit (w poly c : Nat) : Nat := if c < 2 ^ (w - 1) then 2 * c else (2 * c - 2 ^ w) ^^^ poly

theorem crcBits_succ (w poly k c : Nat) : crcBits w poly (k + 1) c = crcBits w poly k (crcBit w poly c) := by
  rw [crcBits, ← crcBit]
  split <;> simp [*]

theorem crcBytes_cons (w poly : Nat) (b : Byte) (bs : List Byte) (c : Nat) : crcBytes w poly (b :: bs) c =
    crcBytes w poly bs (crcBits w poly 8 (c ^^^ (b.toNat <<< (w - 8)))) := by
  rw [crcBytes]
  split <;> simp [*]

theorem crcBytes_append (w poly : Nat) (xs ys : List Byte) (c : Nat) :
    crcBytes w poly (xs ++ ys) c = crcBytes w poly ys (crcBytes w poly xs c) := by
  induction xs generalizing c with
  | nil => rfl
  | cons x xs ih => rw [List.cons_append, crcBytes_cons, crcBytes_cons, ih]

section
variable {w poly : Nat} (hp : poly < 2 ^ w)
include hp

theorem crcBit_lt (hw : 0 < w) {c : Nat} (hc : c < 2 ^ w) : crcBit w poly c < 2 ^ w := by
  have hpow : 2 ^ w = 2 * 2 ^ (w - 1) := by rw [← Nat.pow_succ', Nat.succ_eq_add_one, Nat.sub_add_cancel hw]
  unfold crcBit
  split
  · omega
  · exact Nat.xor_lt_two_pow (by omega) hp

theorem crcBits_lt (hw : 0 < w) (k : Nat) {c : Nat} (hc : c < 2 ^ w) : crcBits w poly k c < 2 ^ w := by
  induction k generalizing c with
  | zero => exact hc
  | succ k ih =>
    rw [crcBits_succ]
    exact ih (crcBit_lt hp hw hc)

theorem crcBytes_lt (hw : 8 ≤ w) (bs : List Byte) {c : Nat} (hc : c < 2 ^ w) : crcBytes w poly bs c < 2 ^ w := by
  induction bs generalizing c with
  | nil => exact hc
  | cons b bs ih =>
    have hb : b.toNat <<< (w - 8) < 2 ^ w := by
      rw [Nat.shiftLeft_eq, show 2 ^ w = 2 ^ 8 * 2 ^ (w - 8) by rw [← Nat.pow_add, Nat.add_sub_cancel' hw]]
      exact Nat.mul_lt_mul_of_pos_right b.isLt (Nat.two_pow_pos _)
    rw [crcBytes_cons]
    exact ih (crcBits_lt hp (by omega) 8 (Nat.xor_lt_two_pow hc hb))

end

/-! ### A check read after the bytes it covers (R131) -/

/-- While no bit falls out, the register is only doubled. -/
theorem crcBits_doubles {w : Nat} (hw : 0 < w) (poly : Nat) {k c : Nat} (hc : c * 2 ^ k < 2 ^ w) :
    crcBits w poly k c = c * 2 ^ k := by
  induction k generalizing c with
  | zero => simp [crcBits]
  | succ k ih =>
    have hpow : 2 ^ w = 2 * 2 ^ (w - 1) := by rw [← Nat.pow_succ', Nat.succ_eq_add_one, Nat.sub_add_cancel hw]
    have hdouble : c * 2 ^ (k + 1) = 2 * c * 2 ^ k := by rw [Nat.pow_succ', ← Nat.mul_assoc, Nat.mul_comm c]
    have hle : 2 * c ≤ 2 * c * 2 ^ k := Nat.le_mul_of_pos_right _ (Nat.two_pow_pos k)
    rw [hdouble] at hc
    rw [crcBits_succ, crcBit, if_pos (by omega), ih hc, hdouble]

/-- The next byte of a number, added to a register whose upper bits hold the number's low bytes, clears itself. -/
theorem xor_top_byte {w j : Nat} (hj : 8 * (j + 1) ≤ w) (m : Nat) :
    (m % 2 ^ (8 * (j + 1))) <<< (w - 8 * (j + 1)) ^^^ ((byteOf (m >>> (8 * j))).toNat <<< (w - 8)) =
      (m % 2 ^ (8 * j)) <<< (w - 8 * (j + 1)) := by
  refine Nat.eq_of_testBit_eq fun i => ?_
  simp only [byteOf, BitVec.toNat_ofNat, Nat.testBit_xor, Nat.testBit_shiftLeft, Nat.testBit_mod_two_pow,
    Nat.testBit_shiftRight]
  by_cases hi : w - 8 ≤ i
  · have same : 8 * j + (i - (w - 8)) = i - (w - 8 * (j + 1)) := by omega
    have bound : i - (w - 8 * (j + 1)) < 8 * (j + 1) ↔ i - (w - 8) < 8 := by omega
    have above : ¬ i - (w - 8 * (j + 1)) < 8 * j := by omega
    have low : w - 8 * (j + 1) ≤ i := by omega
    simp [hi, same, bound, above, low]
  · by_cases low : w - 8 * (j + 1) ≤ i
    · have inside : i - (w - 8 * (j + 1)) < 8 * (j + 1) := by omega
      have below : i - (w - 8 * (j + 1)) < 8 * j := by omega
      simp [hi, low, inside, below]
    · simp [hi, low]

/-- A register that holds the low bytes of a number in its upper bits comes to 0 over those bytes. -/
theorem crcBytes_low_bytes (poly m : Nat) {w j : Nat} (hj : 8 * j ≤ w) :
    crcBytes w poly (beBytes j m) ((m % 2 ^ (8 * j)) <<< (w - 8 * j)) = 0 := by
  induction j with
  | zero => simp [beBytes, crcBytes, Nat.mod_one]
  | succ j ih =>
    have shifted : (m % 2 ^ (8 * j)) <<< (w - 8 * (j + 1)) * 2 ^ 8 = (m % 2 ^ (8 * j)) <<< (w - 8 * j) := by
      rw [Nat.shiftLeft_eq, Nat.shiftLeft_eq, Nat.mul_assoc, ← Nat.pow_add]
      congr 2
      omega
    have bound : (m % 2 ^ (8 * j)) <<< (w - 8 * j) < 2 ^ w := by
      rw [Nat.shiftLeft_eq]
      calc m % 2 ^ (8 * j) * 2 ^ (w - 8 * j) < 2 ^ (8 * j) * 2 ^ (w - 8 * j) :=
            Nat.mul_lt_mul_of_pos_right (Nat.mod_lt _ (Nat.two_pow_pos _)) (Nat.two_pow_pos _)
        _ = 2 ^ w := by rw [← Nat.pow_add]; congr 1; omega
    rw [beBytes, crcBytes_cons, xor_top_byte hj, crcBits_doubles (by omega) poly (shifted ▸ bound), shifted]
    exact ih (by omega)

/-- Bytes followed by their check leave the register at 0. -/
theorem crcBytes_checked {k poly init : Nat} (hk : 0 < k) (hp : poly < 2 ^ (8 * k)) (hi : init < 2 ^ (8 * k))
    (bs : List Byte) :
    crcBytes (8 * k) poly (bs ++ beBytes k (crcBytes (8 * k) poly bs init)) init = 0 := by
  have hc := crcBytes_lt hp (by omega) bs hi
  have zero := crcBytes_low_bytes poly (crcBytes (8 * k) poly bs init) (Nat.le_refl (8 * k))
  rw [Nat.mod_eq_of_lt hc, Nat.sub_self, Nat.shiftLeft_zero] at zero
  rw [crcBytes_append, zero]

theorem crc16_checked (bs : List Byte) : crc16 (bs ++ beBytes 2 (crc16 bs).toNat) = 0 := by
  have hc : crcBytes 16 0x1021 bs 0xFFFF < 2 ^ 16 := crcBytes_lt (by decide) (by decide) bs (by decide)
  rw [crc16, crc16, BitVec.toNat_ofNat, Nat.mod_eq_of_lt hc]
  exact congrArg (BitVec.ofNat 16) (crcBytes_checked (k := 2) (by decide) (by decide) (by decide) bs)

theorem crc32_checked (bs : List Byte) : crc32 (bs ++ beBytes 4 (crc32 bs).toNat) = 0 := by
  have hc : crcBytes 32 0x04C11DB7 bs 0xFFFFFFFF < 2 ^ 32 := crcBytes_lt (by decide) (by decide) bs (by decide)
  rw [crc32, crc32, BitVec.toNat_ofNat, Nat.mod_eq_of_lt hc]
  exact congrArg (BitVec.ofNat 32) (crcBytes_checked (k := 4) (by decide) (by decide) (by decide) bs)

end Sys2Proof.Machine
end

section
/-! PROOFS. The data of a sector as built (R130, R133). -/

namespace Sys2Proof.Machine

/-! ### Renditions (R133) -/

theorem length_decimalDigits (d n : Nat) : (decimalDigits d n).length = d := by
  induction d generalizing n with
  | zero => rfl
  | succ d ih => simp [decimalDigits, ih]

theorem getElem?_decimalDigits {d k : Nat} (n : Nat) (hk : k < d) :
    (decimalDigits d n)[k]? = some (byteOf (0x30 + n / 10 ^ (d - 1 - k) % 10)) := by
  induction d generalizing n with
  | zero => omega
  | succ d ih =>
    rw [decimalDigits]
    by_cases hlast : k = d
    · subst hlast
      rw [List.getElem?_append_right (Nat.le_of_eq (length_decimalDigits ..)), length_decimalDigits]
      simp
    · have hpow : 10 ^ (d + 1 - 1 - k) = 10 * 10 ^ (d - 1 - k) := by rw [← Nat.pow_succ']; congr 1; omega
      rw [List.getElem?_append_left (by rw [length_decimalDigits]; omega), ih (n / 10) (by omega),
        Nat.div_div_eq_div_mul, hpow]

theorem Span.rendition_binary {p : Span} (h : p.form = .binary) (n : Nat) : p.rendition n = beBytes 4 n := by
  rw [Span.rendition, h]

theorem Span.rendition_decimal {p : Span} (h : p.form = .decimal) (n : Nat) :
    p.rendition n = decimalDigits p.length n := by
  rw [Span.rendition, h]

/-- A span of a valid recipe is as long as its rendition. -/
theorem Recipe.length_rendition {r : Recipe} (h : r.valid = true) {p : Span} (hp : p ∈ r.spans) (n : Nat) :
    (p.rendition n).length = p.length := by
  cases hf : p.form with
  | binary => rw [Span.rendition_binary hf, beBytes_length, Recipe.span_binary h hp hf]
  | decimal => rw [Span.rendition_decimal hf, length_decimalDigits]

/-! ### Bytes put over others -/

/-- Bytes put over a sector's, each at its offset. -/
def overlay (ps : List (Nat × Byte)) (bs : List Byte) : List Byte := ps.foldl (fun bs c => bs.set c.1 c.2) bs

@[simp] theorem length_overlay (ps : List (Nat × Byte)) (bs : List Byte) : (overlay ps bs).length = bs.length := by
  induction ps generalizing bs with
  | nil => rfl
  | cons p ps ih => exact (ih _).trans List.length_set

theorem getElem?_overlay_of_not_mem {ps : List (Nat × Byte)} {k : Nat} (h : ∀ c ∈ ps, c.1 ≠ k) (bs : List Byte) :
    (overlay ps bs)[k]? = bs[k]? := by
  induction ps generalizing bs with
  | nil => rfl
  | cons p ps ih =>
    obtain ⟨hp, hps⟩ := List.forall_mem_cons.1 h
    exact (ih hps _).trans (List.getElem?_set_ne hp)

/-- A byte put at an offset stands there, when no other byte is put at the same offset. -/
theorem getElem?_overlay_of_mem {ps : List (Nat × Byte)} {k : Nat} {v : Byte} (hmem : (k, v) ∈ ps)
    (honly : ∀ b, (k, b) ∈ ps → b = v) {bs : List Byte} (hk : k < bs.length) : (overlay ps bs)[k]? = some v := by
  induction ps generalizing bs with
  | nil => cases hmem
  | cons p ps ih =>
    have rest : ∀ b, (k, b) ∈ ps → b = v := fun b hb => honly b (.tail _ hb)
    by_cases again : ∃ b, (k, b) ∈ ps
    · obtain ⟨b, hb⟩ := again
      exact ih (rest b hb ▸ hb) rest (by simpa using hk)
    · have here : p = (k, v) := by
        rcases List.mem_cons.1 hmem with h | h
        · exact h.symm
        · exact absurd ⟨v, h⟩ again
      have untouched : ∀ c ∈ ps, c.1 ≠ k := fun c hc hck => again ⟨c.2, hck ▸ hc⟩
      refine (getElem?_overlay_of_not_mem untouched (bs.set p.1 p.2)).trans ?_
      simp [here, hk]

/-! ### The stamp part (R102, R133) -/

theorem mem_zip_range' {o l k : Nat} {b : Byte} {bs : List Byte} :
    (k, b) ∈ (List.range' o l).zip bs ↔ (o ≤ k ∧ k < o + l) ∧ bs[k - o]? = some b := by
  simp only [List.mem_iff_getElem?, List.getElem?_zip_eq_some]
  constructor
  · rintro ⟨i, hk, hb⟩
    obtain ⟨hi, rfl⟩ := List.getElem?_eq_some_iff.1 hk
    simp only [List.length_range'] at hi
    simp [hi, hb]
  · rintro ⟨⟨hlow, hhigh⟩, hb⟩
    refine ⟨k - o, ?_, hb⟩
    rw [List.getElem?_range' (by omega)]
    congr 1
    omega

/-- The stamp part holds, for each byte of a span of the sector, the byte of the rendition. -/
theorem Recipe.mem_stampPart {r : Recipe} {t z n k : Nat} {b : Byte} : (k, b) ∈ r.stampPart t z n ↔
    ∃ p ∈ r.spans, (p.track = t ∧ p.sector = z) ∧ (p.offset ≤ k ∧ k < p.offset + p.length)
      ∧ (p.rendition n)[k - p.offset]? = some b := by
  simp only [Recipe.stampPart, List.mem_flatMap]
  refine exists_congr fun p => and_congr_right fun _ => ?_
  by_cases hs : p.track = t ∧ p.sector = z
  · simp only [if_pos hs, mem_zip_range', and_iff_right hs]
  · simp [hs]

/-! ### The data of a sector (R130) -/

/-- A sector's bytes before the stamp: its bytes of the slot, or fill bytes. -/
def Recipe.unstamped (r : Recipe) (kind : JobKind) (bytes : List Byte) (z : Nat) : List Byte :=
  match kind with
  | .copy => (bytes.drop ((z - r.firstId) * r.size)).take r.size
  | .format => List.replicate r.size r.fill

theorem Recipe.sectorData_eq_overlay (r : Recipe) (kind : JobKind) (bytes : List Byte) (t z n : Nat) :
    r.sectorData kind bytes t z n = overlay (r.stampPart t z n) (r.unstamped kind bytes z) := by
  cases kind <;> rfl

section
variable {r : Recipe} (kind : JobKind) {bytes : List Byte} (t n : Nat) {z : Nat}

theorem Recipe.length_sectorData (hz : z ∈ r.ids) (hb : bytes.length = r.sectors * r.size) :
    (r.sectorData kind bytes t z n).length = r.size := by
  rw [Recipe.sectorData_eq_overlay, length_overlay]
  cases kind with
  | format => exact List.length_replicate
  | copy =>
    obtain ⟨_, hz⟩ := Recipe.mem_ids.1 hz
    have room : (z - r.firstId + 1) * r.size ≤ r.sectors * r.size := Nat.mul_le_mul_right _ (by omega)
    rw [Nat.succ_mul] at room
    simp only [Recipe.unstamped, List.length_take, List.length_drop, hb]
    omega

/-- Under a span of the sector stands the rendition's byte. -/
theorem Recipe.sectorData_stamped (h : r.valid = true) (hz : z ∈ r.ids) (hb : bytes.length = r.sectors * r.size)
    {p : Span} (hp : p ∈ r.spans) (ht : p.track = t) (hs : p.sector = z) {k : Nat}
    (hk : p.offset ≤ k ∧ k < p.offset + p.length) :
    (r.sectorData kind bytes t z n)[k]? = (p.rendition n)[k - p.offset]? := by
  have covered : k - p.offset < (p.rendition n).length := by rw [Recipe.length_rendition h hp]; omega
  have byte := List.getElem?_eq_getElem covered
  have inside : k < (r.unstamped kind bytes z).length := by
    have := Recipe.length_sectorData kind t n hz hb
    rw [Recipe.sectorData_eq_overlay, length_overlay] at this
    have := Recipe.span_fits h hp
    omega
  rw [byte, Recipe.sectorData_eq_overlay]
  refine getElem?_overlay_of_mem (Recipe.mem_stampPart.2 ⟨p, hp, ⟨ht, hs⟩, hk, byte⟩) (fun b hmem => ?_) inside
  obtain ⟨q, hq, ⟨hqt, hqs⟩, hqk, hqb⟩ := Recipe.mem_stampPart.1 hmem
  obtain rfl := Recipe.span_unique h hp hq (ht.trans hqt.symm) (hs.trans hqs.symm) hk hqk
  exact Option.some_inj.1 (hqb.symm.trans byte)

/-- Beside the spans of the sector stands the byte of the slot or the fill byte. -/
theorem Recipe.sectorData_unstamped {k : Nat}
    (hk : ∀ p ∈ r.spans, p.track = t → p.sector = z → k < p.offset ∨ p.offset + p.length ≤ k) :
    (r.sectorData kind bytes t z n)[k]? = (r.unstamped kind bytes z)[k]? := by
  rw [Recipe.sectorData_eq_overlay]
  refine getElem?_overlay_of_not_mem (fun c hc hck => ?_) _
  obtain ⟨p, hp, ⟨ht, hs⟩, hin, _⟩ := Recipe.mem_stampPart.1 (hck ▸ hc : (k, c.2) ∈ r.stampPart t z n)
  have := hk p hp ht hs
  omega

end

section
variable (r : Recipe) (bytes : List Byte) (z : Nat) {k : Nat} (hk : k < r.size)
include hk

theorem Recipe.getElem?_unstamped_copy :
    (r.unstamped .copy bytes z)[k]? = bytes[(z - r.firstId) * r.size + k]? := by
  rw [Recipe.unstamped, List.getElem?_take_of_lt hk, List.getElem?_drop]

theorem Recipe.getElem?_unstamped_format : (r.unstamped .format bytes z)[k]? = some r.fill := by
  rw [Recipe.unstamped, List.getElem?_replicate, if_pos hk]

end

end Sys2Proof.Machine
end

section
/-! PROOFS. The built track, the build position and the stream (R124, R128 to R134). -/

namespace Sys2Proof.Machine

/-! ### The track as built (R128 to R130) -/

@[simp] theorem plain_value (bs : List Byte) : (plain bs).map (·.value) = bs := by simp [plain, Function.comp_def]

@[simp] theorem plain_marker (bs : List Byte) : (plain bs).map (·.marker) = List.replicate bs.length false := by
  simp [plain, Function.comp_def, List.map_const']

@[simp] theorem plain_length (bs : List Byte) : (plain bs).length = bs.length := List.length_map _

theorem Recipe.length_sectorTrack (r : Recipe) (kind : JobKind) (bytes : List Byte) (t z n : Nat) :
    (r.sectorTrack kind bytes t z n).length =
      2 * r.sync + 12 + (r.sectorData kind bytes t z n).length + r.gap2 + r.gap3 := by
  simp [Recipe.sectorTrack, markerPair, Recipe.idBytes]
  omega

theorem Recipe.sectorTrack_values (r : Recipe) (kind : JobKind) (bytes : List Byte) (t z n : Nat) :
    (r.sectorTrack kind bytes t z n).map (·.value) =
      List.replicate r.sync 0 ++ [r.idMarker, r.idMarker] ++ r.idBytes t z
      ++ beBytes 2 (r.idCheck (r.idBytes t z)).toNat ++ List.replicate r.gap2 r.fill
      ++ List.replicate r.sync 0 ++ [r.dataMarker, r.dataMarker] ++ r.sectorData kind bytes t z n
      ++ beBytes 2 (r.dataCheck (r.sectorData kind bytes t z n)).toNat ++ List.replicate r.gap3 r.fill := by
  simp [Recipe.sectorTrack, markerPair]

/-- Ordinary cells from the ID bytes to the second sync field's end. -/
theorem Recipe.sectorTrack_markers (r : Recipe) (kind : JobKind) (bytes : List Byte) (t z n : Nat) :
    (r.sectorTrack kind bytes t z n).map (·.marker) =
      List.replicate r.sync false ++ [true, true] ++ List.replicate (6 + r.gap2 + r.sync) false ++ [true, true]
      ++ List.replicate ((r.sectorData kind bytes t z n).length + 2 + r.gap3) false := by
  simp [Recipe.sectorTrack, markerPair, Recipe.idBytes, ← List.replicate_append_replicate]

/-- The track built is as long as R124 counts it. -/
theorem Recipe.length_buildTrack {r : Recipe} (kind : JobKind) {bytes : List Byte} (t n : Nat) (h : r.valid = true)
    (hb : bytes.length = r.sectors * r.size) : (r.buildTrack kind bytes t n).length = r.trackLength := by
  have each : ∀ z ∈ r.physicalOrder (r.cylinderOf t), (r.sectorTrack kind bytes t z n).length = r.sectorLength :=
    fun z hz => by
      rw [Recipe.length_sectorTrack,
        Recipe.length_sectorData kind t n ((Recipe.physicalOrder_perm_ids h _).mem_iff.1 hz) hb, Recipe.sectorLength]
  rw [Recipe.buildTrack, List.length_append, plain_length, List.length_replicate, List.length_flatMap,
    List.map_congr_left each, List.map_const', Recipe.length_physicalOrder, List.sum_replicate_nat,
    Recipe.trackLength]

/-- A FORMAT job's track holds nothing of a slot. -/
theorem Recipe.buildTrack_format (r : Recipe) (bytes bytes' : List Byte) (t n : Nat) :
    r.buildTrack .format bytes t n = r.buildTrack .format bytes' t n := rfl

/-! ### The build position (R134) -/

section
variable (r : Recipe)

theorem Recipe.buildPosition_gapI {x : Nat} (h : x < r.gapI) : r.buildPosition x = (.gapI, 0, x) := if_pos h

/-- The position in a sector, by the byte in it. -/
theorem Recipe.buildPosition_sector {k x : Nat} (hk : k < r.sectors) (hx : x < r.sectorLength) :
    r.buildPosition (r.gapI + k * r.sectorLength + x) =
      if x < r.sync + 8 then (.idRecord, k, x)
      else if x < r.sync + 8 + r.gap2 then (.gap2, k, x - (r.sync + 8))
      else if x < 2 * r.sync + 12 + r.gap2 + r.size then (.dataRecord, k, x - (r.sync + 8 + r.gap2))
      else (.gap3, k, x - (2 * r.sync + 12 + r.gap2 + r.size)) := by
  have room : (k + 1) * r.sectorLength ≤ r.sectors * r.sectorLength := Nat.mul_le_mul_right _ hk
  rw [Nat.succ_mul] at room
  have offset : r.gapI + k * r.sectorLength + x - r.gapI = x + k * r.sectorLength := by omega
  have sector : (x + k * r.sectorLength) / r.sectorLength = k := by
    rw [Nat.add_mul_div_right _ _ (by omega), Nat.div_eq_of_lt hx, Nat.zero_add]
  have byte : (x + k * r.sectorLength) % r.sectorLength = x := by
    rw [Nat.add_mul_mod_self_right, Nat.mod_eq_of_lt hx]
  rw [Recipe.buildPosition, if_neg (by omega), if_neg (by rw [Recipe.trackLength]; omega)]
  simp only [offset, sector, byte]

theorem Recipe.buildPosition_gap4 (x : Nat) : r.buildPosition (r.trackLength + x) = (.gap4, r.sectors, x) := by
  have start : r.gapI ≤ r.trackLength := Nat.le_add_right _ _
  rw [Recipe.buildPosition, if_neg (by omega), if_pos (by omega), Nat.add_sub_cancel_left]

end

/-! ### The stream (R132, R134) -/

section
variable {s : State}

theorem State.wdata_idle (h : s.tb = none) : s.wdata = none := by simp only [State.wdata, h]

theorem State.buildPosition_idle (h : s.tb = none) : s.buildPosition = none := by simp only [State.buildPosition, h]

variable {r : JobRecord} (hr : s.jc.record = some r)
include hr

theorem State.recipe_some : s.recipe = some r.recipe := by rw [State.recipe, hr]; rfl

section
variable {t : Nat} (hl : s.cs.disk.live = true) (ht : s.cs.disk.track = some t)
include hl ht

theorem State.builtTrack_current : s.builtTrack = r.recipe.buildTrack r.kind
    ((s.store.drivePinned.map (s.store.trackData r.recipe)).getD []) t (s.cs.disk.serial.getD 0) := by
  have current : s.cs.current = some t := by rw [Copy.current, if_pos hl, ht]
  simp only [State.builtTrack, hr, current]
  cases s.store.drivePinned <;> rfl

theorem State.builtTrack_copy {i : Nat} (hk : r.kind = .copy) (hi : s.store.drivePinned = some i) :
    s.builtTrack = r.recipe.buildTrack .copy (s.store.trackData r.recipe i) t (s.cs.disk.serial.getD 0) := by
  rw [State.builtTrack_current hr hl ht, hk, hi]
  rfl

theorem State.builtTrack_format (hk : r.kind = .format) :
    s.builtTrack = r.recipe.buildTrack .format [] t (s.cs.disk.serial.getD 0) := by
  rw [State.builtTrack_current hr hl ht, hk]
  exact Recipe.buildTrack_format ..

end

variable {w : Stream} (hw : s.tb = some w)
include hw

theorem State.buildPosition_streams :
    s.buildPosition = some (r.recipe.buildPosition (r.recipe.bytesIn (s.now - w.since))) := by
  simp only [State.buildPosition, hw, State.recipe_some hr]

theorem State.wdata_streams : s.wdata = if s.dp.wgate then
    some ((s.builtTrack[r.recipe.bytesIn (s.now - w.since)]?).getD { value := r.recipe.fill }) else none := by
  simp only [State.wdata, hw, State.recipe_some hr]

theorem State.wdata_closed (hg : s.dp.wgate = false) : s.wdata = none := by
  rw [State.wdata_streams hr hw, if_neg (by simp [hg])]

variable (hg : s.dp.wgate = true)
include hg

theorem State.wdata_track (hn : r.recipe.bytesIn (s.now - w.since) < s.builtTrack.length) :
    s.wdata = s.builtTrack[r.recipe.bytesIn (s.now - w.since)]? := by
  rw [State.wdata_streams hr hw, if_pos hg, List.getElem?_eq_getElem hn]
  rfl

theorem State.wdata_gap4 (hn : s.builtTrack.length ≤ r.recipe.bytesIn (s.now - w.since)) :
    s.wdata = some { value := r.recipe.fill } := by
  rw [State.wdata_streams hr hw, if_pos hg, List.getElem?_eq_none hn]
  rfl

end

/-- Settles O56: the length and the checks, the sector as built, and the track as the stream sends it. -/
theorem builtTrackHasItsLengthAndChecks : Obligations.BuiltTrackHasItsLengthAndChecks := by
  refine ⟨⟨fun r kind data t n h hb => ?_, crc16_checked, crc32_checked⟩,
    ⟨fun p n => ⟨fun hf => Span.rendition_binary hf n, fun hf => ?_⟩, fun r kind bytes t z n => ?_⟩,
    fun _ _ _ _ _ => rfl, fun s r hr => ?_, fun r k x => ?_⟩
  · exact Recipe.length_buildTrack kind t n h hb
  · rw [Span.rendition_decimal hf]
    exact ⟨length_decimalDigits _ n, fun k hk => getElem?_decimalDigits n hk⟩
  · refine ⟨r.sectorTrack_values kind bytes t z n, r.sectorTrack_markers kind bytes t z n, fun h hz hb => ?_⟩
    refine ⟨Recipe.length_sectorData kind t n hz hb, fun k hk => ⟨fun p hp ht hs hlow hhigh => ?_, fun hout => ?_⟩⟩
    · exact Recipe.sectorData_stamped kind t n h hz hb hp ht hs ⟨hlow, hhigh⟩
    · rw [Recipe.sectorData_unstamped kind t n hout]
      refine ⟨fun hc => ?_, fun hf => ?_⟩
      · rw [hc, r.getElem?_unstamped_copy bytes z hk]
      · rw [hf, r.getElem?_unstamped_format bytes z hk]
  · refine ⟨fun h => ⟨State.wdata_idle h, State.buildPosition_idle h⟩, fun t hl ht =>
      ⟨fun i hk hi => State.builtTrack_copy hr hl ht hk hi, State.builtTrack_format hr hl ht⟩, fun w hw => ?_⟩
    exact ⟨State.buildPosition_streams hr hw, State.wdata_closed hr hw, State.wdata_track hr hw,
      State.wdata_gap4 hr hw⟩
  · intro idEnd dataAt dataEnd sector n
    have hdata : dataEnd = 2 * r.sync + 12 + r.gap2 + r.size := by
      simp only [dataEnd, dataAt, idEnd, Recipe.size]
      omega
    have hsector : sector = r.sectorLength := by
      simp only [sector, hdata, Recipe.sectorLength]
      omega
    refine ⟨r.buildPosition_gapI, fun hk hx => ?_, ?_⟩
    · simp only [n, hsector, hdata]
      exact r.buildPosition_sector hk (hsector ▸ hx)
    · rw [hsector]
      exact r.buildPosition_gap4 x

end Sys2Proof.Machine
end

section
/-! PROOFS. The write gate law (R83, R138, R139): what it reads of a state, what leaves that as it is, and what drops
the gate. -/

namespace Sys2Proof.Machine

/-! ### What the law reads (R139) -/

theorem State.role_of_fixed {s t : State} (h : t.fixed = s.fixed) : t.role = s.role := by
  have roles := congrArg (Option.map FixedFields.role) h
  rwa [State.fixed, State.fixed, Option.map_map, Option.map_map] at roles

/-- The law reads four lines of the port, the step of the write, and the role. -/
theorem State.gateSound.same {s t : State} (hs : s.gateSound)
    (h : t.dp.wgate = s.dp.wgate ∧ t.dp.wprot = s.dp.wprot ∧ t.dp.motor = s.dp.motor ∧ t.dp.select = s.dp.select
      ∧ t.cs.state = s.cs.state ∧ t.cs.phase = s.cs.phase
      ∧ t.jc.record.map (·.fixed) = s.jc.record.map (·.fixed)) : t.gateSound := by
  obtain ⟨hgate, hprot, hmotor, hselect, hstate, hphase, hfixed⟩ := h
  rw [State.gateSound, hgate, hprot, State.role_of_fixed hfixed, hstate, hphase, hmotor, hselect]
  exact hs

/-! ### An inactive gate -/

theorem State.gateSound_shut {s : State} (h : s.dp.wgate = false) : s.gateSound := by
  simp [State.gateSound, h]

section
variable {s : State} (hs : s.gateSound)
include hs

theorem State.gateSound.shut_elsewhere (h : s.cs.state ≠ .write) : s.dp.wgate = false := by
  refine Bool.eq_false_iff.2 fun hg => ?_
  obtain ⟨-, -, hwrite, -⟩ := hs hg
  exact h hwrite

theorem State.gateSound.shut_between {p : WritePhase} (hp : s.cs.phase = some p)
    (h : p ≠ .writing ∧ p ≠ .completing) : s.dp.wgate = false := by
  refine Bool.eq_false_iff.2 fun hg => ?_
  obtain ⟨-, -, -, hphase, -⟩ := hs hg
  simp [hp, h] at hphase

theorem State.gateSound.shut_noJob (h : s.jc.record = none) : s.dp.wgate = false := by
  refine Bool.eq_false_iff.2 fun hg => ?_
  obtain ⟨-, hrole, -⟩ := hs hg
  simp [State.role, h] at hrole

end

/-! ### The Source Sequencer leaves MOTOR and SELECT (R111 to R116) -/

@[simp] theorem State.openQualify_turning (s : State) :
    s.openQualify.dp.motor = s.dp.motor ∧ s.openQualify.dp.select = s.dp.select := ⟨rfl, rfl⟩

@[simp] theorem State.endRead_turning (s : State) :
    s.endRead.dp.motor = s.dp.motor ∧ s.endRead.dp.select = s.dp.select := by
  cases hm : s.ss.read with
  | none => simp [State.endRead_idle hm]
  | some m => simp [State.endRead_reading hm]

@[simp] theorem State.sourceAbandon_turning (reason : AbandonReason) (s : State) :
    (s.sourceAbandon reason).dp.motor = s.dp.motor ∧ (s.sourceAbandon reason).dp.select = s.dp.select := by
  unfold State.sourceAbandon
  dsimp only
  repeat' split
  all_goals simp

@[simp] theorem State.readFailed_turning (reason : AbandonReason) (s : State) :
    (s.readFailed reason).dp.motor = s.dp.motor ∧ (s.readFailed reason).dp.select = s.dp.select := by
  unfold State.readFailed
  dsimp only
  repeat' split
  all_goals simp

@[simp] theorem State.startSearch_turning (s : State) :
    s.startSearch.dp.motor = s.dp.motor ∧ s.startSearch.dp.select = s.dp.select := by
  unfold State.startSearch
  split <;> simp

@[simp] theorem State.sourceSeekEnd_turning (good : Bool) (s : State) :
    (s.sourceSeekEnd good).dp.motor = s.dp.motor ∧ (s.sourceSeekEnd good).dp.select = s.dp.select := by
  unfold State.sourceSeekEnd
  repeat' split
  all_goals simp

@[simp] theorem State.trySlot_turning (s : State) :
    s.trySlot.dp.motor = s.dp.motor ∧ s.trySlot.dp.select = s.dp.select := by
  unfold State.trySlot
  dsimp only
  repeat' split
  all_goals simp

@[simp] theorem State.startRead_turning (t : Nat) (s : State) :
    (s.startRead t).dp.motor = s.dp.motor ∧ (s.startRead t).dp.select = s.dp.select := by
  simp [State.startRead]

@[simp] theorem State.readGood_turning (r : Recipe) (m : MasterRead) (i : Nat) (s : State) :
    (s.readGood r m i).dp.motor = s.dp.motor ∧ (s.readGood r m i).dp.select = s.dp.select := by
  simp [State.readGood]

@[simp] theorem State.serve_turning (t : Nat) (s : State) :
    (s.serve t).dp.motor = s.dp.motor ∧ (s.serve t).dp.select = s.dp.select := by
  unfold State.serve
  repeat' split
  all_goals simp

@[simp] theorem State.decision_turning (s : State) :
    s.decision.dp.motor = s.dp.motor ∧ s.decision.dp.select = s.dp.select := by
  unfold State.decision
  repeat' split
  all_goals simp

@[simp] theorem State.serveAppended_turning (s : State) :
    s.serveAppended.dp.motor = s.dp.motor ∧ s.serveAppended.dp.select = s.dp.select := by
  unfold State.serveAppended
  split <;> simp

@[simp] theorem State.sourceReleased_turning (t : Nat) (status : ReleaseStatus) (reason : ReleaseReason) (s : State) :
    (s.sourceReleased t status reason).dp.motor = s.dp.motor
    ∧ (s.sourceReleased t status reason).dp.select = s.dp.select := by
  unfold State.sourceReleased
  split <;> simp

@[simp] theorem State.sourceWithdrawn_turning (t : Nat) (reason : ReleaseReason) (s : State) :
    (s.sourceWithdrawn t reason).dp.motor = s.dp.motor ∧ (s.sourceWithdrawn t reason).dp.select = s.dp.select := by
  unfold State.sourceWithdrawn
  dsimp only
  repeat' split
  all_goals simp

@[simp] theorem State.sourceCutOff_turning (t : Nat) (reason : ReleaseReason) (s : State) :
    (s.sourceCutOff t reason).dp.motor = s.dp.motor ∧ (s.sourceCutOff t reason).dp.select = s.dp.select := by
  unfold State.sourceCutOff
  dsimp only
  repeat' split
  all_goals simp

@[simp] theorem State.sourceHomeEnd_turning (good : Bool) (s : State) :
    (s.sourceHomeEnd good).dp.motor = s.dp.motor ∧ (s.sourceHomeEnd good).dp.select = s.dp.select := by
  unfold State.sourceHomeEnd
  split <;> simp

@[simp] theorem State.sourceQualified_turning (s : State) :
    s.sourceQualified.dp.motor = s.dp.motor ∧ s.sourceQualified.dp.select = s.dp.select := by
  unfold State.sourceQualified
  dsimp only
  repeat' split
  all_goals simp

@[simp] theorem State.sourceNotQualified_turning (s : State) :
    s.sourceNotQualified.dp.motor = s.dp.motor ∧ s.sourceNotQualified.dp.select = s.dp.select := by
  unfold State.sourceNotQualified
  repeat' split
  all_goals simp

@[simp] theorem State.sourceNoIndex_turning (s : State) :
    s.sourceNoIndex.dp.motor = s.dp.motor ∧ s.sourceNoIndex.dp.select = s.dp.select := by
  unfold State.sourceNoIndex
  repeat' split
  all_goals simp


/-! ### What drops the gate (R88, R91, R138) -/

theorem State.endUse_shut (s : State) : s.endUse.dp.wgate = false := by
  rw [State.endUse_drive, Drive.stopMotor_eq]

theorem State.endDisk_shut (o : DiskOutcome) (s : State) : (s.endDisk o).dp.wgate = false := by
  unfold State.endDisk
  dsimp only
  split <;> simp [State.endUse_shut]

theorem State.reject_shut (f : DiskFault) (s : State) : (s.reject f).dp.wgate = false := State.endDisk_shut _ _

theorem State.stopMotor_shut (s : State) : s.stopMotor.dp.wgate = false := rfl

theorem State.toStandby_shut (s : State) : s.toStandby.dp.wgate = false := by
  simp [State.toStandby, State.stopMotor_shut]

theorem State.pullDisk_shut (s : State) : s.pullDisk.dp.wgate = false := by
  unfold State.pullDisk
  dsimp only
  repeat' split
  all_goals simp [State.endUse_shut]

theorem State.endJob_shut {s : State} {r : JobRecord} (cause : EndCause) (hr : s.jc.record = some r) :
    (s.endJob cause).dp.wgate = false := by
  simp [State.endJob_eq cause hr, Drive.dropGate]

/-! ### What leaves an inactive gate inactive -/

section
variable {s : State} (h : s.dp.wgate = false)
include h

theorem State.failedAttempt_shut (faults : List DiskFault) : (s.failedAttempt faults).dp.wgate = false := by
  rw [State.failedAttempt_eq]
  dsimp only
  repeat' split
  all_goals simp [State.endDisk_shut, State.attemptFailed, h]

theorem State.trackVerified_shut : s.trackVerified.dp.wgate = false := by
  unfold State.trackVerified
  dsimp only
  repeat' split
  all_goals simp [State.endDisk_shut, h]

theorem State.writeGood_shut : s.writeGood.dp.wgate = false := by
  unfold State.writeGood
  repeat' split
  all_goals simp [State.trackVerified_shut, h]

theorem State.judged_shut (faults : List DiskFault) : (s.judged faults).dp.wgate = false := by
  unfold State.judged
  split
  · exact State.writeGood_shut h
  · exact State.failedAttempt_shut h faults

theorem State.applyCheck_shut {r : Recipe} {u : Upset} {x : State} {fails : Bool} (hx : s.applyCheck r u = (x, fails)) :
    x.dp.wgate = false := by
  have kept : (s.applyCheck r u).1.dp.wgate = s.dp.wgate := by simp
  rwa [hx, h] at kept

theorem State.verifyJudged_shut (fault : Option DiskFault) : (s.verifyJudged fault).dp.wgate = false := by
  cases fault with
  | none => exact State.trackVerified_shut h
  | some f => exact State.failedAttempt_shut h [f]

theorem State.verifyEnd_shut (u : Upset) : (s.verifyEnd u).dp.wgate = false := by
  cases hv : s.vu with
  | none => simpa only [State.verifyEnd, hv] using h
  | some v =>
    cases hr : s.jc.record with
    | none => simpa only [State.verifyEnd, hv, hr] using h
    | some r =>
      have answered : (s.verifyAnswered v).dp.wgate = false := h
      by_cases hc : r.recipe.verify = .full ∧ r.kind = .copy
      · obtain ⟨hm, hk⟩ := hc
        rcases hx : (s.verifyAnswered v).applyCheck r.recipe u with ⟨x, fails⟩
        have used : x.dp.wgate = false := State.applyCheck_shut answered hx
        rw [State.verifyEnd_full u hr hv hm hk hx]
        split
        · simp [used]
        · exact State.verifyJudged_shut used v.fault
      · have unused : r.recipe.verify ≠ .full ∨ r.kind = .format := by
          cases hk : r.kind <;> simp_all
        rw [State.verifyEnd_unused u hr hv (unused.imp_right Or.inl)]
        exact State.verifyJudged_shut answered v.fault

theorem State.copyNoIndex_shut : s.copyNoIndex.dp.wgate = false := by
  unfold State.copyNoIndex
  repeat' split
  · exact State.failedAttempt_shut (by exact h) _
  · exact State.failedAttempt_shut (by simpa using h) _
  · exact h

theorem State.tellNoIndex_shut : s.tellNoIndex.dp.wgate = false := by
  unfold State.tellNoIndex
  split
  · exact State.copyNoIndex_shut h
  · simpa using h
  · exact h

theorem State.copySeekEnd_shut (good : Bool) : (s.copySeekEnd good).dp.wgate = false := by
  unfold State.copySeekEnd
  repeat' split
  all_goals simp [State.reject_shut, h]

theorem State.askClaim_shut : s.askClaim.dp.wgate = false := by
  unfold State.askClaim
  repeat' split
  all_goals simp [State.toStandby_shut, h]

theorem State.copyHomeEnd_shut (good : Bool) : (s.copyHomeEnd good).dp.wgate = false := by
  unfold State.copyHomeEnd
  split
  · exact State.askClaim_shut h
  · exact State.reject_shut _ _

end

end Sys2Proof.Machine
end

section
/-! PROOFS. The write gate law (R139) through the copy cycle, the Distribution Unit, and the frames sent and heard. -/

namespace Sys2Proof.Machine

/-! ### The copy cycle keeps the law (R62 to R64, R68, R78 to R83, R89 to R91) -/

section
variable {s : State} (hs : s.gateSound)
include hs

theorem State.askClaim_gateSound : s.askClaim.gateSound := by
  unfold State.askClaim
  repeat' split
  · exact hs.same (by simp)
  · exact State.gateSound_shut (State.toStandby_shut s)
  · exact hs

/-- A change of a cycle that is in no write keeps the law where it keeps the gate. -/
theorem State.gateSound_elsewhere {t : State} (h : s.cs.state ≠ .write) (ht : t.dp.wgate = s.dp.wgate) :
    t.gateSound :=
  State.gateSound_shut (ht.trans (hs.shut_elsewhere h))

theorem State.pulledUnclaimed_gateSound : s.pulledUnclaimed.gateSound := by
  unfold State.pulledUnclaimed
  split
  next h => exact State.gateSound_elsewhere hs (by simp [h.1]) (by simp)
  next => exact hs

theorem State.claimWithdrawn_gateSound : s.claimWithdrawn.gateSound := by
  unfold State.claimWithdrawn
  split
  · exact State.gateSound_shut (State.toStandby_shut s)
  · exact State.pulledUnclaimed_gateSound hs

theorem State.claimRefill_gateSound : s.claimRefill.gateSound := by
  unfold State.claimRefill
  repeat' split
  · exact hs.same (by simp)
  · exact State.claimWithdrawn_gateSound (hs.same (by simp))
  all_goals exact hs

theorem State.claimAgain_gateSound : s.claimAgain.gateSound := by
  unfold State.claimAgain
  split
  · exact State.askClaim_gateSound hs
  · exact hs

theorem State.startTest_gateSound : s.startTest.gateSound := by
  by_cases h : s.cs.state = .standby
  · exact State.gateSound_elsewhere hs (by simp [h]) (by simp)
  · rwa [State.startTest_elsewhere h]

theorem State.fetchTry_gateSound : s.fetchTry.gateSound := by
  by_cases h : s.cs.state = .fetch
  · exact State.gateSound_elsewhere hs (by simp [h]) (by simp)
  · rwa [State.fetchTry_elsewhere h]

/-- A serial enters a disk in CLAIM, or one that has been pulled. -/
theorem State.claimEntered_gateSound (v : Nat) : (s.claimEntered v).gateSound := by
  by_cases h : s.cs.state = .write
  · simpa [State.claimEntered, h] using hs
  · exact State.gateSound_elsewhere hs h (by simp)

theorem State.serialLost_gateSound : s.serialLost.gateSound := by
  unfold State.serialLost
  repeat' split
  · exact State.gateSound_shut (State.reject_shut _ _)
  next h => exact State.gateSound_elsewhere hs (by simp [h.1]) (by simp)
  · exact hs

theorem State.unobtainable_gateSound : s.unobtainable.gateSound := by
  unfold State.unobtainable
  split
  · exact State.gateSound_shut (State.reject_shut _ _)
  · exact hs

theorem State.tellClaim_gateSound (v : Nat) (fate : ClaimFate) : (s.tellClaim v fate).gateSound := by
  unfold State.tellClaim
  repeat' split
  · exact hs
  · exact State.claimEntered_gateSound hs v
  · exact hs
  · exact State.serialLost_gateSound hs
  · exact hs
  · exact State.claimEntered_gateSound hs v
  · exact State.serialLost_gateSound hs
  · exact hs

theorem State.tallyDone_gateSound (o : DiskOutcome) : (s.tallyDone o).gateSound := by
  by_cases h : s.cs.state = .write
  · simpa [State.tallyDone, h] using hs
  · exact State.gateSound_elsewhere hs h (by simp)

theorem State.settleByDiskin_gateSound : s.settleByDiskin.gateSound := by
  by_cases h : s.cs.state = .write
  · simpa [State.settleByDiskin, h] using hs
  · exact State.gateSound_elsewhere hs h (by simp)

theorem State.copyUnseated_gateSound : s.copyUnseated.gateSound := by
  unfold State.copyUnseated
  split
  · exact State.gateSound_shut (State.pullDisk_shut s)
  · exact State.settleByDiskin_gateSound hs

theorem State.copyQualified_gateSound : s.copyQualified.gateSound := by
  unfold State.copyQualified
  split
  next h _ =>
    have shut : s.dp.wgate = false := hs.shut_elsewhere (by simp [h])
    dsimp only
    split
    · exact State.gateSound_shut (State.copyHomeEnd_shut (by simp [shut]) true)
    · exact State.gateSound_shut (by simp [shut])
  next =>
    split
    next hp => exact State.gateSound_shut (hs.shut_between hp (by simp))
    next => exact hs
  next => exact hs

theorem State.copyNotQualified_gateSound (seen : Bool) : (s.copyNotQualified seen).gateSound := by
  unfold State.copyNotQualified
  split
  · exact State.gateSound_shut (State.reject_shut _ _)
  · exact hs

theorem State.armedEdge_gateSound (h : s.cs.state = .write) : s.armedEdge.gateSound := by
  unfold State.armedEdge
  split
  · exact State.gateSound_shut (State.reject_shut _ _)
  split
  next hallowed =>
    obtain ⟨hprot, hrole, hmotor, hselect, -⟩ := State.gateAllowed_iff.1 hallowed
    exact fun _ => ⟨hprot, hrole, h, Or.inl rfl, hmotor, hselect⟩
  next => exact hs

theorem State.writeEdge_gateSound : s.writeEdge.gateSound := by
  unfold State.writeEdge
  split
  next h =>
    split
    · exact State.armedEdge_gateSound hs h
    · intro hg
      obtain ⟨hprot, hrole, -, -, hturn⟩ := hs hg
      exact ⟨hprot, hrole, h, Or.inr rfl, hturn⟩
    · exact hs
  next => exact hs

end

/-! ### The Distribution Unit keeps the law (R42, R50, R51, R58) -/

section
variable {s : State} (hs : s.gateSound)
include hs

theorem State.needTestOf_gateSound (u : Nat) : (s.needTestOf u).gateSound := by
  unfold State.needTestOf
  repeat' split
  · exact hs
  · exact State.unobtainable_gateSound hs
  · exact hs.same (by simp)
  all_goals exact hs

theorem State.needTest_gateSound : s.needTest.gateSound := by
  unfold State.needTest
  generalize s.window = l
  induction l generalizing s with
  | nil => exact hs
  | cons u l ih => exact ih (State.needTestOf_gateSound hs u)

theorem State.repairFeed_gateSound : s.repairFeed.gateSound :=
  hs.same (by simp)

theorem State.settle_gateSound (before : State) : (s.settle before).gateSound := by
  have fed := State.repairFeed_gateSound hs
  unfold State.settle
  dsimp only
  repeat' split
  · exact State.repairFeed_gateSound (State.needTest_gateSound fed)
  · exact State.repairFeed_gateSound (State.needTest_gateSound hs)
  · exact State.repairFeed_gateSound fed
  · exact fed

theorem State.lostRelease_gateSound (t : Nat) : (s.lostRelease t).gateSound := by
  have left : ((s.removeWant t).mapDu fun du => { du with lost := insertTrack t du.lost }).gateSound :=
    hs.same (by simp)
  unfold State.lostRelease
  dsimp only
  split
  · exact State.unobtainable_gateSound left
  · exact left

theorem State.giveUp_gateSound (t : Nat) : (s.giveUp t).gateSound := by
  have left : (s.removeWant t).gateSound := hs.same (by simp)
  unfold State.giveUp
  dsimp only
  split
  · exact State.unobtainable_gateSound left
  · refine left.same ?_
    simp [JobRecord.fixed, Function.comp_def]

theorem State.wantExpired_gateSound (w : Want) (j : JobId) : (s.wantExpired w j).gateSound := by
  unfold State.wantExpired
  repeat' split
  · exact hs
  · exact hs.same (by simp)
  · exact State.giveUp_gateSound hs _
  all_goals exact hs.same (by simp)

end
/-! ### Frames and their completion keep the law (R16, R63, R66, R70, R152, R159) -/

section
variable {s : State} (hs : s.gateSound)
include hs

theorem State.afterCompletion_gateSound (before : State) : (s.afterCompletion before).gateSound := by
  have returned : (before.holdOffReturn s).gateSound := hs.same (by simp)
  rw [State.afterCompletion]
  exact (State.claimAgain_gateSound (State.claimRefill_gateSound returned)).same (by simp)

/-- A completion keeps the law where the frame's own rule does. -/
theorem State.completed_gateSound {α : Type} {raw : List Byte} {body : Option α} {k : α → Option FrameKey}
    {i : StationId} {apply : α → State → State}
    (happly : ∀ (b : α) (x : State), x.gateSound → (apply b x).gateSound) :
    (s.completed raw body k i apply).gateSound := by
  unfold State.completed
  split
  · split
    · exact hs
    · cases body with
      | none => exact hs.same (by simp)
      | some b =>
        have left : ((s.ownLeaves (k b) i).endViewOf i).gateSound :=
          hs.same (by simp)
        exact State.afterCompletion_gateSound (happly b _ left) s
  · exact hs

theorem State.inJob_gateSound {j : JobId} {note apply : State → State} (hnote : (note s).gateSound)
    (happly : (apply s).gateSound) : (s.inJob j note apply).gateSound := by
  unfold State.inJob
  split
  · split
    · exact happly
    · exact hs
  · exact hnote

theorem State.setNote_gateSound (j : JobId) : (s.setNote j).gateSound :=
  hs.same (by simp)

theorem State.clearNote_gateSound (j : JobId) : (s.clearNote j).gateSound :=
  hs.same (by simp)

theorem State.endJob_gateSound (cause : EndCause) : (s.endJob cause).gateSound := by
  cases hr : s.jc.record with
  | none => simpa only [State.endJob, hr] using hs
  | some r => exact State.gateSound_shut (State.endJob_shut cause hr)

theorem State.setNextBase_gateSound (g : JobRecord → Nat) : (s.setNextBase g).gateSound := by
  refine hs.same ?_
  unfold State.setNextBase
  repeat' split
  all_goals simp

/-- A record of the same fixed part gives the station the same role. -/
theorem State.setRecord_gateSound {r u : JobRecord} (hr : s.jc.record = some r) (hu : u.fixed = r.fixed) :
    State.gateSound { s with jc := { s.jc with record := some u } } :=
  hs.same (by simp [hr, hu])

theorem State.claimHeard_gateSound (i : StationId) (v c : Nat) : (s.claimHeard i v c).gateSound := by
  cases hr : s.jc.record with
  | none => simpa only [State.claimHeard, hr] using hs
  | some r =>
    by_cases hp : r.claimPasses i v = true
    · have counted : (s.setAccount (r.applyClaim i v c).1).gateSound := State.setRecord_gateSound hs hr (by simp)
      have told := State.tellClaim_gateSound counted v (r.applyClaim i v c).2
      simp only [State.claimHeard, hr, hp, if_true]
      exact State.startTest_gateSound (told.same (by simp))
    · simp only [State.claimHeard, hr, if_neg hp]
      exact hs.same (by simp)

theorem State.tallyHeard_gateSound (i : StationId) (b : TallyBody) : (s.tallyHeard i b).gateSound := by
  cases hr : s.jc.record with
  | none => simpa only [State.tallyHeard, hr] using hs
  | some r =>
    by_cases hp : r.tallyPasses i b = true
    · have counted : (s.setAccount (r.applyTally i b).1).gateSound := State.setRecord_gateSound hs hr (by simp)
      have applied : (s.tallyApplied i b r).gateSound := State.tellClaim_gateSound counted 0 _
      have tested : (s.tallyTested i b r).gateSound := applied.same (by simp)
      rw [State.tallyHeard_passes hr hp]
      split
      · exact State.startTest_gateSound (State.tallyDone_gateSound tested b.outcome)
      · exact State.startTest_gateSound tested
    · rw [State.tallyHeard_fails hr (by simpa using hp)]
      exact hs.same (by simp)

theorem State.depart_gateSound (i : StationId) : (s.depart i).gateSound := by
  cases hr : s.jc.record with
  | none => simpa only [State.depart, hr] using hs
  | some r =>
    by_cases hin : (inMask r.roster i && !inMask r.departed i) = true
    · obtain ⟨hroster, hout⟩ : inMask r.roster i = true ∧ inMask r.departed i = false := by simpa using hin
      have left : State.gateSound { s with jc := { s.jc with record := some (r.departing i) } } :=
        State.setRecord_gateSound hs hr (by simp [JobRecord.departing, JobRecord.fixed])
      by_cases hl : (r.departing i).remaining = []
      · rw [State.depart_last hr hroster hout hl]
        exact State.endJob_gateSound left _
      · by_cases hc : r.comesToClose i s.station
        · rw [State.depart_closes hr hroster hout hl hc]
          exact State.startTest_gateSound (left.same (by simp))
        · rw [State.depart_stays hr hroster hout hl hc]
          exact State.startTest_gateSound (left.same (by simp))
    · simpa only [State.depart, hr, if_neg hin] using hs

theorem State.callFirstHeard_gateSound (i : StationId) (b : CallBody) : (s.callFirstHeard i b).gateSound := by
  have departed : ((s.present i b).depart i).gateSound :=
    State.depart_gateSound (hs.same (by simp)) i
  unfold State.callFirstHeard
  dsimp only
  split
  · exact departed
  · exact departed.same (by simp)

/-- With no record held the gate is inactive, and a JOB OPEN leaves it so. -/
theorem State.openHeard_gateSound (f : Rx) (b : OpenBody) : (s.openHeard f b).gateSound := by
  cases hr : s.jc.record with
  | none => exact State.gateSound_shut (by simp [hs.shut_noJob hr])
  | some r => simpa only [State.openHeard, hr] using hs

theorem State.stopHeard_gateSound : s.stopHeard.gateSound := by
  refine hs.same ?_
  unfold State.stopHeard
  repeat' split
  all_goals simp

theorem State.ownWant_gateSound (b : WantBody) : (s.ownWant b).gateSound :=
  hs.same (by simp)

theorem State.otherWant_gateSound (b : WantBody) : (s.otherWant b).gateSound := by
  refine hs.same ?_
  unfold State.otherWant
  dsimp only
  split <;> simp

theorem State.releaseMarked_gateSound (b : ReleaseBody) : (s.releaseMarked b).gateSound := by
  unfold State.releaseMarked
  split
  · exact hs.same (by simp)
  · exact State.lostRelease_gateSound hs b.track

theorem State.releaseHeard_gateSound (own : Bool) (origin : Option ReleaseOrigin) (b : ReleaseBody) :
    (s.releaseHeard own origin b).gateSound := by
  have filled : ((if own then s else s.suppressAnswers b.track).settleFill b).gateSound := by
    refine hs.same ?_
    split <;> simp
  have marked := State.releaseMarked_gateSound filled b
  rw [State.releaseHeard_eq]
  dsimp only
  refine State.fetchTry_gateSound ?_
  split
  · exact marked.same (by simp)
  · exact marked

/-! ### Frames offered, and frames that leave the queue unsent (R36, R151, R152, R154) -/

theorem State.dropped_gateSound (b : Body) : (s.dropped b).gateSound := by
  unfold State.dropped
  split
  case h_3 => exact State.pulledUnclaimed_gateSound hs
  case h_2 =>
    refine hs.same ?_
    split <;> simp
  case h_7 => exact hs
  all_goals exact hs.same (by simp)

theorem State.faultFrame_gateSound (f : Frame) : (s.faultFrame f).gateSound := by
  unfold State.faultFrame
  dsimp only
  split
  · refine hs.same ?_
    split <;> simp
  · exact State.dropped_gateSound (hs.same (by simp)) f.body

theorem State.loseFrame_gateSound (f : Frame) : (s.loseFrame f).gateSound := by
  have left : ((s.stopFrame f.key).raiseLoss f.key).releaseLinkPin.gateSound :=
    hs.same (by simp)
  unfold State.loseFrame
  dsimp only
  split
  · exact State.claimRefill_gateSound left
  · exact left.same (by simp)
  · exact left

theorem State.cutOff_gateSound (f : Frame) (u : Upset) : (s.cutOff f u).gateSound := by
  refine hs.same ?_
  have cut (x : State) (i : Nat) :
      (x.cutFrame f i).dp.motor = x.dp.motor ∧ (x.cutFrame f i).dp.select = x.dp.select := by
    unfold State.cutFrame
    dsimp only
    repeat' split
    all_goals simp
  unfold State.cutOff
  dsimp only
  repeat' split
  all_goals simp [cut]

theorem State.withdrawnAtOffer_gateSound (t : Nat) (reason : ReleaseReason) (o : ReleaseOrigin) :
    (s.withdrawnAtOffer t reason o).gateSound := by
  refine hs.same ?_
  unfold State.withdrawnAtOffer
  dsimp only
  split <;> simp

theorem State.offer_gateSound (fuel : Nat) : (State.offer fuel s).gateSound := by
  induction fuel generalizing s with
  | zero => exact hs
  | succ n ih =>
    unfold State.offer
    split
    · exact hs
    · split
      · split
        · exact hs.same (by simp)
        · exact ih (State.withdrawnAtOffer_gateSound hs _ _ _)
      · exact hs.same (by simp)
      · exact hs.same (by simp)

theorem State.startArbitration_gateSound : s.startArbitration.gateSound := by
  unfold State.startArbitration
  dsimp only
  repeat' split
  · exact hs
  · exact State.offer_gateSound (s := s.listening) hs _
  · exact hs

theorem State.placeFreed_gateSound : s.placeFreed.gateSound := by
  have asked : (s.holdOffTest.abandonFromReserve.closeTest.stopFromReserve).gateSound :=
    hs.same (by simp)
  rw [State.placeFreed]
  exact (State.claimAgain_gateSound asked).same (by simp)

end

end Sys2Proof.Machine
end

section
/-! PROOFS. Every step keeps the write gate law (R139): the events of the drive port and of the surface, start-up,
and the step. -/

namespace Sys2Proof.Machine

/-! ### The drive port's events keep the law (R79 to R85, R91, R104, R117, R139, R141 to R148) -/

section
variable {s : State} (hs : s.gateSound)
include hs

theorem State.tellQualified_gateSound : s.tellQualified.gateSound := by
  unfold State.tellQualified
  split
  · exact State.copyQualified_gateSound hs
  · exact hs.same (by simp)
  · exact hs

theorem State.tellNotQualified_gateSound (seen : Bool) : (s.tellNotQualified seen).gateSound := by
  unfold State.tellNotQualified
  split
  · exact State.copyNotQualified_gateSound hs seen
  · exact hs.same (by simp)
  · exact hs

theorem State.tellSeek_gateSound (good : Bool) : (s.tellSeek good).gateSound := by
  unfold State.tellSeek
  split
  · split
    next h => exact State.gateSound_shut (State.copySeekEnd_shut (hs.shut_between h.2 (by simp)) good)
    next => exact hs
  · refine hs.same ?_
    repeat' split
    all_goals simp
  · exact hs

theorem State.tellRecalibrate_gateSound (good : Bool) : (s.tellRecalibrate good).gateSound := by
  unfold State.tellRecalibrate
  split
  · split
    next h => exact State.gateSound_shut (State.copyHomeEnd_shut (hs.shut_elsewhere (by simp [h])) good)
    next => exact hs
  · refine hs.same ?_
    split <;> simp
  · exact hs

theorem State.tellMotion_gateSound (res : MotionResult) : (s.tellMotion res).gateSound := by
  cases res with
  | going => exact hs
  | seekGood => exact State.tellSeek_gateSound hs true
  | seekFailed => exact State.tellSeek_gateSound hs false
  | recalibrateGood => exact State.tellRecalibrate_gateSound hs true
  | recalibrateFailed => exact State.tellRecalibrate_gateSound hs false

theorem State.stepEnds_gateSound (trk0 : Bool) : (s.stepEnds trk0).gateSound := by
  unfold State.stepEnds
  dsimp only
  repeat' split
  · exact hs
  · exact State.tellMotion_gateSound (hs.same (by simp)) _
  · exact hs

theorem State.settleEnds_gateSound (trk0 : Bool) : (s.settleEnds trk0).gateSound := by
  unfold State.settleEnds
  dsimp only
  repeat' split
  · exact State.tellMotion_gateSound (hs.same (by simp)) _
  · exact hs
  · exact hs

theorem State.index_gateSound (time : Nat) (trk0 : Bool) : (s.index time trk0).gateSound := by
  have edge : ((s.tickTo time).mapDrive fun dp =>
      { dp with trk0 := trk0 }.indexEdge (s.tickTo time).recipe (s.tickTo time).now).gateSound :=
    hs.same (by simp)
  have written := State.writeEdge_gateSound edge
  unfold State.index State.qualifyEdge
  dsimp only
  repeat' split
  · exact State.tellQualified_gateSound (written.same (by simp))
  · exact written
  · exact written

theorem State.writeCompletes_gateSound (u : Upset) : (s.writeCompletes u).gateSound := by
  cases hr : s.jc.record with
  | none => simpa only [State.writeCompletes, hr] using hs
  | some r =>
    by_cases hc : s.cs.state = .write ∧ s.cs.phase = some .completing
    · obtain ⟨hw, hp⟩ := hc
      have stopped : s.writeStopped.dp.wgate = false := rfl
      cases hk : r.kind with
      | copy =>
        rcases hx : s.writeStopped.applyCheck r.recipe u with ⟨x, fails⟩
        rw [State.writeCompletes_copy u hr hw hp hk hx]
        exact State.gateSound_shut (State.judged_shut (State.applyCheck_shut stopped hx) _)
      | format =>
        rw [State.writeCompletes_unpinned u hr hw hp (.inl hk)]
        exact State.gateSound_shut (State.judged_shut stopped _)
    · rwa [State.writeCompletes_elsewhere u (Classical.not_and_iff_not_or_not.1 hc)]

theorem State.counterExpires_gateSound (u : Upset) : (s.counterExpires u).gateSound := by
  unfold State.counterExpires
  dsimp only
  repeat' split
  next h => exact State.gateSound_shut (State.verifyEnd_shut (by simp [hs.shut_elsewhere (by simp [h.1])]) u)
  all_goals exact hs.same (by simp)

theorem State.indexAbsent_gateSound : s.indexAbsent.gateSound := by
  unfold State.indexAbsent
  repeat' split
  · exact State.gateSound_shut (State.tellNoIndex_shut rfl)
  · exact hs
  · exact hs

theorem State.limitExpires_gateSound : s.limitExpires.gateSound := by
  unfold State.limitExpires
  split
  · exact State.tellNotQualified_gateSound (hs.same (by simp)) _
  · exact hs

theorem State.seated_gateSound : s.seated.gateSound := by
  unfold State.seated
  dsimp only
  have line : (s.diskinLine true).gateSound := hs.same (by simp [State.diskinLine])
  repeat' split
  · exact hs
  · exact line
  next h =>
    refine State.startTest_gateSound (State.gateSound_elsewhere line ?_ ?_)
    · simp [h]
    · simp
  · exact line

theorem State.masterRemoved_gateSound : s.masterRemoved.gateSound := by
  unfold State.masterRemoved
  dsimp only
  split
  · split <;> exact State.gateSound_shut (by simp [State.stopMotor_shut])
  · exact hs

theorem State.unseated_gateSound : s.unseated.gateSound := by
  have line : (s.diskinLine false).gateSound := hs.same (by simp [State.diskinLine])
  have opened : (s.diskinLine false).withdrawCopyOpen.copyUnseated.gateSound :=
    State.copyUnseated_gateSound (line.same (by simp))
  unfold State.unseated
  dsimp only
  repeat' split
  · exact line
  · exact State.masterRemoved_gateSound opened
  · exact opened
  · exact hs

theorem State.wprotTo_gateSound (active : Bool) : (s.wprotTo active).gateSound := by
  by_cases h : active = false ∨ s.dp.wgate = false
  · rw [State.wprotTo_line h]
    intro hg
    obtain ⟨-, hrest⟩ := hs hg
    exact ⟨h.resolve_right (by simpa using hg), hrest⟩
  · obtain ⟨rfl, hg⟩ : active = true ∧ s.dp.wgate = true := by simpa using h
    rw [State.wprotTo_drops hg]
    dsimp only
    split
    · exact State.gateSound_shut (State.reject_shut _ _)
    · exact State.gateSound_shut rfl

theorem State.ejectEnd_gateSound : s.ejectEnd.gateSound := by
  refine hs.same ?_
  unfold State.ejectEnd
  dsimp only
  repeat' split
  all_goals simp

end

/-! ### What is read from the surface (R99 to R104, R112, R113) -/

theorem State.verifyData_shut {s : State} {r : JobRecord} {v : VerifyRecord} (data : List Byte) (check : BitVec 16)
    (u : Upset) (h : s.dp.wgate = false) : (s.verifyData r v data check u).dp.wgate = false := by
  unfold State.verifyData
  dsimp only
  repeat' split
  · exact State.verifyEnd_shut (by exact h) []
  · exact h
  · exact State.verifyEnd_shut (by exact h) []
  · exact h
  · exact h

/-- A verify runs in VERIFY alone. -/
theorem State.verifying_state {s : State} {v : VerifyRecord} (h : s.verifying = some v) : s.cs.state = .verify := by
  unfold State.verifying at h
  split at h
  next hv => exact hv
  next => cases h

section
variable {s : State} (hs : s.gateSound)
include hs

theorem State.masterId_gateSound (q : Recipe) (m : MasterRead) (c h y : Byte) (z : Nat) (good : Bool) :
    (s.masterId q m c h y z good).gateSound := by
  refine hs.same ?_
  unfold State.masterId
  repeat' split
  all_goals simp

theorem State.masterData_gateSound (q : Recipe) (m : MasterRead) (data : List Byte) (check : BitVec 16) :
    (s.masterData q m data check).gateSound := by
  refine hs.same ?_
  unfold State.masterData
  dsimp only
  repeat' split
  all_goals simp

theorem State.idRead_gateSound (c h z y : Byte) (check : BitVec 16) : (s.idRead c h z y check).gateSound := by
  unfold State.idRead
  repeat' split
  · exact hs
  · exact State.masterId_gateSound (hs.same (by simp)) _ _ _ _ _ _ _
  · exact hs
  · exact hs

theorem State.markerMissed_gateSound : s.markerMissed.gateSound :=
  hs.same (by simp)

theorem State.dataRead_gateSound (data : List Byte) (check : BitVec 16) (u : Upset) :
    (s.dataRead data check u).gateSound := by
  unfold State.dataRead
  repeat' split
  next hv _ =>
    exact State.gateSound_shut (State.verifyData_shut data check u
      (hs.shut_elsewhere (by simp [State.verifying_state hv])))
  · exact State.markerMissed_gateSound hs
  · exact State.masterData_gateSound hs _ _ _ _
  · exact State.markerMissed_gateSound hs
  · exact hs
  · exact hs

end

/-! ### Start-up and the panel (R94, R109, R120, R163, R166) -/

section
variable {s : State} (hs : s.gateSound)
include hs

theorem State.ready_gateSound (mid : Bool) : (s.ready mid).gateSound := by
  rw [State.ready]
  exact State.settleByDiskin_gateSound (hs.same (by simp))

theorem State.storeClearEnds_gateSound (mid : Bool) : (s.storeClearEnds mid).gateSound := by
  unfold State.storeClearEnds
  split
  · exact hs
  · exact State.ready_gateSound (s := { s with store := s.store.cleared }) hs mid
  · exact hs

theorem State.configLoadEnds_gateSound (bytes : List Byte) (mid : Bool) : (s.configLoadEnds bytes mid).gateSound := by
  unfold State.configLoadEnds
  split
  · exact State.ready_gateSound (hs.same (by simp)) mid
  · exact hs

theorem State.loadPressed_gateSound (selector : Fin 8) : (s.loadPressed selector).gateSound := by
  unfold State.loadPressed
  repeat' split
  · exact hs
  · exact hs.same (by simp)
  · exact State.startTest_gateSound (hs.same (by simp))
  · exact hs
  · exact hs

theorem State.stopPressed_gateSound : s.stopPressed.gateSound := by
  unfold State.stopPressed
  repeat' split
  · exact hs
  · exact hs.same (by simp)
  · exact hs
  · exact State.claimRefill_gateSound (hs.same (by simp))
  · exact hs
  · exact hs

end

/-! ### The step -/

/-- A command keeps the write gate law. -/
def KeepsGate (c : Instr) : Prop := ∀ s t : State, s.gateSound → exec c s = .next t → t.gateSound

/-- A command whose effect keeps the law. -/
theorem keepsGate_of {c : Instr} {g : State → State} (hc : ∀ s, exec c s = .next (g s))
    (hg : ∀ s : State, s.gateSound → (g s).gateSound) : KeepsGate c := by
  intro s t hs ht
  obtain rfl := Host.Outcome.next.inj ((hc s).symm.trans ht)
  exact hg s hs

/-- A command whose effect keeps the law before the Distribution Unit's tests. -/
theorem keepsGate_settled {c : Instr} {g : State → State} (hc : ∀ s, exec c s = .next ((g s).settle s))
    (hg : ∀ s : State, s.gateSound → (g s).gateSound) : KeepsGate c :=
  keepsGate_of hc fun s hs => State.settle_gateSound (hg s hs) s

/-- A completed frame whose rule keeps the law. -/
theorem keepsGate_frame {c : Instr} {α : Type} {raw : List Byte} {body : Option α} {k : α → Option FrameKey}
    {i : StationId} {apply : α → State → State} (hc : ∀ s, exec c s = .next (s.completed raw body k i apply))
    (happly : ∀ (b : α) (x : State), x.gateSound → (apply b x).gateSound) : KeepsGate c :=
  keepsGate_of hc fun _ hs => State.completed_gateSound hs happly

/-- A completed frame with the Distribution Unit's tests after it. -/
theorem keepsGate_settledFrame {c : Instr} {α : Type} {raw : List Byte} {body : Option α} {k : α → Option FrameKey}
    {i : StationId} {apply : α → State → State}
    (hc : ∀ s, exec c s = .next ((s.completed raw body k i apply).settle s))
    (happly : ∀ (b : α) (x : State), x.gateSound → (apply b x).gateSound) : KeepsGate c :=
  keepsGate_settled hc fun _ hs => State.completed_gateSound hs happly

theorem releaseCutOff_keepsGate (u : Upset) : KeepsGate (.releaseCutOff u) := by
  refine keepsGate_of (fun _ => rfl) fun s hs => ?_
  split
  · exact State.settle_gateSound (State.cutOff_gateSound hs _ u) s
  · exact hs

theorem release_keepsGate (f : Rx) : KeepsGate (.release f) := by
  intro s t hs ht
  change execRelease f s = _ at ht
  unfold execRelease at ht
  split at ht
  · exact releaseCutOff_keepsGate [] s t hs ht
  · obtain rfl := Host.Outcome.next.inj ht
    exact State.settle_gateSound (State.completed_gateSound hs fun b x hx =>
      State.inJob_gateSound hx (State.setNote_gateSound hx _) (State.releaseHeard_gateSound hx _ _ b)) s

theorem want_keepsGate (f : Rx) : KeepsGate (.want f) := by
  refine keepsGate_frame (fun _ => rfl) fun b x hx => State.inJob_gateSound hx (State.setNote_gateSound hx _) ?_
  split
  · exact State.ownWant_gateSound hx b
  · exact State.otherWant_gateSound hx b

theorem frameBreak_keepsGate (cls : Fin 8) (bytes : List Byte) (broke : Bool) :
    KeepsGate (.frameBreak cls bytes broke) := by
  refine keepsGate_of (g := fun s => s.frameBroken cls bytes broke) (fun _ => rfl) fun s hs => ?_
  unfold State.frameBroken
  repeat' split
  · exact hs
  · exact hs
  · exact State.settle_gateSound (hs.same (by simp)) s
  · exact hs

theorem wantDeadlineExpiry_keepsGate (track : Nat) : KeepsGate (.wantDeadlineExpiry track) := by
  refine keepsGate_of (g := fun s => s.deadlineExpires track) (fun _ => rfl) fun s hs => ?_
  unfold State.deadlineExpires
  repeat' split
  · exact State.settle_gateSound (State.wantExpired_gateSound (s := s.tickTo _) hs _ _) s
  · exact hs
  · exact hs

theorem lastTrackTimeout_keepsGate : KeepsGate .lastTrackTimeout := by
  refine keepsGate_of (g := fun s => s.lastTrackTimes) (fun _ => rfl) fun s hs => ?_
  unfold State.lastTrackTimes
  repeat' split
  next r hr _ =>
    refine State.settle_gateSound (hs.same ?_) s
    simp [hr, JobRecord.fixed]
  · exact hs
  · exact hs

theorem releaseBegin_keepsGate (h : ReleaseHead) : KeepsGate (.releaseBegin h) := by
  refine keepsGate_of (g := fun s => s.releaseBegins h) (fun _ => rfl) fun s hs => ?_
  unfold State.releaseBegins
  split
  · exact State.settle_gateSound (hs.same (by simp)) s
  · exact hs

theorem exec_keepsGate (c : Instr) : KeepsGate c := by
  cases c
  case powerOn => exact keepsGate_of (fun _ => rfl) fun s _ => State.gateSound_shut rfl
  case storeClearCompletion mid => exact keepsGate_of (fun _ => rfl) fun s hs => State.storeClearEnds_gateSound hs mid
  case configurationLoadCompletion bytes mid =>
    exact keepsGate_of (fun _ => rfl) fun s hs => State.configLoadEnds_gateSound hs bytes mid
  case restart =>
    refine keepsGate_of (fun _ => rfl) fun s hs => ?_
    split
    · exact State.gateSound_shut rfl
    · exact hs
  case loadPress selector => exact keepsGate_of (fun _ => rfl) fun s hs => State.loadPressed_gateSound hs selector
  case stopBriefPress => exact keepsGate_of (fun _ => rfl) fun s => State.stopPressed_gateSound
  case arbitrationStart | joinStart => exact keepsGate_of (fun _ => rfl) fun s => State.startArbitration_gateSound
  case arbitrationLoss =>
    refine keepsGate_of (fun _ => rfl) fun s hs => ?_
    split
    · exact State.settle_gateSound (State.loseFrame_gateSound hs _) s
    · exact hs
  case sendFault =>
    refine keepsGate_of (fun _ => rfl) fun s hs => ?_
    split
    · exact State.settle_gateSound (State.faultFrame_gateSound hs _) s
    · exact hs
  case releaseCutOff u => exact releaseCutOff_keepsGate u
  case frameBreak cls bytes broke => exact frameBreak_keepsGate cls bytes broke
  case queuePlaceFreeing => exact keepsGate_of (fun _ => rfl) fun s => State.placeFreed_gateSound
  case jobOpen f => exact keepsGate_frame (fun _ => rfl) fun b x hx => State.openHeard_gateSound hx f b
  case jobStop f =>
    exact keepsGate_frame (fun _ => rfl) fun b x hx =>
      State.inJob_gateSound hx (State.setNote_gateSound hx _) (State.stopHeard_gateSound hx)
  case jobClose f =>
    exact keepsGate_frame (fun _ => rfl) fun b x hx => State.inJob_gateSound hx (State.clearNote_gateSound hx _)
      (State.endJob_gateSound (State.setNextBase_gateSound hx _) _)
  case jobAbandon f =>
    exact keepsGate_frame (fun _ => rfl) fun b x hx => State.inJob_gateSound hx (State.clearNote_gateSound hx _)
      (State.endJob_gateSound (State.setNextBase_gateSound hx _) _)
  case claim f =>
    exact keepsGate_settledFrame (fun _ => rfl) fun b x hx =>
      State.inJob_gateSound hx (State.setNote_gateSound hx _) (State.claimHeard_gateSound hx _ _ _)
  case tally f =>
    exact keepsGate_settledFrame (fun _ => rfl) fun b x hx =>
      State.inJob_gateSound hx (State.setNote_gateSound hx _) (State.tallyHeard_gateSound hx _ b)
  case want f => exact want_keepsGate f
  case releaseBegin h => exact releaseBegin_keepsGate h
  case release f => exact release_keepsGate f
  case callFirst f =>
    exact keepsGate_settledFrame (fun _ => rfl) fun b x hx => State.callFirstHeard_gateSound hx f.sender b
  case wantDeadlineExpiry track => exact wantDeadlineExpiry_keepsGate track
  case lastTrackTimeout => exact lastTrackTimeout_keepsGate
  case indexEdge time trk0 => exact keepsGate_settled (fun _ => rfl) fun s hs => State.index_gateSound hs time trk0
  case writeCompletion u => exact keepsGate_settled (fun _ => rfl) fun s hs => State.writeCompletes_gateSound hs u
  case revolutionCounterExpiry u =>
    exact keepsGate_settled (fun _ => rfl) fun s hs => State.counterExpires_gateSound hs u
  case idRecord c h z y check =>
    exact keepsGate_settled (fun _ => rfl) fun s hs => State.idRead_gateSound hs c h z y check
  case dataRecord data check u =>
    exact keepsGate_settled (fun _ => rfl) fun s hs => State.dataRead_gateSound hs data check u
  case noIndex => exact keepsGate_settled (fun _ => rfl) fun s => State.indexAbsent_gateSound
  case qualifyLimitExpiry => exact keepsGate_settled (fun _ => rfl) fun s => State.limitExpires_gateSound
  case stepTimeEnd trk0 => exact keepsGate_settled (fun _ => rfl) fun s hs => State.stepEnds_gateSound hs trk0
  case headSettleEnd trk0 => exact keepsGate_settled (fun _ => rfl) fun s hs => State.settleEnds_gateSound hs trk0
  case ejectPulseEnd => exact keepsGate_of (fun _ => rfl) fun s => State.ejectEnd_gateSound
  case diskinActive => exact keepsGate_of (fun _ => rfl) fun s => State.seated_gateSound
  case diskinInactive => exact keepsGate_settled (fun _ => rfl) fun s => State.unseated_gateSound
  case wprotChange active => exact keepsGate_settled (fun _ => rfl) fun s hs => State.wprotTo_gateSound hs active
  case masterReadSlotGrant =>
    exact keepsGate_settled (fun _ => rfl) fun s hs => hs.same (by simp)
  case holdOff | callAnswer | query | reply =>
    exact keepsGate_frame (fun _ => rfl) fun b x hx => hx.same (by simp)
  case dataMarkerReachExpiry =>
    refine keepsGate_of (fun _ => rfl) fun s hs => hs.same ?_
    split <;> simp
  case stopHeld | refusalFlashEnd | abandonSequenceEnd | holdOffTimerExpiry | markerOfAnotherValue =>
    exact keepsGate_of (fun _ => rfl) fun s hs => hs.same (by simp)

/-- Settles O59: a tick moves the clock alone, and each command keeps the law, since what moves the copy cycle out of a
write revolution drops the gate first. -/
theorem everyStepKeepsTheWriteGateLaw : Obligations.EveryStepKeepsTheWriteGateLaw := by
  intro s t hs ht
  unfold step at ht
  split at ht
  · obtain rfl := Host.Outcome.next.inj ht
    exact hs
  next c rest _ => exact exec_keepsGate c { s with pending := rest } t hs ht

end Sys2Proof.Machine
end

section
/-! PROOFS. The INDEX edge (R144, R145, R148): the capture of a period, the counter, and index seen. -/

namespace Sys2Proof.Machine

/-! ### The spindle record at an edge (R144) -/

section
variable {q : Recipe} {now e : Nat} {sp : Spindle}

theorem Spindle.edge_starts (h : sp.lastEdge = none) :
    sp.edge q now = { sp with lastEdge := some now, watch := some now } := by
  simp only [Spindle.edge, h]

variable (h : sp.lastEdge = some e)
include h

theorem Spindle.edge_captures (ht : q.inTolerance (now - e) = true) : sp.edge q now = {
    period := some (now - e), inTol := true, count := min (sp.count + 1) 3
    qualified := sp.qualified || decide (min (sp.count + 1) 3 = 3)
    lastEdge := some now, watch := some now } := by
  simp only [Spindle.edge, h, ht, if_true]
  rfl

theorem Spindle.edge_misses (ht : q.inTolerance (now - e) = false) : sp.edge q now = {
    period := some (now - e), inTol := false, count := 0, qualified := sp.qualified
    lastEdge := some now, watch := some now } := by
  simp [Spindle.edge, h, ht, Config.qualifyingPeriods]

end

/-! ### The edge at the drive port -/

theorem countEdge_eq (c : Option Nat) : countEdge c = c.map (· - 1) := by cases c <;> rfl

section
variable {dp : Drive} (now : Nat)

theorem Drive.indexEdge_spindle_same {o : Option Recipe} (h : dp.motor = false ∨ o = none) :
    (dp.indexEdge o now).spindle = dp.spindle := by
  unfold Drive.indexEdge
  dsimp only
  split
  next hm => simp [hm] at h
  next => rfl

theorem Drive.indexEdge_spindle_edge (hm : dp.motor = true) (q : Recipe) :
    (dp.indexEdge (some q) now).spindle = dp.spindle.edge q now := by
  simp only [Drive.indexEdge, hm]

end

/-- The state at an INDEX edge, with the spindle record it leaves. -/
def State.edged (time : Nat) (trk0 : Bool) (sp : Spindle) (s : State) : State :=
  { s with
    now := max s.now time
    dp := { s.dp with
      trk0 := trk0, counter := s.dp.counter.map (· - 1), spindle := sp
      qualify := s.dp.qualify.map fun q => { q with seen := true } } }

/-- The write and the qualify request take the edge after the capture. -/
def State.edgeTaken (time : Nat) (trk0 : Bool) (sp : Spindle) (s : State) : State :=
  (s.edged time trk0 sp).writeEdge.qualifyEdge s.dp.spindle.qualified

theorem exec_indexEdge (time : Nat) (trk0 : Bool) (s : State) :
    exec (.indexEdge time trk0) s = .next ((s.index time trk0).settle s) := rfl

section
variable {s : State} (time : Nat) (trk0 : Bool)

theorem State.index_eq (s : State) : s.index time trk0 =
    s.edgeTaken time trk0 (s.dp.indexEdge s.recipe (max s.now time)).spindle := by
  rw [State.edgeTaken, State.edged, ← countEdge_eq]
  rfl

/-- Without MOTOR, or with no job, nothing is captured. -/
theorem State.index_uncaptured (h : s.dp.motor = false ∨ s.jc.record = none) :
    s.index time trk0 = s.edgeTaken time trk0 s.dp.spindle := by
  rw [State.index_eq, Drive.indexEdge_spindle_same _ (h.imp_right fun hr => ?_)]
  simp [State.recipe, hr]

theorem State.index_captures {r : JobRecord} (hm : s.dp.motor = true) (hr : s.jc.record = some r) :
    s.index time trk0 = s.edgeTaken time trk0 (s.dp.spindle.edge r.recipe (max s.now time)) := by
  rw [State.index_eq, State.recipe_eq hr, Drive.indexEdge_spindle_edge _ hm]

end

/-- Settles O39: the edge is taken with the spindle record that the capture leaves, by the last edge on record and the
tolerance. -/
theorem indexEdgeCapturesAndCounts : Obligations.IndexEdgeCapturesAndCounts := by
  intro time trk0 s now sp captured goesOn
  have taken (x : Spindle) (h : s.index time trk0 = s.edgeTaken time trk0 x) :
      exec (.indexEdge time trk0) s = .next (goesOn x) := by
    rw [exec_indexEdge, h]
    rfl
  refine ⟨fun h => taken sp (State.index_uncaptured time trk0 h), fun r hm hr => ⟨fun hl => ?_, fun e he => ?_⟩⟩
  · rw [← Spindle.edge_starts hl]
    exact taken _ (State.index_captures time trk0 hm hr)
  · intro period n off
    have tolerance : r.recipe.inTolerance period = decide (off * 1000 ≤ n * r.recipe.tolerance) := rfl
    refine ⟨fun ht => ?_, fun ht => ?_⟩
    · rw [← Spindle.edge_captures he (tolerance.trans (decide_eq_true ht))]
      exact taken _ (State.index_captures time trk0 hm hr)
    · rw [← Spindle.edge_misses he (tolerance.trans (decide_eq_false ht))]
      exact taken _ (State.index_captures time trk0 hm hr)

end Sys2Proof.Machine
end

section
/-! PROOFS. The qualify request answered and expired (R79, R83, R111, R112, R145), with the recalibrate it leads to. -/

namespace Sys2Proof.Machine

/-! ### A recalibrate asked for (R137, R142) -/

section
variable {dp : Drive} (q : Recipe) (now : Nat)

theorem Drive.requestRecalibrate_refused (hm : dp.motion ≠ none) : dp.requestRecalibrate q now = (dp, false) :=
  if_pos (Option.isSome_iff_ne_none.2 hm)

variable (hm : dp.motion = none) (hg : dp.wgate = false)
include hm hg

theorem Drive.requestRecalibrate_steps (ht : dp.trk0 = false) : dp.requestRecalibrate q now = ({ dp with
    head := false, dir := false, step := true
    motion := some { kind := .recalibrate none, pulses := 1, ends := now + q.stepTime * 1000 } }, false) := by
  simp [Drive.requestRecalibrate, hm, Drive.recalibrate, Drive.setHead, hg, ht]

theorem Drive.requestRecalibrate_atTrack0 (ht : dp.trk0 = true) : dp.requestRecalibrate q now =
    ({ dp with head := false, dir := false, cylinder := some 0 }, true) := by
  simp [Drive.requestRecalibrate, hm, Drive.recalibrate, Drive.setHead, hg, ht]

end

/-! ### The spindle has qualified (R79, R83, R111, R112) -/

theorem State.copyQualified_arms {s : State} (hs : s.cs.state = .write) (hp : s.cs.phase = some .requalify) :
    s.copyQualified = { s with cs := { s.cs with phase := some .armed } } := by
  simp [State.copyQualified, hs, hp, State.mapCopy]

theorem State.sourceQualified_searches {s : State} {m : MasterRead} (hs : s.ss.state ≠ .spinup)
    (hm : s.ss.read = some m) (hp : m.phase = .requalify) : s.sourceQualified = s.startSearch := by
  unfold State.sourceQualified
  split
  next h _ => exact absurd h hs
  next => simp only [hm, hp, if_true]

section
variable {s : State} {r : JobRecord} (hr : s.jc.record = some r)
include hr

section
variable (hs : s.cs.state = .spinup) {d : Drive}
include hs

theorem State.copyQualified_recalibrates (hd : s.dp.requestRecalibrate r.recipe s.now = (d, false)) :
    s.copyQualified = { s with cs := { s.cs with state := .home }, dp := d } := by
  simp only [State.copyQualified, hs, State.recipe_eq hr, hd]
  rfl

theorem State.copyQualified_atTrack0 (hd : s.dp.requestRecalibrate r.recipe s.now = (d, true)) :
    s.copyQualified = State.askClaim { s with cs := { s.cs with state := .claim }, dp := d } := by
  simp only [State.copyQualified, hs, State.recipe_eq hr, hd]
  rfl

end

section
variable (hs : s.ss.state = .spinup) {d : Drive}
include hs

theorem State.sourceQualified_recalibrates (hd : s.dp.requestRecalibrate r.recipe s.now = (d, false)) :
    s.sourceQualified = { s with ss := { s.ss with state := .home }, dp := d } := by
  simp only [State.sourceQualified, hs, State.recipe_eq hr, hd]
  rfl

theorem State.sourceQualified_atTrack0 (hd : s.dp.requestRecalibrate r.recipe s.now = (d, true)) :
    s.sourceQualified = State.decision { s with ss := { s.ss with state := .home }, dp := d } := by
  simp only [State.sourceQualified, hs, State.recipe_eq hr, hd]
  rfl

end

theorem State.startSearch_eq {m : MasterRead} (hm : s.ss.read = some m) : s.startSearch = { s with
    ss := { s.ss with read := some { m with phase := .searching, unsettled := r.recipe.ids, reading := none } }
    dp := { s.dp with counter := some (r.recipe.masterRevs - 1 + 1) } } := by
  simp only [State.startSearch, State.recipe_eq hr, hm]
  rfl

end

/-! ### The limit has passed (R79, R83, R111, R112) -/

theorem State.copyNotQualified_rejects {s : State} (seen : Bool)
    (h : s.cs.state = .spinup ∨ s.cs.state = .write ∧ s.cs.phase = some .requalify) :
    s.copyNotQualified seen = s.reject (if seen then .speed else .noIndex) := if_pos h

theorem State.sourceNotQualified_abandons {s : State} (h : s.ss.state = .spinup) :
    s.sourceNotQualified = s.sourceAbandon .masterUnreadable := by
  simp only [State.sourceNotQualified, h]

theorem State.sourceNotQualified_fails {s : State} {m : MasterRead} (hs : s.ss.state ≠ .spinup)
    (hm : s.ss.read = some m) (hp : m.phase = .requalify) :
    s.sourceNotQualified = s.readFailed .masterUnreadable := by
  unfold State.sourceNotQualified
  split
  next h => exact absurd h hs
  next => simp only [hm, hp, if_true]

/-! ### The port's user told (R137) -/

section
variable {s : State} {r : JobRecord} (hr : s.jc.record = some r)
include hr

theorem State.tellQualified_eq : s.tellQualified = match r.role with
    | .member => s.copyQualified
    | .source => s.sourceQualified
    | .observer => s := by
  simp only [State.tellQualified, State.role_eq hr]
  cases r.role <;> rfl

theorem State.tellNotQualified_eq (seen : Bool) : s.tellNotQualified seen = match r.role with
    | .member => s.copyNotQualified seen
    | .source => s.sourceNotQualified
    | .observer => s := by
  simp only [State.tellNotQualified, State.role_eq hr]
  cases r.role <;> rfl

end

/-! ### The request closed (R145) -/

/-- The state with no qualify request open. -/
def State.requestClosed (s : State) : State := { s with dp := { s.dp with qualify := none } }

theorem State.qualifyEdge_before (s : State) : s.qualifyEdge true = s := by
  unfold State.qualifyEdge
  split <;> simp

theorem State.qualifyEdge_waits {s : State} (was : Bool) (h : s.dp.qualify = none ∨ s.dp.spindle.qualified = false) :
    s.qualifyEdge was = s := by
  unfold State.qualifyEdge
  split
  next hq => simp [h.resolve_left (by simp [hq])]
  next => rfl

theorem State.qualifyEdge_answers {s : State} {q : Qualify} (hq : s.dp.qualify = some q)
    (h : s.dp.spindle.qualified = true) : s.qualifyEdge false = s.requestClosed.tellQualified := by
  simp only [State.qualifyEdge, hq, h, Bool.not_false, Bool.and_self, if_true]
  rfl

theorem State.limitExpires_idle {s : State} (hq : s.dp.qualify = none) : s.limitExpires = s := by
  simp only [State.limitExpires, hq]

theorem State.limitExpires_reports {s : State} {q : Qualify} (hq : s.dp.qualify = some q) :
    s.limitExpires = (s.tickTo q.limit).requestClosed.tellNotQualified q.seen := by
  simp only [State.limitExpires, hq]
  rfl

theorem exec_qualifyLimitExpiry (s : State) : exec .qualifyLimitExpiry s = .next (s.limitExpires.settle s) := rfl

/-- Settles O41: the answer and the expiry close the request and go to the user by its role; SPINUP's recalibrate goes
by TRK0. -/
theorem qualifyRequestIsAnsweredOrExpires : Obligations.QualifyRequestIsAnsweredOrExpires := by
  refine ⟨fun s r hr => ?_, fun s r hr => ⟨fun hq => ?_, fun q hq => ?_⟩⟩
  · intro closed home atTrk0
    refine ⟨s.qualifyEdge_before, State.qualifyEdge_waits false, fun q hq hqual => ?_⟩
    have record : closed.jc.record = some r := hr
    have answered : s.qualifyEdge false = closed.tellQualified := State.qualifyEdge_answers hq hqual
    rw [answered, State.tellQualified_eq record]
    refine ⟨fun hrole hs hm hg => ?_, fun hrole hs hm hg => ?_, fun hrole hs hp => ?_, fun m hrole hs hm hp => ?_,
      fun hrole => ?_⟩ <;> rw [hrole]
    · exact ⟨fun ht => State.copyQualified_recalibrates record hs (Drive.requestRecalibrate_steps _ _ hm hg ht),
        fun ht => State.copyQualified_atTrack0 record hs (Drive.requestRecalibrate_atTrack0 _ _ hm hg ht)⟩
    · exact ⟨fun ht => State.sourceQualified_recalibrates record hs (Drive.requestRecalibrate_steps _ _ hm hg ht),
        fun ht => State.sourceQualified_atTrack0 record hs (Drive.requestRecalibrate_atTrack0 _ _ hm hg ht)⟩
    · exact State.copyQualified_arms hs hp
    · exact (State.sourceQualified_searches (s := closed) hs hm hp).trans (State.startSearch_eq record hm)
  · rw [exec_qualifyLimitExpiry, State.limitExpires_idle hq]
  · intro closed
    have record : closed.jc.record = some r := hr
    have expired : s.limitExpires = closed.tellNotQualified q.seen := State.limitExpires_reports hq
    rw [exec_qualifyLimitExpiry, expired, State.tellNotQualified_eq record]
    refine ⟨fun hrole h => ?_, fun hrole hs => ?_, fun m hrole hs hm hp => ?_, fun hrole => ?_⟩ <;> rw [hrole]
    · rw [← State.copyNotQualified_rejects (s := closed) q.seen h]
    · rw [← State.sourceNotQualified_abandons (s := closed) hs]
    · rw [← State.sourceNotQualified_fails (s := closed) hs hm hp]

end Sys2Proof.Machine
end

section
/-! PROOFS. Head motion (R137, R140 to R142): what the end of a step time and of a head settle make of a motion. -/

namespace Sys2Proof.Machine

/-! ### The end of a step time (R141, R142) -/

section
variable {dp : Drive} {m : Motion} (q : Recipe) (hm : dp.motion = some m) (hs : m.settling = false)
include hm hs

section
variable {c : Nat} {h : Bool} (hk : m.kind = .seek c h)
include hk

theorem Drive.stepEnd_pulses (ht : m.toGo ≠ 0) : dp.stepEnd q = ({ dp with
    motion := some { m with
      pulses := m.pulses + 1, toGo := m.toGo - 1, ends := m.ends + q.stepTime * 1000 } }, .going) := by
  simp [Drive.stepEnd, hm, hs, hk, ht]

/-- After the last pulse HEAD is set, and the settle begins. -/
theorem Drive.stepEnd_arrives (ht : m.toGo = 0) (hg : dp.wgate = false) : dp.stepEnd q = ({ dp with
    head := h, step := false
    motion := some { m with settling := true, ends := m.ends + q.headSettle * 1000 } }, .going) := by
  simp [Drive.stepEnd, hm, hs, hk, ht, Drive.setHead, hg]

end

section
variable {goal : Option (Nat × Bool)} (hk : m.kind = .recalibrate goal)
include hk

theorem Drive.stepEnd_atTrack0 (ht : dp.trk0 = true) : dp.stepEnd q = ({ dp with
    step := false
    motion := some { m with settling := true, ends := m.ends + q.headSettle * 1000 } }, .going) := by
  simp [Drive.stepEnd, hm, hs, hk, ht]

variable (ht : dp.trk0 = false)
include ht

theorem Drive.stepEnd_steps (hp : m.pulses < 90) : dp.stepEnd q = ({ dp with
    motion := some { m with pulses := m.pulses + 1, ends := m.ends + q.stepTime * 1000 } }, .going) := by
  simp [Drive.stepEnd, hm, hs, hk, ht, Config.recalibratePulses, hp]

/-- The 90 pulses of a recalibrate are spent: it fails, and the seek it was made for with it. -/
theorem Drive.stepEnd_fails (hp : 90 ≤ m.pulses) : dp.stepEnd q =
    ({ dp with motion := none, cylinder := none, step := false },
      if goal = none then .recalibrateFailed else .seekFailed) := by
  cases goal <;> simp [Drive.stepEnd, hm, hs, hk, ht, Config.recalibratePulses, Nat.not_lt.2 hp]

end

end

/-! ### The end of a head settle (R141, R142) -/

section
variable {dp : Drive} {m : Motion} (q : Recipe) (now : Nat) (hm : dp.motion = some m) (hs : m.settling = true)
include hm hs

/-- A seek is good but at cylinder 0 without TRK0; so is, after a recalibrate, the seek to where the head then is. -/
theorem Drive.settleEnd_good {c : Nat} (hk : (∃ h, m.kind = .seek c h) ∧ ¬(c = 0 ∧ dp.trk0 = false)
      ∨ c = 0 ∧ m.kind = .recalibrate (some (0, dp.head))) :
    dp.settleEnd q now = ({ dp with motion := none, cylinder := some c }, .seekGood) := by
  rcases hk with ⟨⟨h, hk⟩, ht⟩ | ⟨rfl, hk⟩
  · simp only [Drive.settleEnd, hm, hs, hk, if_neg ht]
    rfl
  · have there : Drive.seekFrom q now 0 0 dp.head { dp with motion := none, cylinder := some 0 } = (_, true) :=
      Drive.seekFrom_there q now 0 dp.head rfl rfl
    simp only [Drive.settleEnd, hm, hs, hk]
    rw [there]
    rfl

theorem Drive.settleEnd_seekFails {h : Bool} (hk : m.kind = .seek 0 h) (ht : dp.trk0 = false) :
    dp.settleEnd q now = ({ dp with motion := none, cylinder := none }, .seekFailed) := by
  simp [Drive.settleEnd, hm, hs, hk, ht]

theorem Drive.settleEnd_recalibrated (hk : m.kind = .recalibrate none) :
    dp.settleEnd q now = ({ dp with motion := none, cylinder := some 0 }, .recalibrateGood) := by
  simp [Drive.settleEnd, hm, hs, hk]

/-- The seek that the recalibrate was made for goes on to the head's settle at cylinder 0. -/
theorem Drive.settleEnd_selects {h : Bool} (hk : m.kind = .recalibrate (some (0, h))) (hh : dp.head ≠ h)
    (hg : dp.wgate = false) : dp.settleEnd q now = ({ dp with
      cylinder := some 0, head := h
      motion := some { kind := .seek 0 h, settling := true, ends := now + q.headSettle * 1000 } }, .going) := by
  simp [Drive.settleEnd, hm, hs, hk, Drive.seekFrom_head, hh, hg]

/-- The seek that the recalibrate was made for begins from cylinder 0. -/
theorem Drive.settleEnd_seeks {c : Nat} {h : Bool} (hk : m.kind = .recalibrate (some (c, h))) (hc : c ≠ 0) :
    dp.settleEnd q now = ({ dp with
      cylinder := some 0, dir := true, step := true
      motion := some {
        kind := .seek c h, pulses := 1, toGo := c * q.stepMult - 1, ends := now + q.stepTime * 1000 } }, .going) := by
  simp [Drive.settleEnd, hm, hs, hk, Drive.seekFrom_steps, hc.symm, Nat.pos_of_ne_zero hc]

end

/-! ### What the user makes of a seek's end (R83, R112) -/

theorem State.copySeekEnd_arms {s : State} (hq : s.dp.spindle.qualified = true) :
    s.copySeekEnd true = { s with cs := { s.cs with phase := some .armed } } := by
  simp [State.copySeekEnd, hq, State.mapCopy]

theorem State.copySeekEnd_requalifies {s : State} (hq : s.dp.spindle.qualified = false) :
    s.copySeekEnd true = { s with
      dp := { s.dp with qualify := some { limit := s.now + s.pc.params.spinUpLimit * 1000 } }
      cs := { s.cs with phase := some .requalify } } := by
  simp only [State.copySeekEnd, hq]
  rfl

section
variable {s : State} {x : MasterRead} (hx : s.ss.read = some x)
include hx

theorem State.sourceSeekEnd_searches (hq : s.dp.spindle.qualified = true) : s.sourceSeekEnd true = s.startSearch := by
  simp only [State.sourceSeekEnd, hx, hq, if_true]

theorem State.sourceSeekEnd_requalifies (hq : s.dp.spindle.qualified = false) :
    s.sourceSeekEnd true = { s with
      dp := { s.dp with qualify := some { limit := s.now + s.pc.params.spinUpLimit * 1000 } }
      ss := { s.ss with read := some { x with phase := .requalify } } } := by
  have read := State.mapRead_eq (fun m => { m with phase := .requalify }) hx
  simp only [State.sourceSeekEnd, hx, hq, read]
  rfl

theorem State.sourceSeekEnd_fails : s.sourceSeekEnd false = s.readFailed .masterUnreadable := by
  simp only [State.sourceSeekEnd, hx]
  rfl

end

/-! ### The port's user told of a motion's end (R137) -/

section
variable {s : State} {r : JobRecord} (good : Bool) (hr : s.jc.record = some r)
include hr

theorem State.tellSeek_member (hrole : r.role = .member) (hs : s.cs.state = .write)
    (hp : s.cs.phase = some .seeking) : s.tellSeek good = s.copySeekEnd good := by
  simp [State.tellSeek, State.role_eq hr, hrole, hs, hp]

theorem State.tellSeek_source {x : MasterRead} (hrole : r.role = .source) (hx : s.ss.read = some x)
    (hp : x.phase = .seeking) : s.tellSeek good = s.sourceSeekEnd good := by
  simp [State.tellSeek, State.role_eq hr, hrole, hx, hp]

theorem State.tellRecalibrate_member (hrole : r.role = .member) (hs : s.cs.state = .home) :
    s.tellRecalibrate good = s.copyHomeEnd good := by
  simp [State.tellRecalibrate, State.role_eq hr, hrole, hs]

theorem State.tellRecalibrate_source (hrole : r.role = .source) (hs : s.ss.state = .home) :
    s.tellRecalibrate good = s.sourceHomeEnd good := by
  simp [State.tellRecalibrate, State.role_eq hr, hrole, hs]

theorem State.tellMotion_observer (hrole : r.role = .observer) (res : MotionResult) : s.tellMotion res = s := by
  cases res <;> simp [State.tellMotion, State.tellSeek, State.tellRecalibrate, State.role_eq hr, hrole]

end

/-! ### STEP_TIME_END and HEAD_SETTLE_END (R141, R142) -/

theorem exec_stepTimeEnd (trk0 : Bool) (s : State) : exec (.stepTimeEnd trk0) s = .next ((s.stepEnds trk0).settle s) :=
  rfl

theorem exec_headSettleEnd (trk0 : Bool) (s : State) :
    exec (.headSettleEnd trk0) s = .next ((s.settleEnds trk0).settle s) := rfl

/-- The state at the end `t` of a step time or settle, with the drive port as it then is. -/
def State.motionAt (t : Nat) (d : Drive) (s : State) : State := { s with now := max s.now t, dp := d }

/-- The state at the end `t` of a motion, with the cylinder as it then is and TRK0 as read. -/
def State.headStill (trk0 : Bool) (t : Nat) (cylinder : Option Nat) (s : State) : State :=
  s.motionAt t { s.dp with trk0 := trk0, motion := none, cylinder := cylinder }

section
variable {s : State} (trk0 : Bool)

theorem State.stepEnds_rest (hm : s.dp.motion = none) : s.stepEnds trk0 = s := by
  simp [State.stepEnds, hm]

theorem State.settleEnds_rest (hm : s.dp.motion = none) : s.settleEnds trk0 = s := by
  simp [State.settleEnds, hm]

variable {r : JobRecord} {m : Motion} {d : Drive} {res : MotionResult}
  (hr : s.jc.record = some r) (hm : s.dp.motion = some m)
include hr hm

theorem State.stepEnds_settling (hs : m.settling = true) : s.stepEnds trk0 = s := by
  simp [State.stepEnds, State.recipe_eq hr, hm, hs]

theorem State.settleEnds_stepping (hs : m.settling = false) : s.settleEnds trk0 = s := by
  simp [State.settleEnds, State.recipe_eq hr, hm, hs]

theorem State.stepEnds_tells (hs : m.settling = false)
    (hd : Drive.stepEnd r.recipe { s.dp with trk0 := trk0 } = (d, res)) :
    s.stepEnds trk0 = (s.motionAt m.ends d).tellMotion res := by
  have drive : Drive.stepEnd r.recipe { (s.tickTo m.ends).dp with trk0 := trk0 } = (d, res) := hd
  simp only [State.stepEnds, State.recipe_eq hr, hm, hs, drive]
  rfl

theorem State.settleEnds_tells (hs : m.settling = true)
    (hd : Drive.settleEnd r.recipe (max s.now m.ends) { s.dp with trk0 := trk0 } = (d, res)) :
    s.settleEnds trk0 = (s.motionAt m.ends d).tellMotion res := by
  have drive : Drive.settleEnd r.recipe (s.tickTo m.ends).now { (s.tickTo m.ends).dp with trk0 := trk0 } = (d, res) :=
    hd
  simp only [State.settleEnds, State.recipe_eq hr, hm, hs, drive]
  rfl

variable (hs : m.settling = true)
include hs

theorem State.settleEnds_good {c : Nat} (hk : (∃ h, m.kind = .seek c h) ∧ ¬(c = 0 ∧ trk0 = false)
      ∨ c = 0 ∧ m.kind = .recalibrate (some (0, s.dp.head))) :
    s.settleEnds trk0 = (s.headStill trk0 m.ends (some c)).tellSeek true :=
  State.settleEnds_tells trk0 hr hm hs
    (Drive.settleEnd_good (dp := { s.dp with trk0 := trk0 }) r.recipe (max s.now m.ends) hm hs hk)

theorem State.settleEnds_seekFails {h : Bool} (hk : m.kind = .seek 0 h) (ht : trk0 = false) :
    s.settleEnds trk0 = (s.headStill trk0 m.ends none).tellSeek false :=
  State.settleEnds_tells trk0 hr hm hs
    (Drive.settleEnd_seekFails (dp := { s.dp with trk0 := trk0 }) r.recipe (max s.now m.ends) hm hs hk ht)

theorem State.settleEnds_home (hk : m.kind = .recalibrate none) :
    s.settleEnds trk0 = (s.headStill trk0 m.ends (some 0)).tellRecalibrate true :=
  State.settleEnds_tells trk0 hr hm hs
    (Drive.settleEnd_recalibrated (dp := { s.dp with trk0 := trk0 }) r.recipe (max s.now m.ends) hm hs hk)

end

/-- Settles O44: each request by the cylinder, the head and TRK0; each end by what the motion comes to and by what
the port's user makes of it. -/
theorem headMotionsBeginStepAndSettle : Obligations.HeadMotionsBeginStepAndSettle := by
  refine ⟨fun q now c h dp => ⟨fun moving => ?_, fun hm hg => ?_⟩,
    fun trk0 s r hr => ⟨fun rest => ?_, fun m hm => ?_⟩, fun trk0 s r hr => ⟨fun rest => ?_, fun m hm => ?_⟩⟩
  · have moving := Option.isSome_iff_ne_none.1 moving
    exact ⟨Drive.requestSeek_refused q now c h moving, Drive.requestRecalibrate_refused q now moving⟩
  · refine ⟨fun cur hc away => ?_, fun hc hh => ?_, fun hc hh => ?_, fun hc ht => ?_, fun hc ht => ?_,
      fun ht => ?_, fun ht => ?_⟩
    · rw [Drive.requestSeek_known q now c h hm hc, Drive.seekFrom_steps q now c h away]
    · rw [Drive.requestSeek_known q now c h hm hc, Drive.seekFrom_there q now c h rfl hh]
    · rw [Drive.requestSeek_known q now c h hm hc, Drive.seekFrom_head q now c h rfl hg hh]
    · rw [Drive.requestSeek_atTrack0 q now c h hm hg hc ht]
      exact (Drive.requestSeek_known q now c h (by exact hm) rfl).symm
    · exact Drive.requestSeek_recalibrates q now c h hm hg hc ht
    · exact Drive.requestRecalibrate_atTrack0 q now hm hg ht
    · exact Drive.requestRecalibrate_steps q now hm hg ht
  · rw [exec_stepTimeEnd, State.stepEnds_rest trk0 rest]
  · intro now dp
    have moving : dp.motion = some m := hm
    refine ⟨fun hs => ?_, fun hs => ⟨fun c h hk ht => ?_, fun c h hk ht hg => ?_, fun goal hk ht => ?_,
      fun goal hk ht hp => ?_, fun goal hk ht hp => ?_⟩⟩ <;> rw [exec_stepTimeEnd]
    · rw [State.stepEnds_settling trk0 hr hm hs]
    · rw [State.stepEnds_tells trk0 hr hm hs (Drive.stepEnd_pulses r.recipe moving hs hk ht)]
      rfl
    · rw [State.stepEnds_tells trk0 hr hm hs (Drive.stepEnd_arrives r.recipe moving hs hk ht hg)]
      rfl
    · rw [State.stepEnds_tells trk0 hr hm hs (Drive.stepEnd_atTrack0 r.recipe moving hs hk ht)]
      rfl
    · rw [State.stepEnds_tells trk0 hr hm hs (Drive.stepEnd_steps r.recipe moving hs hk ht hp)]
      rfl
    · intro fails
      have record : fails.jc.record = some r := hr
      have ended : s.stepEnds trk0 = fails.tellMotion (if goal = none then .recalibrateFailed else .seekFailed) :=
        State.stepEnds_tells trk0 hr hm hs (Drive.stepEnd_fails r.recipe moving hs hk ht hp)
      rw [ended]
      refine ⟨fun hrole home hg => ?_, fun hrole write seeking hg => ?_, fun hrole home hg => ?_,
        fun x hrole hx seeking hg => ?_, fun hrole => ?_⟩
      · have told : fails.tellRecalibrate false = fails.copyHomeEnd false :=
          State.tellRecalibrate_member false record hrole home
        rw [if_pos hg, State.tellMotion, told]
        rfl
      · have told : fails.tellSeek false = fails.copySeekEnd false :=
          State.tellSeek_member false record hrole write seeking
        rw [if_neg hg, State.tellMotion, told]
        rfl
      · have told : fails.tellRecalibrate false = fails.sourceHomeEnd false :=
          State.tellRecalibrate_source false record hrole home
        rw [if_pos hg, State.tellMotion, told]
        rfl
      · have told : fails.tellSeek false = fails.sourceSeekEnd false :=
          State.tellSeek_source false record hrole hx seeking
        rw [if_neg hg, State.tellMotion, told, State.sourceSeekEnd_fails (s := fails) hx]
      · rw [State.tellMotion_observer record hrole]
  · rw [exec_headSettleEnd, State.settleEnds_rest trk0 rest]
  · intro now dp good
    have moving : Drive.motion { s.dp with trk0 := trk0 } = some m := hm
    have record (cylinder : Option Nat) : (s.headStill trk0 m.ends cylinder).jc.record = some r := hr
    rw [exec_headSettleEnd]
    refine ⟨fun hs => ?_, fun hs hrole => ⟨fun c hc write seeking hq => ?_, fun c hc write seeking hq => ?_,
        fun h hk ht write seeking => ?_, fun hk home => ?_⟩,
      fun hs hrole => ⟨fun c x hc hx seeking => ?_, fun h x hk ht hx seeking => ?_, fun hk home => ?_⟩,
      fun h hs hk hh hg => ?_, fun c h hs hk hc => ?_⟩
    · rw [State.settleEnds_stepping trk0 hr hm hs]
    · rw [State.settleEnds_good trk0 hr hm hs hc, State.tellSeek_member true (record _) hrole write seeking,
        State.copySeekEnd_arms (s := s.headStill trk0 m.ends (some c)) hq]
      rfl
    · rw [State.settleEnds_good trk0 hr hm hs hc, State.tellSeek_member true (record _) hrole write seeking,
        State.copySeekEnd_requalifies (s := s.headStill trk0 m.ends (some c)) hq]
      rfl
    · rw [State.settleEnds_seekFails trk0 hr hm hs hk ht, State.tellSeek_member false (record _) hrole write seeking]
      rfl
    · rw [State.settleEnds_home trk0 hr hm hs hk, State.tellRecalibrate_member true (record _) hrole home]
      rfl
    · rw [State.settleEnds_good trk0 hr hm hs hc, State.tellSeek_source true (record _) hrole hx seeking]
      refine ⟨fun hq => ?_, fun hq => ?_⟩
      · rw [State.sourceSeekEnd_searches (s := s.headStill trk0 m.ends (some c)) hx hq,
          State.startSearch_eq (record _) hx]
        rfl
      · rw [State.sourceSeekEnd_requalifies (s := s.headStill trk0 m.ends (some c)) hx hq]
        rfl
    · rw [State.settleEnds_seekFails trk0 hr hm hs hk ht, State.tellSeek_source false (record _) hrole hx seeking,
        State.sourceSeekEnd_fails (s := s.headStill trk0 m.ends none) hx]
      rfl
    · rw [State.settleEnds_home trk0 hr hm hs hk, State.tellRecalibrate_source true (record _) hrole home]
      rfl
    · rw [State.settleEnds_tells trk0 hr hm hs (Drive.settleEnd_selects r.recipe now moving hs hk hh hg)]
      rfl
    · rw [State.settleEnds_tells trk0 hr hm hs (Drive.settleEnd_seeks r.recipe now moving hs hk hc)]
      rfl

end Sys2Proof.Machine
end

section
/-! SUPPORT. The laws of O60 at one state of a command (R24, R41, R44, R57, R152, R153, R169, R175), and which changes
of a state keep them. -/

namespace Sys2Proof.Machine

/-! ### The transmit queue (R152, R153) -/

/-- A queue of at most 8 frames, no two of one key, at most `n` of them on the medium. -/
def queueFits (n : Nat) (q : List Frame) : Prop :=
  q.length ≤ Config.queuePlaces ∧ (q.map Frame.key).Nodup ∧ (q.filter (·.started)).length ≤ n

theorem Link.queueSound_iff {lc : Link} : lc.queueSound ↔ queueFits 1 lc.queue := Iff.rfl

theorem queueFits.nil (n : Nat) : queueFits n [] := ⟨Nat.zero_le _, List.nodup_nil, Nat.zero_le _⟩

section
variable {n : Nat} {q : List Frame}

theorem queueFits.sublist {q' : List Frame} (h : queueFits n q) (hs : q'.Sublist q) : queueFits n q' := by
  obtain ⟨hlen, hkeys, hstarted⟩ := h
  exact ⟨hs.length_le.trans hlen, hkeys.sublist (hs.map _), (hs.filter _).length_le.trans hstarted⟩

/-- A frame that the queue takes leaves it in order. -/
theorem queueFits.push {s : State} {body : Body} (j : JobId) (h : queueFits n s.lc.queue)
    (ha : s.accepts body = true) : queueFits n (s.lc.queue ++ [{ body := body, jobId := j }]) := by
  obtain ⟨-, hkeys, hstarted⟩ := h
  obtain ⟨⟨⟨-, hnew⟩, hroom⟩, -⟩ :
      ((s.boot = .ready ∧ s.lc.has body.key = false) ∧ s.lc.queue.length < Config.queuePlaces)
        ∧ (body.cls < 4 ∨ s.lc.queue.length < Config.openQueuePlaces) := by simpa [State.accepts] using ha
  refine ⟨by simpa using hroom, ?_, by simpa using hstarted⟩
  have absent : ∀ f ∈ s.lc.queue, f.key ≠ body.key := by simpa [Link.has] using hnew
  simp only [List.map_append, List.nodup_append, List.map_cons, List.map_nil]
  refine ⟨hkeys, List.nodup_singleton _, ?_⟩
  simpa [Frame.key] using absent

/-- A change of the frames that leaves each its key and starts none leaves the queue in order. -/
theorem queueFits.map {g : Frame → Frame} (h : queueFits n q) (hkey : ∀ f ∈ q, (g f).key = f.key)
    (hstart : ∀ f ∈ q, (g f).started = true → f.started = true) : queueFits n (q.map g) := by
  obtain ⟨hlen, hkeys, hstarted⟩ := h
  have same : (q.map g).map Frame.key = q.map Frame.key := by
    rw [List.map_map]
    exact List.map_congr_left hkey
  refine ⟨by simpa using hlen, same ▸ hkeys, ?_⟩
  calc ((q.map g).filter (·.started)).length
      = q.countP fun f => (g f).started := by rw [← List.countP_eq_length_filter, List.countP_map]; rfl
    _ ≤ q.countP fun f => f.started := List.countP_mono_left hstart
    _ = (q.filter (·.started)).length := List.countP_eq_length_filter
    _ ≤ n := hstarted

/-- Of frames no two of which share a key, one at most has a given key. -/
theorem length_le_one_of_key {l : List Frame} {k : FrameKey} (hl : (l.map Frame.key).Nodup)
    (hk : ∀ f ∈ l, f.key = k) : l.length ≤ 1 := by
  match l with
  | [] => simp
  | [_] => simp
  | x :: y :: _ =>
    have hxy : x.key = y.key := (hk x (by simp)).trans (hk y (by simp)).symm
    simp [hxy] at hl

/-- The frame of the key `k` is on the medium. -/
def startKey (k : FrameKey) (f : Frame) : Frame := if f.key = k then { f with started := true } else f

theorem key_startKey (k : FrameKey) (f : Frame) : (startKey k f).key = f.key := by
  unfold startKey
  split <;> rfl

/-- With no frame on the medium the frame of a key may start. -/
theorem queueFits.start (h : queueFits 0 q) (k : FrameKey) : queueFits 1 (q.map (startKey k)) := by
  obtain ⟨hlen, hkeys, hstarted⟩ := h
  have calm : ∀ f ∈ q, f.started = false := by simpa [List.filter_eq_nil_iff] using hstarted
  have same : (q.map (startKey k)).map Frame.key = q.map Frame.key := by
    rw [List.map_map]
    exact List.map_congr_left fun f _ => key_startKey k f
  have nodup : ((q.map (startKey k)).map Frame.key).Nodup := same ▸ hkeys
  refine ⟨by simpa using hlen, nodup, length_le_one_of_key (k := k) (nodup.sublist (List.filter_sublist.map _)) ?_⟩
  intro f hf
  obtain ⟨hmem, hs⟩ := List.mem_filter.1 hf
  obtain ⟨g, hg, rfl⟩ := List.mem_map.1 hmem
  rw [key_startKey]
  by_contra hk
  simp [startKey, hk, calm g hg] at hs

end

/-! ### The laws at one state of a command -/

/-- Within the job that `base` and `s` both hold the release mark has not fallen, and it and the allowance are within
their bounds where they were so (R24, R41). -/
def State.jobGrows (base s : State) : Prop :=
  ∀ r r', base.jc.record = some r → s.jc.record = some r' →
    r.mark ≤ r'.mark ∧ (r.mark ≤ r.tracks → r'.mark ≤ r'.tracks)
    ∧ (base.store.allowance.length ≤ 60 → s.store.allowance.length ≤ 60)

/-- A state that a command which began in `base` has come to, with at most `n` frames on the medium. -/
structure State.Lawful (base : State) (n : Nat) (s : State) : Prop where
  memory : s.memorySound
  queue  : queueFits n s.lc.queue
  bounds : s.bounded
  job    : base.jobGrows s

/-- A command begins with the laws that hold where it begins. -/
theorem State.Lawful.begin {s : State} (hm : s.memorySound) (hq : s.lc.queueSound) (hb : s.bounded) :
    s.Lawful 1 s := by
  refine ⟨hm, hq, hb, fun r r' hr hr' => ?_⟩
  obtain rfl : r = r' := Option.some.inj (hr.symm.trans hr')
  exact ⟨le_rfl, id, id⟩

/-- The release mark and the number of tracks are read off the record's mark and its fixed part. -/
theorem JobRecord.mark_tracks_of_map {o o' : Option JobRecord} {r' : JobRecord}
    (hmark : o'.map (·.mark) = o.map (·.mark)) (hfixed : o'.map (·.fixed) = o.map (·.fixed)) (hr : o' = some r') :
    ∃ r, o = some r ∧ r'.mark = r.mark ∧ r'.tracks = r.tracks := by
  subst hr
  cases o with
  | none => simp at hmark
  | some r =>
    have hrecipe : r'.recipe = r.recipe := congrArg FixedFields.recipe (by simpa using hfixed)
    exact ⟨r, rfl, by simpa using hmark, by simp [JobRecord.tracks, hrecipe]⟩

section
variable {base s t : State} {n : Nat} (h : base.Lawful n s)
include h

/-- A change that leaves all that the laws read. -/
theorem State.Lawful.same
    (ht : t.store.mem = s.store.mem ∧ t.store.allowance = s.store.allowance ∧ t.lc.queue = s.lc.queue
      ∧ t.lc.counters = s.lc.counters ∧ t.pc.history = s.pc.history ∧ t.du.restores = s.du.restores
      ∧ t.du.repair = s.du.repair ∧ t.jc.record.map (·.mark) = s.jc.record.map (·.mark)
      ∧ t.jc.record.map (·.fixed) = s.jc.record.map (·.fixed)) : base.Lawful n t := by
  obtain ⟨hmem, hallow, hqueue, hcount, hhist, hrest, hrepair, hmark, hfixed⟩ := ht
  refine ⟨?_, hqueue ▸ h.queue, ?_, fun r r' hr hr' => ?_⟩
  · unfold State.memorySound
    exact hmem ▸ h.memory
  · unfold State.bounded
    rw [hhist, hrest, hrepair, hcount]
    exact h.bounds
  · obtain ⟨r1, hr1, hm, ht⟩ := JobRecord.mark_tracks_of_map hmark hfixed hr'
    rw [hm, ht, hallow]
    exact h.job r r1 hr hr1

theorem State.Lawful.ite {p : Prop} [Decidable p] (ht : base.Lawful n t) : base.Lawful n (if p then s else t) := by
  split
  · exact h
  · exact ht

/-- A change of the Link Controller that keeps the queue in order and the counters within their bound. -/
theorem State.Lawful.setLink {m : Nat} {lc : Link} (hq : queueFits m lc.queue)
    (hc : ∀ x ∈ lc.counters.toList, x ≤ Config.max32) : base.Lawful m { s with lc := lc } := by
  obtain ⟨hhist, hrest, hrepair, -⟩ := h.bounds
  exact ⟨h.memory, hq, ⟨hhist, hrest, hrepair, hc⟩, h.job⟩

theorem State.Lawful.counters : ∀ x ∈ s.lc.counters.toList, x ≤ Config.max32 := h.bounds.2.2.2

/-! ### Counters and history (R169, R175) -/

theorem State.Lawful.count {g : Counters → Counters} (hg : ∀ c, (∀ x ∈ c.toList, x ≤ Config.max32) →
    ∀ x ∈ (g c).toList, x ≤ Config.max32) : base.Lawful n (s.count g) :=
  h.setLink h.queue (hg _ h.counters)

end

theorem bump_le (n : Nat) : bump n ≤ Config.max32 := Nat.min_le_right _ _

theorem Counters.toList_le_iff {c : Counters} {m : Nat} : (∀ x ∈ c.toList, x ≤ m) ↔
    c.badFrames ≤ m ∧ c.sendFaults ≤ m ∧ c.holdOffs ≤ m ∧ c.wants ≤ m ∧ c.restores ≤ m ∧ c.damaged ≤ m
      ∧ c.noRoom ≤ m ∧ c.accepted ≤ m ∧ c.rejected ≤ m := by
  simp [Counters.toList]

section
variable {base s t : State} {n : Nat} (h : base.Lawful n s)
include h

theorem State.Lawful.badFrame : base.Lawful n s.badFrame :=
  h.count fun c hc => by simp_all [Counters.toList_le_iff, bump_le]

theorem State.Lawful.appendHistory (e : HistoryEntry) : base.Lawful n (s.appendHistory e) := by
  obtain ⟨hhist, hrest, hrepair, hcount⟩ := h.bounds
  have kept : base.Lawful n { s with pc := { s.pc with history :=
      (if s.pc.history.length < Config.historyDepth then s.pc.history else s.pc.history.drop 1) ++ [e] } } := by
    refine ⟨h.memory, h.queue, ⟨?_, hrest, hrepair, hcount⟩, h.job⟩
    split
    next hlt => simpa using hlt
    next =>
      rw [List.length_append, List.length_drop, List.length_singleton]
      have := hhist
      simp only [Config.historyDepth] at *
      omega
  unfold State.appendHistory
  refine kept.count fun c hc => ?_
  cases e.outcome <;> simp_all [Counters.toList_le_iff, bump_le]

/-! ### Frames that join, leave and change (R152 to R155) -/

theorem State.Lawful.push {body : Body} (ha : s.accepts body = true) (j : JobId) : base.Lawful n (s.push body j) :=
  h.setLink (h.queue.push j ha) h.counters

theorem State.Lawful.enter (body : Body) (j : JobId) : base.Lawful n (s.enter body j) := by
  unfold State.enter
  split
  next ha => exact h.push ha j
  next => exact h

theorem State.Lawful.setQueue {q : List Frame} (hq : q.Sublist s.lc.queue) : base.Lawful n (s.setQueue q) :=
  h.setLink (h.queue.sublist hq) h.counters

theorem State.Lawful.dequeue (k : FrameKey) : base.Lawful n (s.dequeue k) := h.setQueue List.filter_sublist

theorem State.Lawful.withdraw (p : Frame → Bool) : base.Lawful n (s.withdraw p) := h.setQueue List.filter_sublist

theorem State.Lawful.withdrawKey (k : FrameKey) : base.Lawful n (s.withdrawKey k) := h.withdraw _

theorem State.Lawful.mapFrame {k : FrameKey} {g : Frame → Frame} (hkey : ∀ f, f.key = k → (g f).key = k)
    (hstart : ∀ f, (g f).started = true → f.started = true) : base.Lawful n (s.mapFrame k g) := by
  refine h.setLink (h.queue.map (fun f _ => ?_) fun f _ => ?_) h.counters
  · split
    next hk => rw [hkey f hk, hk]
    next => rfl
  · split
    next => exact hstart f
    next => exact id

theorem State.Lawful.refill {k : FrameKey} {body : Body} (hk : body.key = k) : base.Lawful n (s.refill k body) :=
  h.mapFrame (fun _ _ => hk) fun _ hs => hs

theorem State.Lawful.stopFrame (k : FrameKey) : base.Lawful n (s.stopFrame k) :=
  h.mapFrame (fun _ hk => hk) fun _ hs => by simp at hs

theorem State.Lawful.holdOffTest : base.Lawful n s.holdOffTest := by
  unfold State.holdOffTest
  split
  · exact h.enter _ _
  · exact h

theorem State.Lawful.holdOffReturn (before : State) : base.Lawful n (before.holdOffReturn s) := by
  unfold State.holdOffReturn
  split
  · exact h.holdOffTest
  · exact h

theorem State.Lawful.raiseLoss (k : FrameKey) : base.Lawful n (s.raiseLoss k) := by
  unfold State.raiseLoss
  split
  · exact h
  · exact (h.same (by simp)).holdOffTest

theorem State.Lawful.releaseDrivePin : base.Lawful n s.releaseDrivePin := h.same (by simp)

theorem State.Lawful.releaseLinkPin : base.Lawful n s.releaseLinkPin := h.same (by simp)

end

theorem State.Lawful.startFrame {base s : State} (h : base.Lawful 0 s) (k : FrameKey) :
    base.Lawful 1 (s.startFrame k) := by
  unfold State.startFrame
  dsimp only
  split
  · exact h.setLink (h.queue.start k) h.counters
  · exact h.setLink (h.queue.start k) h.counters

/-! ### Slot bytes (R30, R35) -/

theorem State.Lawful.setStore {base s : State} {n : Nat} {st : Store} (h : base.Lawful n s)
    (hm : Memory.wf st.mem = true) (ha : s.store.allowance.length ≤ 60 → st.allowance.length ≤ 60) :
    base.Lawful n { s with store := st } := by
  refine ⟨hm, h.queue, h.bounds, fun r r' hr hr' => ?_⟩
  obtain ⟨hmark, htracks, hallow⟩ := h.job r r' hr hr'
  exact ⟨hmark, htracks, ha ∘ hallow⟩

/-! ### Frames on the medium (R152) -/

/-- With no frame on the medium there are 0 of them. -/
theorem State.Lawful.calm {base s : State} (h : base.Lawful 1 s) (hs : s.lc.sending = none) : base.Lawful 0 s := by
  obtain ⟨hlen, hkeys, -⟩ := h.queue
  have none_started : s.lc.queue.filter (·.started) = [] := by
    simpa [Link.sending, List.filter_eq_nil_iff] using hs
  exact ⟨h.memory, ⟨hlen, hkeys, by simp [none_started]⟩, h.bounds, h.job⟩

theorem State.Lawful.loosen {base s : State} (h : base.Lawful 0 s) : base.Lawful 1 s := by
  obtain ⟨hlen, hkeys, hstarted⟩ := h.queue
  exact ⟨h.memory, ⟨hlen, hkeys, hstarted.trans (Nat.zero_le 1)⟩, h.bounds, h.job⟩

end Sys2Proof.Machine
end

section
/-! SUPPORT. The laws of O60 through the Job Controller's frames, the copy cycle and the Distribution Unit. -/

namespace Sys2Proof.Machine

section
variable {base s : State} {n : Nat} (h : base.Lawful n s)
include h

/-! ### The Job Controller's own frames (R11, R17, R118, R120) -/

theorem State.Lawful.closeTest : base.Lawful n s.closeTest := by
  unfold State.closeTest
  repeat' split
  · exact h.enter _ _
  all_goals exact h

theorem State.Lawful.closeLapse : base.Lawful n s.closeLapse := by
  unfold State.closeLapse
  split
  · exact h
  · exact h.withdrawKey _

theorem State.Lawful.refillClose : base.Lawful n s.refillClose := by
  unfold State.refillClose
  split
  · exact h.refill rfl
  · exact h

theorem State.Lawful.enterAbandon (reason : AbandonReason) : base.Lawful n (s.enterAbandon reason) := by
  unfold State.enterAbandon
  repeat' split
  next ha => exact h.push ha _
  · exact h.same (by simp)
  · exact h

theorem State.Lawful.abandonFromReserve : base.Lawful n s.abandonFromReserve := by
  unfold State.abandonFromReserve
  repeat' split
  next r _ _ _ _ ha => exact (h.push ha r.jobId).same (by simp)
  all_goals exact h

theorem State.Lawful.enterStop : base.Lawful n s.enterStop := by
  unfold State.enterStop
  repeat' split
  · exact h
  next r _ _ ha => exact (h.push ha r.jobId).same (by simp)
  · exact h.same (by simp)
  · exact h

theorem State.Lawful.stopFromReserve : base.Lawful n s.stopFromReserve := by
  unfold State.stopFromReserve
  repeat' split
  · exact h.enterStop
  all_goals exact h

theorem State.Lawful.trackLostTest (first : Option DiskFault) : base.Lawful n (s.trackLostTest first) := by
  unfold State.trackLostTest
  repeat' split
  · exact h.enterAbandon _
  all_goals exact h

theorem State.Lawful.sourceLostTest : base.Lawful n s.sourceLostTest := by
  unfold State.sourceLostTest
  repeat' split
  · exact h.enterAbandon _
  all_goals exact h

/-! ### The end of a disk (R69, R87 to R91) -/

theorem State.Lawful.dropNeed : base.Lawful n s.dropNeed := by
  unfold State.dropNeed
  exact (h.same (by simp)).withdraw _

theorem State.Lawful.endUse : base.Lawful n s.endUse := by
  unfold State.endUse
  exact (h.same (by simp)).dropNeed

theorem State.Lawful.enterOut (o : DiskOutcome) (cause : Option EndCause) : base.Lawful n (s.enterOut o cause) := by
  unfold State.enterOut
  exact (h.same (by simp)).appendHistory _

theorem State.Lawful.leavePulled (o : DiskOutcome) (cause : Option EndCause) :
    base.Lawful n (s.leavePulled o cause) := by
  unfold State.leavePulled
  exact (h.same (by simp)).appendHistory _

theorem State.Lawful.enterTally : base.Lawful n s.enterTally := by
  unfold State.enterTally
  repeat' split
  · exact h.enter _ _
  all_goals exact h

theorem State.Lawful.toTally (o : DiskOutcome) : base.Lawful n (s.toTally o) := by
  unfold State.toTally
  exact (h.same (by simp)).enterTally

theorem State.Lawful.endDisk (o : DiskOutcome) : base.Lawful n (s.endDisk o) := by
  unfold State.endDisk
  dsimp only
  split
  · exact h.endUse.toTally o
  · exact h.endUse.enterOut o none

theorem State.Lawful.reject (f : DiskFault) : base.Lawful n (s.reject f) := by
  unfold State.reject
  exact (h.same (by simp)).endDisk _

theorem State.Lawful.abandonDisk (cause : EndCause) : base.Lawful n (s.abandonDisk cause) := by
  unfold State.abandonDisk
  exact ((h.same (by simp)).endUse).enterOut _ _

theorem State.Lawful.unobtainable : base.Lawful n s.unobtainable := by
  unfold State.unobtainable
  split
  · exact h.reject _
  · exact h

theorem State.Lawful.serialLost : base.Lawful n s.serialLost := by
  unfold State.serialLost
  repeat' split
  · exact (h.same (by simp)).reject _
  · exact (h.same (by simp)).toTally _
  · exact h

/-! ### Standby and the claim (R62 to R64, R68, R78, R81) -/

theorem State.Lawful.startDisk : base.Lawful n s.startDisk := by
  unfold State.startDisk
  dsimp only
  split
  · exact (h.same (by simp)).enterOut _ _
  · exact h.same (by simp)

theorem State.Lawful.startTest : base.Lawful n s.startTest := by
  unfold State.startTest
  split
  · exact h.startDisk
  · exact h

theorem State.Lawful.toStandby : base.Lawful n s.toStandby := by
  unfold State.toStandby
  exact (h.same (by simp)).startTest

theorem State.Lawful.askClaim : base.Lawful n s.askClaim := by
  unfold State.askClaim
  repeat' split
  · exact h.enter _ _
  · exact h.toStandby
  · exact h

theorem State.Lawful.pulledUnclaimed : base.Lawful n s.pulledUnclaimed := by
  unfold State.pulledUnclaimed
  split
  · exact h.leavePulled _ _
  · exact h

theorem State.Lawful.claimWithdrawn : base.Lawful n s.claimWithdrawn := by
  unfold State.claimWithdrawn
  split
  · exact h.toStandby
  · exact h.pulledUnclaimed

theorem State.Lawful.claimRefill : base.Lawful n s.claimRefill := by
  unfold State.claimRefill
  repeat' split
  · exact h.refill rfl
  · exact (h.withdrawKey _).claimWithdrawn
  all_goals exact h

theorem State.Lawful.claimAgain : base.Lawful n s.claimAgain := by
  unfold State.claimAgain
  split
  · exact h.askClaim
  · exact h

theorem State.Lawful.claimEntered (v : Nat) : base.Lawful n (s.claimEntered v) := by
  unfold State.claimEntered
  repeat' split
  · exact h.same (by simp)
  · exact (h.same (by simp)).toTally _
  · exact h

theorem State.Lawful.tellClaim (v : Nat) (fate : ClaimFate) : base.Lawful n (s.tellClaim v fate) := by
  unfold State.tellClaim
  repeat' split
  · exact h
  · exact h.claimEntered v
  · exact h
  · exact h.serialLost
  · exact h
  · exact h.claimEntered v
  · exact h.serialLost
  · exact h

/-! ### Write and verify (R83 to R86, R104 to R106) -/

theorem State.Lawful.copySeekEnd (good : Bool) : base.Lawful n (s.copySeekEnd good) := by
  unfold State.copySeekEnd
  repeat' split
  · exact h.same (by simp)
  · exact h.same (by simp)
  · exact h.reject _

theorem State.Lawful.faults (l : List DiskFault) : base.Lawful n (l.foldl (fun s f => s.fault f) s) := by
  induction l generalizing s with
  | nil => exact h
  | cons f l ih => exact ih (h.same (by simp))

theorem State.Lawful.failedAttempt (l : List DiskFault) : base.Lawful n (s.failedAttempt l) := by
  have failed : base.Lawful n ((l.foldl (fun s f => s.fault f) s).mapDisk fun d =>
      { d with attempts := d.attempts + 1 }) := (h.faults l).same (by simp)
  unfold State.failedAttempt
  dsimp only
  repeat' split
  · exact failed.releaseDrivePin.endDisk _
  · exact failed.same (by simp)
  · exact failed.endDisk _
  · exact failed.same (by simp)

theorem State.Lawful.trackVerified : base.Lawful n s.trackVerified := by
  unfold State.trackVerified
  dsimp only
  repeat' split
  · exact h.same (by simp)
  · exact (h.same (by simp)).endDisk _
  · exact h

theorem State.Lawful.writeGood : base.Lawful n s.writeGood := by
  unfold State.writeGood
  repeat' split
  · exact h.trackVerified
  · exact h.same (by simp)
  · exact h

/-- Bytes that have changed of themselves leave the slots' bytes in canonical form. -/
theorem State.Lawful.upset (i : Nat) (u : Upset) : base.Lawful n { s with store := s.store.upset i u } :=
  h.setStore (Store.wf_upset i u h.memory) (by simp)

theorem State.Lawful.markDamaged (i : Nat) : base.Lawful n (s.markDamaged i) := by
  unfold State.markDamaged
  dsimp only
  split
  · exact h.same (by simp)
  · have counted := (h.setStore (st := s.store.setSlot i { s.store.slot i with damaged := true }) h.memory
      (by simp)).count (g := fun c => { c with damaged := bump c.damaged })
        fun c hc => by simp_all [Counters.toList_le_iff, bump_le]
    exact counted.same (by simp)

theorem State.Lawful.applyCheck (q : Recipe) (u : Upset) : base.Lawful n (s.applyCheck q u).1 := by
  unfold State.applyCheck
  dsimp only
  repeat' split
  · exact h
  · exact h.upset _ _
  · exact (h.upset _ _).markDamaged _

theorem State.Lawful.verifyEnd (u : Upset) : base.Lawful n (s.verifyEnd u) := by
  unfold State.verifyEnd
  split
  next v r _ _ =>
    have stopped : base.Lawful n { s with
        vu := some { v with running := false, reading := none }, dp := s.dp.disarm } := h.same (by simp)
    dsimp only
    generalize hc : (if r.recipe.verify = .full ∧ r.kind = .copy then _ else _ : State × Bool) = checked
    have lawful : base.Lawful n checked.1 := by
      subst hc
      split
      · exact stopped.applyCheck _ _
      · exact stopped
    repeat' split
    · exact lawful.same (by simp)
    · exact lawful.trackVerified
    · exact lawful.failedAttempt _
  next => exact h

theorem State.Lawful.copyHomeEnd (good : Bool) : base.Lawful n (s.copyHomeEnd good) := by
  unfold State.copyHomeEnd
  split
  · exact (h.same (by simp)).askClaim
  · exact h.reject _

theorem State.Lawful.copyQualified : base.Lawful n s.copyQualified := by
  unfold State.copyQualified
  dsimp only
  repeat' split
  · exact (h.same (by simp)).copyHomeEnd _
  · exact h.same (by simp)
  · exact h.same (by simp)
  all_goals exact h

theorem State.Lawful.copyNotQualified (seen : Bool) : base.Lawful n (s.copyNotQualified seen) := by
  unfold State.copyNotQualified
  split
  · exact h.reject _
  · exact h

theorem State.Lawful.copyNoIndex : base.Lawful n s.copyNoIndex := by
  unfold State.copyNoIndex
  repeat' split
  · exact (h.same (by simp)).failedAttempt _
  · exact (h.same (by simp)).failedAttempt _
  · exact h

/-! ### The disk pulled, the job's end, DISKIN (R77, R90 to R93) -/

theorem State.Lawful.pullDisk : base.Lawful n s.pullDisk := by
  have pulled : base.Lawful n ((s.fault .pulled).endUse.mapDrive fun dp => { dp with lock := false }) :=
    ((h.same (by simp) : base.Lawful n (s.fault .pulled)).endUse).same (by simp)
  unfold State.pullDisk
  dsimp only
  repeat' split
  · exact pulled.same (by simp)
  · refine (pulled.same (by simp)).mapFrame (fun f hk => ?_) fun f => ?_
    · split
      next => rfl
      next => exact hk
    · split <;> exact id
  · exact pulled.same (by simp)
  · exact (pulled.withdrawKey _).leavePulled _ _
  · exact (pulled.same (by simp)).toTally _
  · exact (pulled.same (by simp)).toTally _
  · exact (pulled.same (by simp)).toTally _
  · exact pulled.leavePulled _ _

theorem State.Lawful.copyJobEnd (cause : EndCause) : base.Lawful n (s.copyJobEnd cause) := by
  have resumed : base.Lawful n (s.mapCopy fun cs => { cs with paused := false }) := h.same (by simp)
  unfold State.copyJobEnd
  dsimp only
  split
  case h_1 | h_2 | h_3 =>
    split
    · exact resumed.same (by simp)
    · exact resumed.abandonDisk cause
  case h_4 | h_5 | h_6 => exact resumed.abandonDisk cause
  case h_7 =>
    split
    · exact resumed.leavePulled _ _
    · exact resumed.abandonDisk cause
  all_goals exact resumed

theorem State.Lawful.tallyDone (o : DiskOutcome) : base.Lawful n (s.tallyDone o) := by
  unfold State.tallyDone
  repeat' split
  · exact h.leavePulled _ _
  · exact h.enterOut _ _
  · exact h

theorem State.Lawful.settleByDiskin : base.Lawful n s.settleByDiskin := by
  unfold State.settleByDiskin
  split
  · exact (h.same (by simp)).startTest
  · exact h.same (by simp)
  · exact h.same (by simp)
  · exact h

theorem State.Lawful.copyUnseated : base.Lawful n s.copyUnseated := by
  unfold State.copyUnseated
  split
  · exact h.pullDisk
  · exact h.settleByDiskin

end

end Sys2Proof.Machine
end

section
/-! SUPPORT. The laws of O60 through the Distribution Unit, the Image Store's fills and the Source Sequencer. -/

namespace Sys2Proof.Machine

section
variable {base s : State} {n : Nat} (h : base.Lawful n s)
include h

/-! ### The want list (R43 to R51, R58) -/

/-- A change of the Distribution Unit that keeps its lists within their bounds. -/
theorem State.Lawful.mapDu {g : Distribution → Distribution}
    (hrestores : (g s.du).restores.length ≤ Config.restorePlaces)
    (hrepair : (g s.du).repair.length ≤ Config.repairPositions) : base.Lawful n (s.mapDu g) := by
  obtain ⟨hhist, -, -, hcount⟩ := h.bounds
  exact ⟨h.memory, h.queue, ⟨hhist, hrestores, hrepair, hcount⟩, h.job⟩

theorem State.Lawful.restores : s.du.restores.length ≤ Config.restorePlaces := h.bounds.2.1

theorem State.Lawful.repair : s.du.repair.length ≤ Config.repairPositions := h.bounds.2.2.1

theorem State.Lawful.updateWant (t : Nat) (g : Want → Want) : base.Lawful n (s.mapDu (Distribution.update t g)) :=
  h.mapDu h.restores (by simpa [Distribution.update] using h.repair)

theorem State.Lawful.removeWant (t : Nat) : base.Lawful n (s.removeWant t) := by
  unfold State.removeWant
  split
  · exact (h.mapDu h.restores ((List.length_filter_le _ _).trans h.repair)).withdrawKey _
  · exact h

theorem State.Lawful.removeWants (l : List Want) : base.Lawful n (s.removeWants l) := by
  unfold State.removeWants
  induction l generalizing s with
  | nil => exact h
  | cons w l ih => exact ih (h.removeWant w.track)

theorem State.Lawful.resendWant (w : Want) (j : JobId) : base.Lawful n (s.resendWant w j) := by
  unfold State.resendWant
  exact (h.updateWant _ _).enter _ _

theorem State.Lawful.addNeed (t : Nat) (j : JobId) : base.Lawful n (s.addNeed t j) := by
  unfold State.addNeed
  exact (h.same (by simp)).enter _ _

theorem State.Lawful.addRepair (hroom : s.du.repair.length < Config.repairPositions) (t : Nat) (j : JobId) :
    base.Lawful n (s.addRepair t j) := by
  unfold State.addRepair
  refine (h.mapDu h.restores ?_).enter _ _
  rw [length_insertWant]
  exact hroom

theorem State.Lawful.needTestOf (u : Nat) : base.Lawful n (s.needTestOf u) := by
  unfold State.needTestOf
  repeat' split
  · exact h
  · exact h.unobtainable
  · exact h.addNeed _ _
  all_goals exact h

theorem State.Lawful.needTest : base.Lawful n s.needTest := by
  unfold State.needTest
  generalize s.window = l
  induction l generalizing s with
  | nil => exact h
  | cons u l ih => exact ih (h.needTestOf u)

theorem State.Lawful.feedOne : base.Lawful n s.feedOne := by
  unfold State.feedOne
  repeat' split
  next hroom _ _ _ => exact h.addRepair hroom _ _
  all_goals exact h

theorem State.Lawful.repairFeed : base.Lawful n s.repairFeed := h.feedOne.feedOne.feedOne

theorem State.Lawful.settle (before : State) : base.Lawful n (s.settle before) := by
  unfold State.settle
  dsimp only
  repeat' split
  · exact h.repairFeed.needTest.repairFeed
  · exact h.needTest.repairFeed
  · exact h.repairFeed.repairFeed
  · exact h.repairFeed

theorem State.Lawful.lostRelease (t : Nat) : base.Lawful n (s.lostRelease t) := by
  have left : base.Lawful n ((s.removeWant t).mapDu fun du => { du with lost := insertTrack t du.lost }) :=
    (h.removeWant t).same (by simp)
  unfold State.lostRelease
  dsimp only
  split
  · exact left.unobtainable
  · exact left

/-- A record whose fixed part and mark stay. -/
theorem State.Lawful.mapRecord {g : JobRecord → JobRecord} (hmark : ∀ r, (g r).mark = r.mark)
    (hfixed : ∀ r, (g r).fixed = r.fixed) : base.Lawful n (s.mapRecord g) :=
  h.same (by simp [Function.comp_def, hmark, hfixed])

theorem State.Lawful.giveUp (t : Nat) : base.Lawful n (s.giveUp t) := by
  have left := h.removeWant t
  unfold State.giveUp
  dsimp only
  split
  · exact left.unobtainable
  · exact (left.mapRecord (g := fun r => { r with repair := r.repair.erase t, homeShort := r.homeShort + 1 })
      (fun _ => rfl) (fun _ => rfl)).setStore left.memory fun hb => List.length_erase_le.trans hb

theorem State.Lawful.wantExpired (w : Want) (j : JobId) : base.Lawful n (s.wantExpired w j) := by
  unfold State.wantExpired
  repeat' split
  · exact h
  · exact h.resendWant _ _
  · exact h.giveUp _
  · exact h.resendWant _ _
  · exact h.resendWant _ _

theorem State.Lawful.wantHeard (t : Nat) : base.Lawful n (s.wantHeard t) := h.updateWant _ _

theorem State.Lawful.wantDropped (t : Nat) : base.Lawful n (s.wantDropped t) := h.updateWant _ _

theorem State.Lawful.shareWant (b : WantBody) : base.Lawful n (s.shareWant b) := by
  unfold State.shareWant
  repeat' split
  · exact (h.wantHeard _).withdrawKey _
  all_goals exact h

theorem State.Lawful.answerWant (t : Nat) : base.Lawful n (s.answerWant t) := by
  unfold State.answerWant
  dsimp only
  split
  · exact (h.enter _ _).ite h
  · exact h

theorem State.Lawful.queueRestore (t : Nat) : base.Lawful n (s.queueRestore t) := by
  unfold State.queueRestore
  split
  · exact h
  next hroom =>
    obtain ⟨-, -, hroom⟩ := by simpa only [not_or] using hroom
    refine h.mapDu ?_ h.repair
    simp only [List.length_append, List.length_singleton]
    omega

theorem State.Lawful.restoreRequest (t : Nat) : base.Lawful n (s.restoreRequest t) := by
  unfold State.restoreRequest
  repeat' split
  · exact h.enter _ _
  · exact h.queueRestore _
  all_goals exact h

/-! ### The release mark (R41) -/

/-- The mark rises to a mark within the tracks of the job. -/
theorem State.Lawful.raiseMark {m : Nat} (hm : ∀ r, s.jc.record = some r → m ≤ r.tracks) :
    base.Lawful n (s.raiseMark m) := by
  refine ⟨h.memory, h.queue, h.bounds, fun r r' hr hr' => ?_⟩
  obtain ⟨r1, hr1, rfl⟩ : ∃ r1, s.jc.record = some r1
      ∧ (if r1.mark < m then { r1 with mark := m, markAt := s.now } else r1) = r' := by
    simpa [State.raiseMark] using hr'
  obtain ⟨hmark, htracks, hallow⟩ := h.job r r1 hr hr1
  split
  next hlt => exact ⟨hmark.trans hlt.le, fun _ => hm r1 hr1, hallow⟩
  next => exact ⟨hmark, htracks, hallow⟩

theorem State.Lawful.markRelease (b : ReleaseBody) : base.Lawful n (s.markRelease b) := by
  unfold State.markRelease
  split
  next r hr =>
    have own {m : Nat} (hm : m ≤ r.tracks) : ∀ r1, s.jc.record = some r1 → m ≤ r1.tracks := by
      intro r1 hr1
      obtain rfl : r = r1 := Option.some.inj (hr.symm.trans hr1)
      exact hm
    split
    next hlt =>
      repeat' split
      · exact h.raiseMark (own hlt.2.2)
      · exact h.raiseMark (own le_rfl)
      · exact h
    next => exact h
  next => exact h

/-! ### Fills (R29 to R31) -/

theorem State.Lawful.beginFill (f : ReleaseHead) : base.Lawful n (s.beginFill f) := by
  unfold State.beginFill
  split
  · exact h.same (by simp)
  · exact h.count fun c hc => by simp_all [Counters.toList_le_iff, bump_le]

/-- The sectors of a body are written into a slot. -/
theorem State.Lawful.fillSectors (q : Recipe) (i : Nat) (prev : Option Nat) (l : List (Nat × List Byte)) :
    base.Lawful n { s with store := Store.fillSectors q i prev l s.store } :=
  h.setStore (Store.wf_fillSectors q i prev l h.memory) (by simp)

theorem State.Lawful.writeSector (q : Recipe) (i z : Nat) (data : List Byte) :
    base.Lawful n { s with store := s.store.writeSector q i z data } :=
  h.setStore (Store.wf_writeSector q i z data h.memory) (by simp)

theorem State.Lawful.breakFill (body : List Byte) : base.Lawful n (s.breakFill body) := by
  unfold State.breakFill
  split
  next q i _ _ =>
    exact (h.fillSectors q i none (arrivedSectors q.size q.sectors (body.drop 9))).same (by simp)
  · exact h.same (by simp)
  · exact h

theorem State.Lawful.discardFrame (raw : List Byte) : base.Lawful n (s.discardFrame raw) := (h.breakFill raw).badFrame

theorem State.Lawful.settleFill (b : ReleaseBody) : base.Lawful n (s.settleFill b) := by
  unfold State.settleFill
  dsimp only
  split
  next i q _ _ =>
    have filled := h.fillSectors q i none b.sectors
    split
    · exact (filled.same (by simp)).removeWant _
    · exact (filled.same (by simp)).count fun c hc => by simp_all [Counters.toList_le_iff, bump_le]
  next => exact h

/-! ### The Source Sequencer (R108 to R119) -/

theorem State.Lawful.sourceAbandon (reason : AbandonReason) : base.Lawful n (s.sourceAbandon reason) := by
  unfold State.sourceAbandon
  dsimp only
  split
  · exact h
  · split
    · exact (h.same (by simp)).enterAbandon _
    · exact (h.same (by simp)).enterAbandon _

theorem State.Lawful.enterRelease (v : Reserve) : base.Lawful n (s.enterRelease v) := by
  unfold State.enterRelease
  dsimp only
  repeat' split
  next r _ _ ha => exact (h.push ha r.jobId).same (by simp)
  · exact h.same (by simp)
  · exact h.same (by simp)
  · exact h

theorem State.Lawful.releaseFromReserve : base.Lawful n s.releaseFromReserve := by
  unfold State.releaseFromReserve
  split
  · exact h.enterRelease _
  · exact h

theorem State.Lawful.releaseTrack (t : Nat) : base.Lawful n (s.releaseTrack t) := by
  unfold State.releaseTrack
  dsimp only
  cases hg : s.store.drivePinGrant t with
  | none =>
    dsimp only
    split
    · exact (h.same (by simp)).enterRelease _
    · exact h.enterRelease _
  | some i =>
    have pinned : base.Lawful n { s with store := s.store.takeDrivePin i } := h.same (by simp)
    dsimp only
    split
    · exact (pinned.same (by simp)).enterRelease _
    · exact pinned.enterRelease _

theorem State.Lawful.readFailed (reason : AbandonReason) : base.Lawful n (s.readFailed reason) := by
  have ended : base.Lawful n s.endRead := h.same (by simp)
  unfold State.readFailed
  dsimp only
  repeat' split
  · exact ended.sourceAbandon _
  · exact ended.enterRelease _
  · exact h

theorem State.Lawful.sourceSeekEnd (good : Bool) : base.Lawful n (s.sourceSeekEnd good) := by
  unfold State.sourceSeekEnd
  repeat' split
  · exact h.same (by simp)
  · exact h.same (by simp)
  · exact h.readFailed _
  · exact h

theorem State.Lawful.trySlot : base.Lawful n s.trySlot := by
  unfold State.trySlot
  dsimp only
  repeat' split
  · exact (h.same (by simp)).releaseTrack _
  · exact (h.same (by simp)).sourceSeekEnd _
  · exact h.same (by simp)
  all_goals exact h

theorem State.Lawful.startRead (t : Nat) : base.Lawful n (s.startRead t) := by
  unfold State.startRead
  exact (h.same (by simp)).trySlot

theorem State.Lawful.readGood (q : Recipe) (m : MasterRead) (i : Nat) : base.Lawful n (s.readGood q m i) := by
  unfold State.readGood
  exact ((h.same (by simp)).removeWant _).releaseTrack _

theorem State.Lawful.serve (t : Nat) : base.Lawful n (s.serve t) := by
  unfold State.serve
  repeat' split
  · exact h
  · exact h.releaseTrack _
  · exact h.startRead _
  · exact h.enterRelease _

theorem State.Lawful.decision : base.Lawful n s.decision := by
  unfold State.decision
  repeat' split
  next t rest hrest =>
    have room := h.restores
    rw [hrest, List.length_cons] at room
    have taken := h.mapDu (g := fun du => { du with restores := rest }) (Nat.le_of_succ_le room) h.repair
    exact (taken.same (by simp)).closeLapse.serve _
  · exact (h.same (by simp)).startRead _
  · exact h.same (by simp)
  · exact h

theorem State.Lawful.serveAppended : base.Lawful n s.serveAppended := by
  unfold State.serveAppended
  split
  · exact h.decision
  · exact h

theorem State.Lawful.restoreEnds : base.Lawful n s.restoreEnds := by
  unfold State.restoreEnds
  exact (h.same (by simp)).closeTest

theorem State.Lawful.sourceReleased (t : Nat) (status : ReleaseStatus) (reason : ReleaseReason) :
    base.Lawful n (s.sourceReleased t status reason) := by
  unfold State.sourceReleased
  split
  · exact h.restoreEnds.sourceAbandon _
  · exact (h.same (by simp)).restoreEnds.decision
  · exact (h.same (by simp)).decision

theorem State.Lawful.sourceWithdrawn (t : Nat) (reason : ReleaseReason) :
    base.Lawful n (s.sourceWithdrawn t reason) := by
  unfold State.sourceWithdrawn
  dsimp only
  repeat' split
  · exact h.releaseDrivePin
  · exact h.releaseDrivePin.serve _
  · exact (h.same (by simp)).startRead _

theorem State.Lawful.sourceCutOff (t : Nat) (reason : ReleaseReason) : base.Lawful n (s.sourceCutOff t reason) := by
  unfold State.sourceCutOff
  dsimp only
  repeat' split
  · exact h.releaseDrivePin
  · exact h.releaseDrivePin.enterRelease _
  · exact (h.same (by simp)).serve _
  · exact h.releaseDrivePin.sourceAbandon _
  · exact (h.same (by simp)).startRead _

theorem State.Lawful.sourceHomeEnd (good : Bool) : base.Lawful n (s.sourceHomeEnd good) := by
  unfold State.sourceHomeEnd
  split
  · exact h.decision
  · exact h.sourceAbandon _

theorem State.Lawful.sourceQualified : base.Lawful n s.sourceQualified := by
  unfold State.sourceQualified
  dsimp only
  repeat' split
  · exact (h.same (by simp)).sourceHomeEnd _
  · exact h.same (by simp)
  · exact h.same (by simp)
  all_goals exact h

theorem State.Lawful.sourceNotQualified : base.Lawful n s.sourceNotQualified := by
  unfold State.sourceNotQualified
  repeat' split
  · exact h.sourceAbandon _
  · exact h.readFailed _
  all_goals exact h

theorem State.Lawful.sourceNoIndex : base.Lawful n s.sourceNoIndex := by
  unfold State.sourceNoIndex
  repeat' split
  · exact h.readFailed _
  all_goals exact h

theorem State.Lawful.masterRemoved : base.Lawful n s.masterRemoved := by
  unfold State.masterRemoved
  dsimp only
  repeat' split
  · exact (h.same (by simp)).sourceAbandon _
  · exact (h.same (by simp)).readFailed _
  · exact h

theorem State.Lawful.sourceOpen : base.Lawful n s.sourceOpen := by
  unfold State.sourceOpen
  dsimp only
  split
  · exact h.same (by simp)
  · exact (h.same (by simp)).sourceAbandon _

end

end Sys2Proof.Machine
end

section
/-! SUPPORT. The laws of O60 through the job's life, the frames received, and the frames offered and unsent. -/

namespace Sys2Proof.Machine

/-! ### Home repair (R20, R24) -/

theorem JobRecord.homes_nodup (r : JobRecord) (i : StationId) : (r.homes i).Nodup := by
  unfold JobRecord.homes homesAmong homeTracks
  repeat' split
  · exact List.nodup_range.filter _
  all_goals exact List.nodup_nil

/-- Home repair gives 60 places at most. -/
theorem Store.repaired_allowance (st : Store) {l : List Nat} (hl : l.Nodup) :
    (st.repaired l).allowance.length ≤ 60 := by
  have placed : (st.repaired l).allowance ⊆ st.placedFirst l ++ st.placedSecond l := by
    intro t ht
    obtain ⟨-, ht⟩ := List.mem_filter.1 ht
    simpa using ht
  have first : (st.placedFirst l).length ≤ Config.allowancePlaces := List.length_take_le _ _
  have second : (st.placedSecond l).length ≤ Config.allowancePlaces - (st.placedFirst l).length :=
    List.length_take_le _ _
  calc (st.repaired l).allowance.length
      ≤ (st.placedFirst l ++ st.placedSecond l).length := (List.subperm_of_subset (hl.filter _) placed).length_le
    _ ≤ Config.allowancePlaces := by rw [List.length_append]; omega

section
variable {base s : State} {n : Nat} (h : base.Lawful n s)
include h

theorem State.Lawful.homeRepair : base.Lawful n s.homeRepair := by
  cases hr : s.jc.record with
  | none => simpa only [State.homeRepair, hr] using h
  | some r =>
    by_cases hj : r.kind = .copy ∧ r.role ≠ .observer
    · obtain ⟨hk, ho⟩ := hj
      rw [State.homeRepair_eq hr hk ho]
      have marked := h.mapRecord (g := fun r' => { r' with
        repair := s.store.placedSecond (r.homes s.station)
        homeShort := (r.homes s.station).length - (s.store.placedFirst (r.homes s.station)).length
          - (s.store.placedSecond (r.homes s.station)).length }) (fun _ => rfl) (fun _ => rfl)
      have memory : (s.store.repaired (r.homes s.station)).mem = s.store.mem := by simp [Store.repaired]
      exact (marked.setStore (st := s.store.repaired (r.homes s.station)) (by rw [memory]; exact h.memory)
        fun _ => Store.repaired_allowance _ (r.homes_nodup _)).removeWants _
    · have same : s.homeRepair = s := by simp only [State.homeRepair, hr, if_neg hj]
      rwa [same]

/-! ### The job's end (R14) -/

theorem State.Lawful.usesEnded (r : JobRecord) (cause : EndCause) : base.Lawful n (s.usesEnded r cause) := by
  have ended := (h.setQueue (List.filter_sublist (p := fun f => !f.ofJob r.jobId))).copyJobEnd cause
  unfold State.usesEnded
  dsimp only
  split
  · exact ended.same (by simp)
  · exact ended

/-- A state without a record, whose Distribution Unit holds nothing. -/
theorem State.Lawful.noJob {t : State} (hm : t.store.mem = s.store.mem) (hq : t.lc.queue.Sublist s.lc.queue)
    (hc : t.lc.counters = s.lc.counters) (hp : t.pc.history = s.pc.history) (hd : t.du = {})
    (hr : t.jc.record = none) : base.Lawful n t := by
  refine ⟨?_, h.queue.sublist hq, ?_, fun r r' _ hr' => ?_⟩
  · unfold State.memorySound
    exact hm ▸ h.memory
  · obtain ⟨hhist, -, -, hcount⟩ := h.bounds
    unfold State.bounded
    rw [hc, hp, hd]
    exact ⟨hhist, Nat.zero_le _, Nat.zero_le _, hcount⟩
  · simp [hr] at hr'

theorem State.Lawful.endJob (cause : EndCause) : base.Lawful n (s.endJob cause) := by
  cases hr : s.jc.record with
  | none => simpa only [State.endJob, hr] using h
  | some r =>
    rw [State.endJob_eq cause hr]
    exact (h.usesEnded r cause).noJob (by simp) (by simp) (by simp) (by simp) (by simp) (by simp)

/-! ### Departure and the record made (R6, R16) -/

/-- The record held takes a form with its mark and its fixed part. -/
theorem State.Lawful.setRecord {r u : JobRecord} (hr : s.jc.record = some r) (hm : u.mark = r.mark)
    (hf : u.fixed = r.fixed) : base.Lawful n { s with jc := { s.jc with record := some u } } :=
  h.same (by simp [hr, hm, hf])

theorem State.Lawful.depart (i : StationId) : base.Lawful n (s.depart i) := by
  cases hr : s.jc.record with
  | none => simpa only [State.depart, hr] using h
  | some r =>
    by_cases hin : (inMask r.roster i && !inMask r.departed i) = true
    · obtain ⟨hroster, hout⟩ : inMask r.roster i = true ∧ inMask r.departed i = false := by simpa using hin
      have left := h.setRecord (u := r.departing i) hr rfl rfl
      by_cases hl : (r.departing i).remaining = []
      · rw [State.depart_last hr hroster hout hl]
        exact left.endJob _
      · by_cases hc : r.comesToClose i s.station
        · rw [State.depart_closes hr hroster hout hl hc]
          exact left.sourceLostTest.closeTest.homeRepair.startTest
        · rw [State.depart_stays hr hroster hout hl hc]
          exact left.closeTest.homeRepair.startTest
    · simpa only [State.depart, hr, if_neg hin] using h

theorem State.Lawful.overtakenOpen : base.Lawful n s.overtakenOpen := by
  unfold State.overtakenOpen
  split
  · exact (h.withdrawKey .jobOpen).same (by simp)
  · exact h

/-- A record is made where the command began with none. -/
theorem State.Lawful.withRecord (hb : base.jc.record = none) (r : JobRecord) : base.Lawful n (s.withRecord r) := by
  obtain ⟨hhist, -, -, hcount⟩ := h.bounds
  unfold State.withRecord
  refine State.Lawful.overtakenOpen ⟨?_, h.queue, ⟨hhist, Nat.zero_le _, Nat.zero_le _, hcount⟩, fun r r' hr => ?_⟩
  · simpa [State.memorySound] using h.memory
  · simp [hb] at hr

theorem State.Lawful.createRecord (hb : base.jc.record = none) (f : Rx) (b : OpenBody) (recipe : Recipe) :
    base.Lawful n (s.createRecord f b recipe) := by
  by_cases hrole : (s.newRecord f b recipe).role = .source
  · rw [State.createRecord_source hrole]
    exact (h.withRecord hb _).sourceOpen
  · rw [State.createRecord_other hrole]
    exact (h.withRecord hb _).startTest

theorem State.Lawful.openHeard (hb : s.jc.record = none → base.jc.record = none) (f : Rx) (b : OpenBody) :
    base.Lawful n (s.openHeard f b) := by
  unfold State.openHeard
  split
  · exact h
  next hr =>
    split
    · exact h.createRecord (hb hr) f b _
    · exact h.badFrame.same (by simp [State.discardOpen])

theorem State.Lawful.load (selector : Fin 8) : base.Lawful n (s.load selector) := by
  unfold State.load
  split
  · exact h.same (by simp)
  next terms hc =>
    have ha : s.accepts (.jobOpen terms) = true := by
      unfold State.loadChecks at hc
      dsimp only at hc
      repeat' split at hc
      all_goals try cases hc
      assumption
    exact (h.push ha s.jobIdNow).same (by simp [State.enterOpen])

/-! ### A frame completed (R152, R155, R158, R159) -/

theorem State.Lawful.ownLeaves (k : Option FrameKey) (i : StationId) : base.Lawful n (s.ownLeaves k i) := by
  unfold State.ownLeaves
  repeat' split
  · exact h
  · exact (h.dequeue _).releaseLinkPin
  · exact h.dequeue _
  · exact h

theorem State.Lawful.afterCompletion (before : State) : base.Lawful n (s.afterCompletion before) :=
  (h.holdOffReturn before).claimRefill.claimAgain.enterTally.closeLapse

theorem State.Lawful.completed {α : Type} {raw : List Byte} {body : Option α} {k : α → Option FrameKey}
    {i : StationId} {apply : α → State → State}
    (happly : ∀ (b : α) (x : State), base.Lawful n x → x.fixed = s.fixed → base.Lawful n (apply b x)) :
    base.Lawful n (s.completed raw body k i apply) := by
  unfold State.completed
  split
  · split
    · exact h.same (by simp)
    · cases body with
      | none => exact h.discardFrame raw
      | some b =>
        have left : base.Lawful n ((s.ownLeaves (k b) i).endViewOf i) := (h.ownLeaves (k b) i).same (by simp)
        exact (happly b _ left (by simp [State.fixed])).afterCompletion s
  · exact h

theorem State.Lawful.inJob {j : JobId} {note apply : State → State} (hnote : base.Lawful n (note s))
    (happly : base.Lawful n (apply s)) : base.Lawful n (s.inJob j note apply) := by
  unfold State.inJob
  split
  · exact happly.ite h
  · exact hnote

theorem State.Lawful.setNote (j : JobId) : base.Lawful n (s.setNote j) := h.same (by simp)

theorem State.Lawful.clearNote (j : JobId) : base.Lawful n (s.clearNote j) := h.same (by simp)

/-! ### The frames of the job and of its serials (R9, R12, R13, R66, R70) -/

theorem State.Lawful.stopHeard : base.Lawful n s.stopHeard := by
  unfold State.stopHeard
  repeat' split
  · exact State.Lawful.closeTest (h.same (by simp))
  all_goals exact h

theorem State.Lawful.closeHeard (carried : Nat) : base.Lawful n (s.closeHeard carried) := by
  unfold State.closeHeard
  exact (h.same (by simp)).endJob _

theorem State.Lawful.abandonHeard (reason : AbandonReason) : base.Lawful n (s.abandonHeard reason) := by
  have based : base.Lawful n (s.setNextBase JobRecord.nextBase) := h.same (by simp)
  exact (based.endJob (.abandon reason)).same (by simp [State.abandonHeard])

/-- The record takes the steps of a CLAIM or a TALLY, with the drain test. -/
theorem State.Lawful.setAccount {r u : JobRecord} (hr : s.jc.record = some r) (hm : u.mark = r.mark)
    (hf : u.fixed = r.fixed) : base.Lawful n (s.setAccount u) :=
  h.setRecord hr (by simp [hm]) (by simp [hf])

theorem State.Lawful.claimHeard (i : StationId) (v c : Nat) : base.Lawful n (s.claimHeard i v c) := by
  cases hr : s.jc.record with
  | none => simpa only [State.claimHeard, hr] using h
  | some r =>
    have counted := h.setAccount (u := (r.applyClaim i v c).1) hr (by simp) (by simp)
    simp only [State.claimHeard, hr]
    exact (counted.tellClaim v _).closeTest.startTest.ite h.badFrame

theorem State.Lawful.tallyHeard (i : StationId) (b : TallyBody) : base.Lawful n (s.tallyHeard i b) := by
  cases hr : s.jc.record with
  | none => simpa only [State.tallyHeard, hr] using h
  | some r =>
    have applied : base.Lawful n (s.tallyApplied i b r) :=
      (h.setAccount (u := (r.applyTally i b).1) hr (by simp) (by simp)).tellClaim 0 _
    have tested : base.Lawful n (s.tallyTested i b r) := (applied.closeTest.ite applied).trackLostTest _
    by_cases hp : r.tallyPasses i b = true
    · rw [State.tallyHeard_passes hr hp]
      exact ((tested.tallyDone _).ite tested).startTest
    · rw [State.tallyHeard_fails hr (by simpa using hp)]
      exact h.badFrame

/-! ### The frames of track distribution (R45 to R56, R114, R116) -/

theorem State.Lawful.ownWant (b : WantBody) : base.Lawful n (s.ownWant b) := by
  unfold State.ownWant
  refine State.Lawful.wantHeard (h.count fun c hc => ?_) _
  split <;> simp_all [Counters.toList_le_iff, bump_le]

theorem State.Lawful.otherWant (b : WantBody) : base.Lawful n (s.otherWant b) := by
  unfold State.otherWant
  exact ((h.shareWant b).restoreRequest _).serveAppended.ite ((h.shareWant b).answerWant _)

theorem State.Lawful.releaseMarked (b : ReleaseBody) : base.Lawful n (s.releaseMarked b) := by
  unfold State.releaseMarked
  split
  · exact h.markRelease b
  · exact h.lostRelease _

theorem State.Lawful.releaseHeard (own : Bool) (origin : Option ReleaseOrigin) (b : ReleaseBody) :
    base.Lawful n (s.releaseHeard own origin b) := by
  have answered : base.Lawful n (if own then s else s.suppressAnswers b.track) := h.ite (h.withdrawKey _)
  have marked := (answered.settleFill b).releaseMarked b
  rw [State.releaseHeard_eq]
  dsimp only
  split
  · exact (marked.sourceReleased b.track b.status b.reason).same (by simp)
  · exact marked.same (by simp)

/-! ### Calls and queries (R160, R170) -/

theorem State.Lawful.callFirstHeard (i : StationId) (b : CallBody) : base.Lawful n (s.callFirstHeard i b) := by
  have departed : base.Lawful n ((s.present i b).depart i) := State.Lawful.depart (h.same (by simp)) i
  unfold State.callFirstHeard
  exact departed.ite (departed.enter _ _)

omit h in
theorem clearedCounter_le {off len k c m : Nat} (h : c ≤ m) : clearedCounter off len k c ≤ m := by
  unfold clearedCounter
  split
  · exact Nat.zero_le m
  · exact h

theorem State.Lawful.queried (q : QueryBody) : base.Lawful n (s.queried q) := by
  unfold State.queried
  dsimp only
  split
  · split
    next ha =>
      refine State.Lawful.ite ((h.push ha 0).count fun c hc => ?_) (h.push ha 0)
      rw [Counters.toList_le_iff] at hc ⊢
      obtain ⟨h0, h1, h2, h3, h4, h5, h6, h7, h8⟩ := hc
      exact ⟨clearedCounter_le h0, clearedCounter_le h1, clearedCounter_le h2, clearedCounter_le h3,
        clearedCounter_le h4, clearedCounter_le h5, clearedCounter_le h6, clearedCounter_le h7, clearedCounter_le h8⟩
    next => exact h
  · exact h

/-! ### Frames offered, and frames that leave the queue unsent (R36, R151, R152, R154) -/

theorem State.Lawful.withdrawnAtOffer (t : Nat) (reason : ReleaseReason) (o : ReleaseOrigin) :
    base.Lawful n (s.withdrawnAtOffer t reason o) := by
  have left := h.dequeue (.release t reason)
  unfold State.withdrawnAtOffer
  dsimp only
  split
  · exact left
  · exact (left.queueRestore t).serveAppended
  · exact (left.sourceWithdrawn t reason).repairFeed

theorem State.Lawful.dropped (body : Body) : base.Lawful n (s.dropped body) := by
  unfold State.dropped
  split
  · exact h.same (by simp)
  · exact (h.enterAbandon _).ite h
  · exact h.pulledUnclaimed
  · exact h.wantDropped _
  · exact h.enterRelease _
  · exact h.enter _ _
  · exact h

theorem State.Lawful.faultFrame (f : Frame) : base.Lawful n (s.faultFrame f) := by
  have counted := h.count (g := fun c => { c with sendFaults := bump c.sendFaults })
    fun c hc => by simp_all [Counters.toList_le_iff, bump_le]
  have stopped := (counted.stopFrame f.key).releaseLinkPin
  have again := stopped.mapFrame (k := f.key) (g := fun g => { g with faults := g.faults + 1 })
    (fun _ hk => hk) fun _ hs => hs
  unfold State.faultFrame
  exact State.Lawful.ite (again.closeLapse.ite again) ((stopped.dequeue _).dropped _)

theorem State.Lawful.loseFrame (f : Frame) : base.Lawful n (s.loseFrame f) := by
  have lost := ((h.stopFrame f.key).raiseLoss f.key).releaseLinkPin
  unfold State.loseFrame
  dsimp only
  split
  · exact lost.claimRefill
  · exact lost.refillClose.closeLapse
  · exact lost

theorem State.Lawful.cutFrame (f : Frame) (i : Nat) : base.Lawful n (s.cutFrame f i) := by
  have cut := ((h.markDamaged i).dequeue f.key).releaseLinkPin
  unfold State.cutFrame
  dsimp only
  repeat' split
  · exact cut
  · exact (cut.queueRestore _).serveAppended
  · exact cut.sourceCutOff _ _
  · exact h

theorem State.Lawful.cutOff (f : Frame) (u : Upset) : base.Lawful n (s.cutOff f u) := by
  unfold State.cutOff
  split
  · exact ((h.upset _ u).cutFrame f _).ite (h.upset _ u)
  · exact h

end

theorem State.Lawful.offer {base s : State} (h : base.Lawful 0 s) (fuel : Nat) :
    base.Lawful 1 (State.offer fuel s) := by
  induction fuel generalizing s with
  | zero => exact h.loosen
  | succ fuel ih =>
    unfold State.offer
    split
    · exact h.loosen
    · split
      · split
        · exact State.Lawful.startFrame (h.same (by simp)) _
        · exact ih (h.withdrawnAtOffer _ _ _)
      next f _ _ _ _ hb =>
        have key : f.key = .call false := by simp [Frame.key, hb, Body.key]
        exact (h.refill (by rw [key]; rfl)).startFrame _
      · exact h.startFrame _

theorem State.Lawful.startArbitration {base s : State} (h : base.Lawful 1 s) : base.Lawful 1 s.startArbitration := by
  have listening : base.Lawful 1 s.listening := h.same (by simp [State.listening])
  unfold State.startArbitration
  dsimp only
  repeat' split
  · exact listening
  next hs => exact (listening.calm hs).offer _
  · exact h

end Sys2Proof.Machine
end

section
/-! PROOFS. Every step keeps the slot memory canonical, the transmit queue sound and the lists bounded: the events of
the drive port, of the surface, of start-up and of the panel, and the step. -/

namespace Sys2Proof.Machine

section
variable {base s : State} {n : Nat} (h : base.Lawful n s)
include h

/-! ### The drive port's events (R79 to R85, R91, R104, R117, R139, R141 to R148) -/

theorem State.Lawful.tellQualified : base.Lawful n s.tellQualified := by
  unfold State.tellQualified
  split
  · exact h.copyQualified
  · exact h.sourceQualified
  · exact h

theorem State.Lawful.tellNotQualified (seen : Bool) : base.Lawful n (s.tellNotQualified seen) := by
  unfold State.tellNotQualified
  split
  · exact h.copyNotQualified seen
  · exact h.sourceNotQualified
  · exact h

theorem State.Lawful.tellSeek (good : Bool) : base.Lawful n (s.tellSeek good) := by
  unfold State.tellSeek
  repeat' split
  · exact h.copySeekEnd good
  · exact h
  · exact h.sourceSeekEnd good
  all_goals exact h

theorem State.Lawful.tellRecalibrate (good : Bool) : base.Lawful n (s.tellRecalibrate good) := by
  unfold State.tellRecalibrate
  split
  · exact (h.copyHomeEnd good).ite h
  · exact (h.sourceHomeEnd good).ite h
  · exact h

theorem State.Lawful.tellMotion (res : MotionResult) : base.Lawful n (s.tellMotion res) := by
  cases res with
  | going => exact h
  | seekGood => exact h.tellSeek true
  | seekFailed => exact h.tellSeek false
  | recalibrateGood => exact h.tellRecalibrate true
  | recalibrateFailed => exact h.tellRecalibrate false

theorem State.Lawful.tellNoIndex : base.Lawful n s.tellNoIndex := by
  unfold State.tellNoIndex
  split
  · exact h.copyNoIndex
  · exact h.sourceNoIndex
  · exact h

theorem State.Lawful.writeEdge : base.Lawful n s.writeEdge := by
  unfold State.writeEdge State.armedEdge
  repeat' split
  · exact h.reject _
  · exact h.same (by simp)
  · exact h
  · exact h.same (by simp)
  all_goals exact h

theorem State.Lawful.index (time : Nat) (trk0 : Bool) : base.Lawful n (s.index time trk0) := by
  have edge : base.Lawful n ((s.tickTo time).mapDrive fun dp =>
      { dp with trk0 := trk0 }.indexEdge (s.tickTo time).recipe (s.tickTo time).now) := h.same (by simp)
  unfold State.index State.qualifyEdge
  dsimp only
  repeat' split
  · exact State.Lawful.tellQualified (edge.writeEdge.same (by simp))
  all_goals exact edge.writeEdge

theorem State.Lawful.writeCompletes (u : Upset) : base.Lawful n (s.writeCompletes u) := by
  unfold State.writeCompletes
  split
  next r _ =>
    split
    next =>
      have stopped : base.Lawful n (s.stopWrite.mapCopy fun cs => { cs with phase := none }) := h.same (by simp)
      cases r.kind with
      | copy =>
        have checked := stopped.applyCheck r.recipe u
        exact State.Lawful.ite checked.writeGood (checked.failedAttempt _)
      | format => exact State.Lawful.ite stopped.writeGood (stopped.failedAttempt _)
    next => exact h
  next => exact h

theorem State.Lawful.counterExpires (u : Upset) : base.Lawful n (s.counterExpires u) := by
  have disarmed : base.Lawful n (s.mapDrive Drive.disarm) := h.same (by simp)
  unfold State.counterExpires
  dsimp only
  repeat' split
  · exact disarmed.verifyEnd u
  · exact disarmed
  · exact disarmed.readFailed _
  · exact disarmed
  · exact disarmed
  · exact disarmed
  · exact h

theorem State.Lawful.indexAbsent : base.Lawful n s.indexAbsent := by
  unfold State.indexAbsent
  repeat' split
  · exact State.Lawful.tellNoIndex (h.same (by simp))
  all_goals exact h

theorem State.Lawful.limitExpires : base.Lawful n s.limitExpires := by
  unfold State.limitExpires
  split
  · exact State.Lawful.tellNotQualified (h.same (by simp)) _
  · exact h

theorem State.Lawful.stepEnds (trk0 : Bool) : base.Lawful n (s.stepEnds trk0) := by
  unfold State.stepEnds
  dsimp only
  repeat' split
  · exact h
  · exact State.Lawful.tellMotion (h.same (by simp)) _
  · exact h

theorem State.Lawful.settleEnds (trk0 : Bool) : base.Lawful n (s.settleEnds trk0) := by
  unfold State.settleEnds
  dsimp only
  repeat' split
  · exact State.Lawful.tellMotion (h.same (by simp)) _
  all_goals exact h

theorem State.Lawful.seated : base.Lawful n s.seated := by
  unfold State.seated
  dsimp only
  repeat' split
  · exact h
  · exact h.same (by simp)
  · exact State.Lawful.startTest (h.same (by simp))
  · exact h.same (by simp)

theorem State.Lawful.unseated : base.Lawful n s.unseated := by
  have line : base.Lawful n (s.diskinLine false) := h.same (by simp)
  have opened : base.Lawful n (s.diskinLine false).withdrawCopyOpen.copyUnseated := (line.withdraw _).copyUnseated
  unfold State.unseated
  exact State.Lawful.ite (line.ite (opened.masterRemoved.ite opened)) h

theorem State.Lawful.wprotTo (active : Bool) : base.Lawful n (s.wprotTo active) := by
  unfold State.wprotTo
  dsimp only
  repeat' split
  · exact State.Lawful.reject (h.same (by simp)) _
  · exact h.same (by simp)
  · exact h.same (by simp)

/-! ### What is read from the surface (R99 to R104, R112, R113) -/

theorem State.Lawful.verifyData (r : JobRecord) (v : VerifyRecord) (data : List Byte) (check : BitVec 16)
    (u : Upset) : base.Lawful n (s.verifyData r v data check u) := by
  have judged {x : State} (hx : base.Lawful n x) (v1 : VerifyRecord) (p : Prop) [Decidable p] :
      base.Lawful n (if p then { x with vu := some v1 }.verifyEnd [] else { x with vu := some v1 }) :=
    have recorded : base.Lawful n { x with vu := some v1 } := hx.same (by simp)
    (recorded.verifyEnd []).ite recorded
  unfold State.verifyData
  split
  · cases s.store.drivePinned with
    | some i => exact judged (h.upset i u) _ _
    | none => exact judged h _ _
  · exact h

theorem State.Lawful.masterId (q : Recipe) (m : MasterRead) (c h' z : Byte) (sector : Nat) (good : Bool) :
    base.Lawful n (s.masterId q m c h' z sector good) := by
  unfold State.masterId
  repeat' split
  · exact h.same (by simp)
  · exact h
  · exact h.readFailed _
  · exact h

theorem State.Lawful.masterData (q : Recipe) (m : MasterRead) (data : List Byte) (check : BitVec 16) :
    base.Lawful n (s.masterData q m data check) := by
  unfold State.masterData
  dsimp only
  repeat' split
  next sector i _ _ _ _ => exact State.Lawful.readGood ((h.writeSector q i sector data).same (by simp)) q _ _
  next sector i _ _ _ _ => exact (h.writeSector q i sector data).same (by simp)
  · exact h.same (by simp)
  · exact h

theorem State.Lawful.idRead (c h' z y : Byte) (check : BitVec 16) : base.Lawful n (s.idRead c h' z y check) := by
  unfold State.idRead
  repeat' split
  · exact h.same (by simp)
  · exact State.Lawful.masterId (h.same (by simp)) _ _ _ _ _ _ _
  all_goals exact h

theorem State.Lawful.markerMissed : base.Lawful n s.markerMissed := h.same (by simp)

theorem State.Lawful.dataRead (data : List Byte) (check : BitVec 16) (u : Upset) :
    base.Lawful n (s.dataRead data check u) := by
  unfold State.dataRead
  repeat' split
  · exact h.verifyData _ _ _ _ _
  · exact h.markerMissed
  · exact h.masterData _ _ _ _
  · exact h.markerMissed
  all_goals exact h

/-! ### The link's events and the timers (R41, R48 to R50, R154 to R158) -/

theorem State.Lawful.frameBroken (cls : Fin 8) (bytes : List Byte) (broke : Bool) :
    base.Lawful n (s.frameBroken cls bytes broke) := by
  unfold State.frameBroken
  repeat' split
  · exact h.same (by simp)
  · exact h
  · exact (h.discardFrame _).settle _
  · exact h

theorem State.Lawful.placeFreed : base.Lawful n s.placeFreed :=
  h.holdOffTest.abandonFromReserve.closeTest.stopFromReserve.claimAgain.enterTally.releaseFromReserve

theorem State.Lawful.holdOffExpires : base.Lawful n s.holdOffExpires := by
  unfold State.holdOffExpires
  dsimp only
  split
  · exact State.Lawful.holdOffTest (h.same (by simp))
  · exact h

theorem State.Lawful.holdOffHeard (i : StationId) : base.Lawful n (s.holdOffHeard i) := by
  have held {x : State} (hx : base.Lawful n x) : base.Lawful n
      (if i = s.station then x.count fun c => { c with holdOffs := bump c.holdOffs } else x) :=
    (hx.count fun c hc => by simp_all [Counters.toList_le_iff, bump_le]).ite hx
  unfold State.holdOffHeard
  cases s.lc.view with
  | none => exact held (h.same (by simp))
  | some _ => exact held h

theorem State.Lawful.releaseBegins (f : ReleaseHead) : base.Lawful n (s.releaseBegins f) := by
  unfold State.releaseBegins
  exact ((h.beginFill f).settle s).ite h

theorem State.Lawful.deadlineExpires (track : Nat) : base.Lawful n (s.deadlineExpires track) := by
  unfold State.deadlineExpires
  repeat' split
  next d _ =>
    have ticked : base.Lawful n (s.tickTo d) := h.same (by simp)
    exact (ticked.wantExpired _ _).settle s
  all_goals exact h

theorem State.Lawful.lastTrackTimes : base.Lawful n s.lastTrackTimes := by
  unfold State.lastTrackTimes
  repeat' split
  next r _ _ =>
    have ticked : base.Lawful n (s.tickTo (r.markAt + s.pc.params.restoreTimeout * 1000)) := h.same (by simp)
    exact (ticked.mapRecord (g := fun r => { r with lastRun := true }) (fun _ => rfl) fun _ => rfl).settle s
  all_goals exact h

/-! ### Start-up and the panel (R94, R109, R120, R163, R166) -/

theorem State.Lawful.ready (mid : Bool) : base.Lawful n (s.ready mid) := by
  have listening : base.Lawful n { s with boot := .ready, lc := { s.lc with deaf := mid } } := h.same (by simp)
  exact (listening.enter _ _).settleByDiskin

theorem State.Lawful.storeClearEnds (mid : Bool) : base.Lawful n (s.storeClearEnds mid) := by
  have cleared : base.Lawful n { s with store := s.store.cleared } :=
    h.setStore h.memory fun _ => Nat.zero_le _
  unfold State.storeClearEnds
  split
  · exact cleared.same (by simp)
  · exact cleared.ready mid
  · exact h

theorem State.Lawful.configLoadEnds (bytes : List Byte) (mid : Bool) : base.Lawful n (s.configLoadEnds bytes mid) := by
  unfold State.configLoadEnds
  dsimp only
  split
  · exact State.Lawful.ready (h.same (by simp)) mid
  · exact h

theorem State.Lawful.restarted : base.Lawful n s.restarted := by
  have ended : base.Lawful n
      ((((s.copyJobEnd .restart).endRead.releaseDrivePin.releaseLinkPin).setNextBase JobRecord.nextBase)) :=
    (h.copyJobEnd .restart).same (by simp)
  exact ended.noJob rfl (List.nil_sublist _) rfl rfl rfl rfl

theorem State.Lawful.loadPressed (selector : Fin 8) : base.Lawful n (s.loadPressed selector) := by
  unfold State.loadPressed
  repeat' split
  · exact h
  · exact h.load selector
  · exact State.Lawful.startTest (h.same (by simp))
  all_goals exact h

theorem State.Lawful.stopPressed : base.Lawful n s.stopPressed := by
  unfold State.stopPressed
  repeat' split
  · exact h
  · exact h.enterStop
  · exact h
  · exact State.Lawful.claimRefill (h.same (by simp))
  all_goals exact h

theorem State.Lawful.stopHeld : base.Lawful n s.stopHeld := by
  unfold State.stopHeld
  repeat' split
  · exact h
  · exact h.enterAbandon _
  all_goals exact h

end

/-- The state after power-on has nothing queued, listed or counted. -/
theorem State.poweredOn_lawful (s : State) (straps : StationId) (diskin wprot trk0 : Bool) :
    s.Lawful 1 (s.poweredOn straps diskin wprot trk0) := by
  refine ⟨rfl, queueFits.nil 1, ⟨Nat.zero_le _, Nat.zero_le _, Nat.zero_le _, ?_⟩, fun r r' _ hr' => ?_⟩
  · simp [Counters.toList_le_iff, State.poweredOn]
  · cases hr'

/-! ### The step -/

/-- A command keeps the laws: from a state in which they hold it comes to one in which they hold. -/
def KeepsLaws (c : Instr) : Prop := ∀ s t : State, s.Lawful 1 s → exec c s = .next t → s.Lawful 1 t

/-- A command whose effect keeps the laws. -/
theorem keepsLaws_of {c : Instr} {g : State → State} (hc : ∀ s, exec c s = .next (g s))
    (hg : ∀ s : State, s.Lawful 1 s → s.Lawful 1 (g s)) : KeepsLaws c := by
  intro s t hs ht
  obtain rfl := Host.Outcome.next.inj ((hc s).symm.trans ht)
  exact hg s hs

/-- A command whose effect keeps the laws before the Distribution Unit's tests. -/
theorem keepsLaws_settled {c : Instr} {g : State → State} (hc : ∀ s, exec c s = .next ((g s).settle s))
    (hg : ∀ s : State, s.Lawful 1 s → s.Lawful 1 (g s)) : KeepsLaws c :=
  keepsLaws_of hc fun s hs => (hg s hs).settle s

/-- A completed frame whose rule keeps the laws. -/
theorem keepsLaws_frame {c : Instr} {α : Type} {raw : List Byte} {body : Option α} {k : α → Option FrameKey}
    {i : StationId} {apply : α → State → State} (hc : ∀ s, exec c s = .next (s.completed raw body k i apply))
    (happly : ∀ (b : α) (base x : State), base.Lawful 1 x → base.Lawful 1 (apply b x)) : KeepsLaws c :=
  keepsLaws_of hc fun s hs => hs.completed fun b x hx _ => happly b s x hx

/-- A completed frame with the Distribution Unit's tests after it. -/
theorem keepsLaws_settledFrame {c : Instr} {α : Type} {raw : List Byte} {body : Option α} {k : α → Option FrameKey}
    {i : StationId} {apply : α → State → State}
    (hc : ∀ s, exec c s = .next ((s.completed raw body k i apply).settle s))
    (happly : ∀ (b : α) (base x : State), base.Lawful 1 x → base.Lawful 1 (apply b x)) : KeepsLaws c :=
  keepsLaws_settled hc fun s hs => hs.completed fun b x hx _ => happly b s x hx

/-- A command that acts on the frame on the medium, with the Distribution Unit's tests after it. -/
theorem keepsLaws_sending {c : Instr} {g : Frame → State → State}
    (hc : ∀ s : State, exec c s = .next (match s.lc.sending with
      | some f => (g f s).settle s
      | none => s))
    (hg : ∀ (f : Frame) (s : State), s.Lawful 1 s → s.Lawful 1 (g f s)) : KeepsLaws c := by
  refine keepsLaws_of hc fun s hs => ?_
  cases s.lc.sending with
  | some f => exact (hg f s hs).settle s
  | none => exact hs

theorem releaseCutOff_keepsLaws (u : Upset) : KeepsLaws (.releaseCutOff u) :=
  keepsLaws_sending (g := fun f s => s.cutOff f u)
    (fun s => by cases hs : s.lc.sending <;> simp [exec, execReleaseCutOff, hs])
    fun f _ hs => hs.cutOff f u

theorem release_keepsLaws (f : Rx) : KeepsLaws (.release f) := by
  intro s t hs ht
  change execRelease f s = _ at ht
  unfold execRelease at ht
  split at ht
  · exact releaseCutOff_keepsLaws [] s t hs ht
  · obtain rfl := Host.Outcome.next.inj ht
    exact State.Lawful.settle (hs.completed fun b x hx _ => hx.inJob (hx.setNote _) (hx.releaseHeard _ _ b)) s

/-- A JOB OPEN makes a record only where the command began with none. -/
theorem jobOpen_keepsLaws (f : Rx) : KeepsLaws (.jobOpen f) := by
  refine keepsLaws_of (fun _ => rfl) fun s hs => hs.completed fun b x hx hfixed => hx.openHeard (fun hr => ?_) f b
  simpa [State.fixed, hr] using hfixed.symm

theorem exec_keepsLaws (c : Instr) : KeepsLaws c := by
  cases c
  case powerOn => exact keepsLaws_of (fun _ => rfl) fun s _ => s.poweredOn_lawful _ _ _ _
  case storeClearCompletion mid => exact keepsLaws_of (fun _ => rfl) fun s hs => hs.storeClearEnds mid
  case configurationLoadCompletion bytes mid =>
    exact keepsLaws_of (fun _ => rfl) fun s hs => hs.configLoadEnds bytes mid
  case restart => exact keepsLaws_of (fun _ => rfl) fun s hs => hs.restarted.ite hs
  case loadPress selector => exact keepsLaws_of (fun _ => rfl) fun s hs => hs.loadPressed selector
  case stopBriefPress => exact keepsLaws_of (fun _ => rfl) fun s hs => hs.stopPressed
  case stopHeld => exact keepsLaws_of (fun _ => rfl) fun s hs => hs.stopHeld
  case arbitrationStart | joinStart => exact keepsLaws_of (fun _ => rfl) fun s hs => hs.startArbitration
  case arbitrationLoss => exact keepsLaws_sending (fun _ => rfl) fun f s hs => hs.loseFrame f
  case sendFault => exact keepsLaws_sending (fun _ => rfl) fun f s hs => hs.faultFrame f
  case releaseCutOff u => exact releaseCutOff_keepsLaws u
  case frameBreak cls bytes broke => exact keepsLaws_of (fun _ => rfl) fun s hs => hs.frameBroken cls bytes broke
  case queuePlaceFreeing => exact keepsLaws_of (fun _ => rfl) fun s hs => hs.placeFreed
  case holdOff f => exact keepsLaws_frame (fun _ => rfl) fun b base x hx => hx.holdOffHeard _
  case holdOffTimerExpiry => exact keepsLaws_of (fun _ => rfl) fun s hs => hs.holdOffExpires
  case jobOpen f => exact jobOpen_keepsLaws f
  case jobStop f => exact keepsLaws_frame (fun _ => rfl) fun b base x hx => hx.inJob (hx.setNote _) hx.stopHeard
  case jobClose f =>
    exact keepsLaws_frame (fun _ => rfl) fun b base x hx => hx.inJob (hx.clearNote _) (hx.closeHeard _)
  case jobAbandon f =>
    exact keepsLaws_frame (fun _ => rfl) fun b base x hx => hx.inJob (hx.clearNote _) (hx.abandonHeard _)
  case claim f =>
    exact keepsLaws_settledFrame (fun _ => rfl) fun b base x hx => hx.inJob (hx.setNote _) (hx.claimHeard _ _ _)
  case tally f =>
    exact keepsLaws_settledFrame (fun _ => rfl) fun b base x hx => hx.inJob (hx.setNote _) (hx.tallyHeard _ b)
  case want f =>
    refine keepsLaws_frame (fun _ => rfl) fun b base x hx => hx.inJob (hx.setNote _) ?_
    split
    · exact hx.ownWant b
    · exact hx.otherWant b
  case releaseBegin f => exact keepsLaws_of (fun _ => rfl) fun s hs => hs.releaseBegins f
  case release f => exact release_keepsLaws f
  case callFirst f => exact keepsLaws_settledFrame (fun _ => rfl) fun b base x hx => hx.callFirstHeard f.sender b
  case callAnswer f => exact keepsLaws_frame (fun _ => rfl) fun b base x hx => hx.same (by simp)
  case query f => exact keepsLaws_frame (fun _ => rfl) fun b base x hx => hx.queried b
  case reply f => exact keepsLaws_frame (fun _ => rfl) fun b base x hx => hx
  case wantDeadlineExpiry track => exact keepsLaws_of (fun _ => rfl) fun s hs => hs.deadlineExpires track
  case lastTrackTimeout => exact keepsLaws_of (fun _ => rfl) fun s hs => hs.lastTrackTimes
  case indexEdge time trk0 => exact keepsLaws_settled (fun _ => rfl) fun s hs => hs.index time trk0
  case writeCompletion u => exact keepsLaws_settled (fun _ => rfl) fun s hs => hs.writeCompletes u
  case revolutionCounterExpiry u => exact keepsLaws_settled (fun _ => rfl) fun s hs => hs.counterExpires u
  case idRecord c h z y check => exact keepsLaws_settled (fun _ => rfl) fun s hs => hs.idRead c h z y check
  case dataRecord data check u => exact keepsLaws_settled (fun _ => rfl) fun s hs => hs.dataRead data check u
  case dataMarkerReachExpiry =>
    refine keepsLaws_of (fun _ => rfl) fun s hs => hs.same ?_
    split <;> simp
  case noIndex => exact keepsLaws_settled (fun _ => rfl) fun s hs => hs.indexAbsent
  case qualifyLimitExpiry => exact keepsLaws_settled (fun _ => rfl) fun s hs => hs.limitExpires
  case stepTimeEnd trk0 => exact keepsLaws_settled (fun _ => rfl) fun s hs => hs.stepEnds trk0
  case headSettleEnd trk0 => exact keepsLaws_settled (fun _ => rfl) fun s hs => hs.settleEnds trk0
  case diskinActive => exact keepsLaws_of (fun _ => rfl) fun s hs => hs.seated
  case diskinInactive => exact keepsLaws_settled (fun _ => rfl) fun s hs => hs.unseated
  case wprotChange active => exact keepsLaws_settled (fun _ => rfl) fun s hs => hs.wprotTo active
  case masterReadSlotGrant => exact keepsLaws_settled (fun _ => rfl) fun s hs => hs.trySlot
  case markerOfAnotherValue => exact keepsLaws_of (fun _ => rfl) fun s hs => hs.markerMissed
  case refusalFlashEnd | abandonSequenceEnd | ejectPulseEnd =>
    exact keepsLaws_of (fun _ => rfl) fun s hs => hs.same (by simp)

/-- Settles O60: a tick moves the clock alone, and each command keeps the laws. -/
theorem everyStepKeepsMemoryQueueAndBounds : Obligations.EveryStepKeepsMemoryQueueAndBounds := by
  intro s t hm hq hb ht
  suffices lawful : s.Lawful 1 t from ⟨lawful.memory, lawful.queue, lawful.bounds, lawful.job⟩
  have begun := State.Lawful.begin hm hq hb
  unfold step at ht
  split at ht
  · obtain rfl := Host.Outcome.next.inj ht
    exact begun.same (by simp)
  next c rest _ =>
    have taken : State.Lawful { s with pending := rest } 1 { s with pending := rest } := .begin hm hq hb
    obtain ⟨hmem, hqueue, hbounds, hjob⟩ := exec_keepsLaws c _ t taken ht
    exact ⟨hmem, hqueue, hbounds, hjob⟩

end Sys2Proof.Machine
end

section
/-! PROOFS. The transmit queue: the frame picked, and how a frame joins and leaves it (R153 to R155). -/

namespace Sys2Proof.Machine

/-! ### The pick (R154, R157) -/

theorem State.pick_some {s : State} {f : Frame} (hp : s.pick = some f) :
    (f ∈ s.lc.queue ∧ s.mayStart f = true) ∧ (∀ g ∈ s.lc.queue, s.mayStart g = true → f.body.cls ≤ g.body.cls)
      ∧ (s.lc.queue.filter fun g => s.mayStart g && decide (g.body.cls = f.body.cls)).head? = some f := by
  obtain ⟨hmem, lowest, oldest⟩ := lowestClass_some _ f hp
  refine ⟨List.mem_filter.1 hmem, fun g hg hm => lowest g (List.mem_filter.2 ⟨hg, hm⟩), ?_⟩
  rw [List.filter_filter] at oldest
  simpa only [Bool.and_comm] using oldest

/-! ### Joining (R153) -/

/-- The places the queue has for a class: 8 below class 4, else 6. -/
theorem State.accepts_iff (s : State) (b : Body) : s.accepts b = true ↔
    s.boot = .ready ∧ s.lc.has b.key = false ∧ s.lc.queue.length < if b.cls < 4 then 8 else 6 := by
  by_cases hc : b.cls < 4
  · rw [State.accepts_low_iff hc, if_pos hc]
  · rw [State.accepts_high_iff (Nat.not_lt.1 hc), if_neg hc]

theorem State.enter_taken {s : State} {b : Body} (j : JobId) (hb : s.boot = .ready) (hn : s.lc.has b.key = false)
    (hq : s.lc.queue.length < if b.cls < 4 then 8 else 6) : s.enter b j = s.push b j :=
  State.enter_accepted s b j ((State.accepts_iff s b).2 ⟨hb, hn, hq⟩)

theorem State.enter_refused_of {s : State} {b : Body} (j : JobId) (h : s.boot ≠ .ready ∨ s.lc.has b.key = true
    ∨ (if b.cls < 4 then 8 else 6) ≤ s.lc.queue.length) : s.enter b j = s := by
  refine State.enter_refused s b j (Bool.eq_false_iff.2 fun ha => ?_)
  obtain ⟨hb, hn, hl⟩ := (State.accepts_iff s b).1 ha
  rcases h with h | h | h
  · exact h hb
  · simp [hn] at h
  · exact absurd hl (Nat.not_lt.2 h)

/-! ### Leaving (R154, R155) -/

/-- Where the frame that the loss count is for is no longer in the queue, the count goes with it. -/
theorem State.setQueue_lost {s : State} {q : List Frame} (h : ∃ l, s.lc.lossFor = some l ∧ ∀ g ∈ q, g.key ≠ l) :
    s.setQueue q = { s with lc := { s.lc with queue := q, lossCount := 0, lossFor := none } } := by
  obtain ⟨l, hl, hn⟩ := h
  have gone : q.any (fun f => decide (f.key = l)) = false := by simpa using hn
  simp [State.setQueue, hl, gone]

theorem State.setQueue_counting {s : State} {q : List Frame} (h : ¬∃ l, s.lc.lossFor = some l ∧ ∀ g ∈ q, g.key ≠ l) :
    s.setQueue q = { s with lc := { s.lc with queue := q } } := by
  cases hl : s.lc.lossFor with
  | none => simp [State.setQueue, hl]
  | some l =>
    have stays : q.any (fun f => decide (f.key = l)) = true := by
      rw [List.any_eq_true]
      by_contra hn
      exact h ⟨l, hl, fun g hg he => hn ⟨g, hg, decide_eq_true he⟩⟩
    simp [State.setQueue, hl, stays]

/-- The loss count of a frame in the queue is lost with that frame alone. -/
theorem State.dequeue_eq {s : State} {k : FrameKey} (counted : ∀ l, s.lc.lossFor = some l → s.lc.has l = true) :
    s.dequeue k = { s with lc := { s.lc with
      queue := s.lc.queue.filter fun f => !decide (f.key = k)
      lossCount := if s.lc.lossFor = some k then 0 else s.lc.lossCount
      lossFor := if s.lc.lossFor = some k then none else s.lc.lossFor } } := by
  by_cases hk : s.lc.lossFor = some k
  · have lost : ∃ l, s.lc.lossFor = some l ∧ ∀ g ∈ s.lc.queue.filter fun f => !decide (f.key = k), g.key ≠ l :=
      ⟨k, hk, fun g hg => by simpa using (List.mem_filter.1 hg).2⟩
    rw [State.dequeue, State.setQueue_lost lost]
    simp only [hk, if_true]
  · have stays : ¬∃ l, s.lc.lossFor = some l ∧ ∀ g ∈ s.lc.queue.filter fun f => !decide (f.key = k), g.key ≠ l := by
      rintro ⟨l, hl, hn⟩
      obtain ⟨g, hg, he⟩ := Link.has_iff.1 (counted l hl)
      have other : l ≠ k := fun h => hk (h ▸ hl)
      exact hn g (List.mem_filter.2 ⟨hg, by simp [he, other]⟩) he
    rw [State.dequeue, State.setQueue_counting stays]
    simp only [if_neg hk]

/-- Settles O12: the pick from `lowestClass_some`, an entry from `State.accepts_iff`, and a frame that leaves by
whether the loss count is left without its frame. -/
theorem queueTakesFramesAndOffersTheLowestClass : Obligations.QueueTakesFramesAndOffersTheLowestClass := by
  refine ⟨fun s f hp => ?_, fun s => ⟨fun b j => ⟨State.enter_taken j, State.enter_refused_of j⟩,
    fun k => State.dequeue_eq⟩, fun s k => ⟨State.setQueue_lost, State.setQueue_counting⟩⟩
  obtain ⟨⟨hmem, hmay⟩, lowest, oldest⟩ := State.pick_some hp
  exact ⟨hmem, hmay, lowest, oldest⟩

end Sys2Proof.Machine
end

section
/-! PROOFS. Hold-off: asked for at the loss limit, set by HOLD-OFF and ended by its timer (R155, R156). -/

namespace Sys2Proof.Machine

/-! ### The HOLD-OFF test (R155) -/

theorem State.holdOffTest_enters {s : State} (hl : s.lc.lossCount = s.pc.params.holdOffLimit)
    (hv : s.lc.view = none) : s.holdOffTest = s.enter .holdOff 0 := if_pos ⟨hl, hv⟩

/-- A HOLD-OFF that the queue takes joins it at its end. -/
theorem State.holdOffTest_entered {s : State} (hl : s.lc.lossCount = s.pc.params.holdOffLimit)
    (hv : s.lc.view = none) (hn : s.lc.has .holdOff = false) (hb : s.boot = .ready) (hq : s.lc.queue.length < 8) :
    s.holdOffTest = { s with lc := { s.lc with queue := s.lc.queue ++ [{ body := .holdOff, jobId := 0 }] } } := by
  rw [State.holdOffTest_enters hl hv]
  exact State.enter_taken 0 hb hn (by simpa using hq)

theorem State.holdOffTest_same {s : State} (h : s.lc.lossCount ≠ s.pc.params.holdOffLimit ∨ s.lc.view.isSome = true
    ∨ s.lc.has .holdOff = true ∨ 8 ≤ s.lc.queue.length) : s.holdOffTest = s := by
  rw [← or_assoc] at h
  rcases h with h | h
  · exact State.holdOffTest_calm s h
  · by_cases hc : s.lc.lossCount = s.pc.params.holdOffLimit ∧ s.lc.view = none
    · rw [State.holdOffTest_enters hc.1 hc.2]
      exact State.enter_refused_of 0 (Or.inr (by simpa [Body.key] using h))
    · exact if_neg hc

/-! ### The view of a sender (R156) -/

theorem State.endViewOf_ends {s : State} {i : StationId}
    (h : s.lc.view = none ∨ ∃ v, s.lc.view = some v ∧ v.holder = i) :
    s.endViewOf i = { s with lc := { s.lc with view := none } } := by
  rw [State.endViewOf_eq]
  rcases h with h | ⟨v, h, hi⟩
  · simp only [h]
  · simp only [h, if_pos hi]

theorem State.endViewOf_stays {s : State} {i : StationId} {v : HoldView} (hv : s.lc.view = some v)
    (hi : v.holder ≠ i) : s.endViewOf i = s := by
  simp only [State.endViewOf, hv, if_neg hi]

/-! ### HOLD-OFF heard (R156) -/

/-- An own HOLD-OFF leaves the queue and is counted. -/
def State.holdOffCounted (i : StationId) (s : State) : State :=
  if i = s.station then
    (if s.lc.has .holdOff then s.dequeue .holdOff else s).count fun c =>
      { c with holdOffs := min (c.holdOffs + 1) 4294967295 }
  else s

theorem State.holdOffCounted_view (i : StationId) (s : State) : (s.holdOffCounted i).lc.view = s.lc.view := by
  unfold State.holdOffCounted
  split
  · split <;> simp
  · rfl

/-- The view is set once the own HOLD-OFF has left and been counted, in whichever order. -/
theorem State.holdOffHeard_ends {i : StationId} {s : State}
    (hv : s.lc.view = none ∨ ∃ v, s.lc.view = some v ∧ v.holder = i) :
    (s.heard .holdOff i).holdOffHeard i =
      { s.holdOffCounted i with lc := { (s.holdOffCounted i).lc with
        view := some { holder := i, expiry := s.now + s.pc.params.holdOffTime * 1000 } } } := by
  have left : (s.ownLeaves (some .holdOff) i).lc.view = s.lc.view := by simp
  have ended : s.heard .holdOff i = _ := State.endViewOf_ends (s := s.ownLeaves (some .holdOff) i) (left ▸ hv)
  rw [ended]
  by_cases hi : i = s.station
  · by_cases hk : s.lc.has .holdOff = true
    · simp [State.holdOffHeard, State.holdOffCounted, State.ownLeaves, State.count, State.after, hi, hk, bump,
        Config.max32]
    · simp [State.holdOffHeard, State.holdOffCounted, State.ownLeaves, State.count, State.after, hi, hk, bump,
        Config.max32]
  · simp [State.holdOffHeard, State.holdOffCounted, State.ownLeaves, State.after, hi]

theorem State.holdOffHeard_stays {i : StationId} {s : State} {v : HoldView} (hv : s.lc.view = some v)
    (hi : v.holder ≠ i) : (s.heard .holdOff i).holdOffHeard i = s.holdOffCounted i := by
  have left : (s.ownLeaves (some .holdOff) i).lc.view = some v := by simpa using hv
  have stays : s.heard .holdOff i = _ := State.endViewOf_stays (s := s.ownLeaves (some .holdOff) i) left hi
  rw [stays]
  by_cases own : i = s.station
  · by_cases hk : s.lc.has .holdOff = true
    · simp [State.holdOffHeard, State.holdOffCounted, State.ownLeaves, State.count, own, hk, hv, bump, Config.max32]
    · simp [State.holdOffHeard, State.holdOffCounted, State.ownLeaves, State.count, own, hk, hv, bump, Config.max32]
  · simp [State.holdOffHeard, State.holdOffCounted, State.ownLeaves, own, hv]

theorem execHoldOff_heard {f : Rx} {s : State} (h : s.receives) (hf : f.body = []) : exec (.holdOff f) s =
    .next (((s.heard .holdOff f.sender).holdOffHeard f.sender).afterCompletion s) :=
  congrArg _ (State.completed_heard [] (parseHoldOff f.body) _ _ _ s () h (by rw [hf]; rfl) .holdOff rfl)

/-! ### HOLD_OFF_TIMER_EXPIRY (R155, R156) -/

theorem exec_holdOffTimerExpiry_none {s : State} (hv : s.lc.view = none) : exec .holdOffTimerExpiry s = .next s := by
  simp only [exec, execHoldOffTimerExpiry, State.holdOffExpires, hv]

theorem exec_holdOffTimerExpiry_some {s : State} {v : HoldView} (hv : s.lc.view = some v) :
    exec .holdOffTimerExpiry s =
      .next (State.holdOffTest { s with now := max s.now v.expiry, lc := { s.lc with view := none } }) := by
  simp only [exec, execHoldOffTimerExpiry, State.holdOffExpires, hv, State.tickTo]

/-- Settles O21: the HOLD-OFF test, then HOLD-OFF by whose the view is, then the timer's end with the test. -/
theorem holdOffIsAskedForSetAndEnded : Obligations.HoldOffIsAskedForSetAndEnded := by
  refine ⟨fun s => ⟨State.holdOffTest_entered, fun h => State.holdOffTest_same (by tauto)⟩,
    fun f s hb hd hf => ⟨fun hv => ?_, fun v hv hi => ?_⟩,
    fun s => ⟨exec_holdOffTimerExpiry_none, fun v hv => ⟨fun h => ?_, fun hb hl hn hq => ?_⟩⟩⟩
  · rw [execHoldOff_heard ⟨hb, hd⟩ hf, State.holdOffHeard_ends hv]
    rfl
  · rw [execHoldOff_heard ⟨hb, hd⟩ hf, State.holdOffHeard_stays hv hi]
    rfl
  · rw [exec_holdOffTimerExpiry_some hv]
    exact congrArg _ (State.holdOffTest_same (by tauto))
  · rw [exec_holdOffTimerExpiry_some hv]
    exact congrArg _ (State.holdOffTest_entered hl rfl hn hb hq)

end Sys2Proof.Machine
end

section
/-! PROOFS. Arbitration at a station held off (R157), and the calls (R160). -/

namespace Sys2Proof.Machine

/-! ### A station held off (R157) -/

section
variable {s : State} {v : HoldView} (hv : s.lc.view = some v) (hs : v.holder ≠ s.station)
include hv hs

theorem State.heldOff_of : s.heldOff = true := by simp [State.heldOff, hv, hs]

theorem State.mayStart_heldOff (g : Frame) : s.mayStart g = true ↔ g.body.cls ≤ 1 := by
  simp [State.mayStart, State.heldOff_of hv hs]

end

theorem lowestClass_none {l : List Frame} (h : lowestClass l = none) : l = [] := by
  cases l with
  | nil => rfl
  | cons f fs =>
    rw [lowestClass] at h
    cases hl : lowestClass fs with
    | none => simp [hl] at h
    | some g =>
      rw [hl] at h
      dsimp only at h
      split at h <;> cases h

theorem State.pick_none {s : State} (h : s.pick = none) (g : Frame) (hg : g ∈ s.lc.queue) : s.mayStart g = false :=
  Bool.eq_false_iff.2 fun hm => by simpa [lowestClass_none h] using List.mem_filter.2 ⟨hg, hm⟩

/-- What a start that keeps every frame in its place, and starts none but of class 0 or 1, leaves of the queue. -/
def State.StartsLow (s t : State) : Prop :=
  t.lc.queue.map Frame.key = s.lc.queue.map Frame.key
  ∧ ∀ g ∈ t.lc.queue, g.started = true → g.body.cls ≤ 1 ∨ ∃ g0 ∈ s.lc.queue, g0.started = true ∧ g0.key = g.key

theorem State.StartsLow.of_queue {s t : State} (h : t.lc.queue = s.lc.queue) : s.StartsLow t := by
  refine ⟨by rw [h], fun g hg hs => Or.inr ⟨g, ?_, hs, rfl⟩⟩
  rwa [h] at hg

/-- A frame of class 0 or 1 is neither a RELEASE nor a CALL ANSWER, so it starts as it is. -/
theorem State.offer_low {s : State} {f : Frame} (n : Nat) (hp : s.pick = some f) (hc : f.body.cls ≤ 1) :
    State.offer (n + 1) s = s.startFrame f.key := by
  refine State.offer_plain s f n hp ⟨fun t reason o z k w hb => ?_, fun a j hb => ?_⟩
  · simp [hb] at hc
  · simp [hb] at hc

theorem State.startFrame_low {s : State} {f : Frame} (hc : f.body.cls ≤ 1) : s.StartsLow (s.startFrame f.key) := by
  refine ⟨State.startFrame_keys _ s, fun g hg hs => ?_⟩
  rcases State.startFrame_started _ s g hg hs with h | h
  · exact Or.inl (Frame.cls_of_key g f h ▸ hc)
  · exact Or.inr h

theorem State.startFrame_mem {s : State} {f : Frame} (hf : f ∈ s.lc.queue) :
    { f with started := true } ∈ (s.startFrame f.key).lc.queue := by
  rw [State.startFrame_eq]
  exact List.mem_map.2 ⟨f, hf, if_pos rfl⟩

/-- Settles O14: with the view naming another station the frame picked is of class 0 or 1, and starts as it is. -/
theorem heldOffStationStartsNoFrameOfClass2To7 : Obligations.HeldOffStationStartsNoFrameOfClass2To7 := by
  intro s t v c hc hv hs ht
  rw [exec_start hc] at ht
  obtain rfl : s.startArbitration = t := by injection ht
  suffices h : s.StartsLow s.startArbitration ∧ (s.boot = .ready → s.lc.sending = none →
      (∃ g ∈ s.lc.queue, g.body.cls ≤ 1) → ∃ g ∈ s.startArbitration.lc.queue, g.started = true ∧ g.body.cls ≤ 1) from
    ⟨h.1.1, h.1.2, h.2⟩
  by_cases hb : s.boot = .ready
  case neg =>
    rw [State.startArbitration_early hb]
    exact ⟨.of_queue rfl, fun h => absurd h hb⟩
  by_cases hn : s.lc.sending = none
  case neg =>
    rw [State.startArbitration_busy hb hn]
    exact ⟨.of_queue rfl, fun _ h => absurd h hn⟩
  have offers : s.startArbitration = State.offer 16 s.listening := by
    have h := State.start_offers s c hc hb hn
    rw [exec_start hc] at h
    injection h
  rw [offers]
  have low := State.mayStart_heldOff (s := s.listening) hv hs
  cases hp : s.listening.pick with
  | none =>
    rw [State.offer_idle 15 hp]
    refine ⟨.of_queue rfl, fun _ _ ⟨g, hg, hl⟩ => ?_⟩
    have may : s.listening.mayStart g = true := (low g).2 hl
    simp [State.pick_none hp g hg] at may
  | some f =>
    obtain ⟨⟨hf, hm⟩, -⟩ := State.pick_some hp
    have hl : f.body.cls ≤ 1 := (low f).1 hm
    rw [State.offer_low 15 hp hl]
    exact ⟨State.startFrame_low (s := s.listening) hl, fun _ _ _ => ⟨_, State.startFrame_mem hf, rfl, hl⟩⟩

/-! ### CALL ANSWER and CALL FIRST (R160) -/

theorem execCallAnswer_heard {f : Rx} {s : State} {b : CallBody} (h : s.receives) (hb : parseCall f.body = some b)
    (hf : b.first = false) : exec (.callAnswer f) s =
      .next (((s.heard (.call false) f.sender).present f.sender b).afterCompletion s) := by
  have body : (parseCall f.body).filter (!·.first) = some b := by simp [hb, hf]
  exact congrArg _ (State.completed_heard _ _ _ _ _ s b h body (.call false) rfl)

/-- A station that is no roster station, or has departed, departs from no job. -/
theorem State.depart_outside {s : State} {i : StationId}
    (h : ∀ r, s.jc.record = some r → inMask r.roster i = false ∨ inMask r.departed i = true) : s.depart i = s := by
  cases hr : s.jc.record with
  | none => simp only [State.depart, hr]
  | some r =>
    have outside : (inMask r.roster i && !inMask r.departed i) = false := by rcases h r hr with h | h <;> simp [h]
    simp [State.depart, hr, outside]

/-- Settles O50: a CALL ANSWER's presence entry, and the CALL FIRST of a station that departs from no job. -/
theorem callsMoveThePresenceTable : Obligations.CallsMoveThePresenceTable := by
  intro f s b h hb entry seen
  refine ⟨fun hf => execCallAnswer_heard h hb hf, fun hf hout => ?_⟩
  have record : (s.heard (.call true) f.sender).jc = s.jc := (State.heard_plain (.call true) f.sender s (by simp)).1
  have stays : (seen (s.heard (.call true) f.sender)).depart f.sender = seen (s.heard (.call true) f.sender) :=
    State.depart_outside fun r hr => hout r ((congrArg (·.record) record).symm.trans hr)
  have heard := execCallFirst_departs h hb hf stays (by simp [seen])
  refine ⟨fun hs => ?_, fun hs => ?_⟩
  · rw [heard, if_pos hs]
  · rw [heard, if_neg hs]

end Sys2Proof.Machine
end

section
/-! PROOFS. The bytes of a frame sent, at the receive checks (R158, R171). -/

namespace Sys2Proof.Machine

theorem beAt_of_append {pre mid post : List Byte} {i k : Nat} (hi : pre.length = i) (hk : mid.length = k) :
    beAt (pre ++ mid ++ post) i k = beNat mid := by
  subst hi hk
  exact beAt_append pre mid post

/-! ### The parts of a frame (R171) -/

section
variable (code : Byte) (jobId : JobId) (body rest : List Byte)

theorem coveredBytes_length : (coveredBytes code jobId body).length = body.length + 5 := by
  simp only [coveredBytes, List.length_append, List.length_cons, beBytes_length]
  omega

theorem beAt_frame_length (h : body.length < 65536) :
    beAt (coveredBytes code jobId body ++ rest) 3 2 = body.length := by
  have parts : coveredBytes code jobId body ++ rest
      = (code :: beBytes 2 jobId.toNat) ++ beBytes 2 body.length ++ (body ++ rest) := by simp [coveredBytes]
  rw [parts, beAt_of_append (by simp) (by simp), beNat_beBytes_lt h]

theorem beAt_frame_check : beAt (coveredBytes code jobId body ++ beBytes 4 (crc32 (coveredBytes code jobId body)).toNat)
    (body.length + 5) 4 = (crc32 (coveredBytes code jobId body)).toNat := by
  have parts := beAt_of_append (pre := coveredBytes code jobId body) (post := [])
    (mid := beBytes 4 (crc32 (coveredBytes code jobId body)).toNat) (coveredBytes_length code jobId body)
    (beBytes_length 4 _)
  rw [List.append_nil] at parts
  rw [parts, beNat_beBytes_lt (crc32 _).isLt]

end

theorem Body.code_listed (b : Body) : b.code ∈ kindCodes := by
  cases b <;> simp [Body.code, kindCodes]

/-- Settles O19: each receive check on the kind, the length and the frame check of a frame as it is sent. -/
theorem sentFramesPassTheReceiveChecks : Obligations.SentFramesPassTheReceiveChecks := by
  intro s f h hl
  have length := beAt_frame_length f.body.code f.jobId (s.bodyBytes f.body)
    (beBytes 4 (crc32 (coveredBytes f.body.code f.jobId (s.bodyBytes f.body))).toNat) (by omega)
  have check := beAt_frame_check f.body.code f.jobId (s.bodyBytes f.body)
  have covered := coveredBytes_length f.body.code f.jobId (s.bodyBytes f.body)
  have kind : byteAt (s.frameBytes f) 0 = f.body.code := rfl
  have cut : (s.frameBytes f).take ((s.bodyBytes f.body).length + 5)
      = coveredBytes f.body.code f.jobId (s.bodyBytes f.body) := by
    rw [← covered]
    exact List.take_left
  have whole : (s.frameBytes f).length = (s.bodyBytes f.body).length + 9 := by
    simp [State.frameBytes, covered]
  simp only [receivePasses, kind, whole, cut, show beAt (s.frameBytes f) 3 2 = _ from length,
    show beAt (s.frameBytes f) _ 4 = _ from check, Body.code_listed]
  simp [Body.cls, Config.maxBody, hl]

end Sys2Proof.Machine
end

section
/-! PROOFS. ARBITRATION_LOSS, and the CLAIM filled again or withdrawn (R11, R62, R64, R151, R155). -/

namespace Sys2Proof.Machine

/-! ### The frame on the medium loses (R151) -/

theorem Body.claim_of_key {b : Body} (h : b.key = .claim) : ∃ v c, b = .claim v c := by
  cases b
  case claim v c => exact ⟨v, c, rfl⟩
  all_goals cases h

theorem Body.jobClose_of_key {b : Body} (h : b.key = .jobClose) : ∃ a v w m, b = .jobClose a v w m := by
  cases b
  case jobClose a v w m => exact ⟨a, v, w, m, rfl⟩
  all_goals cases h

section
variable (s : State) {f : Frame}

theorem State.loseFrame_claim (h : f.key = .claim) :
    s.loseFrame f = ((s.stopFrame f.key).raiseLoss f.key).releaseLinkPin.claimRefill := by
  obtain ⟨v, c, hb⟩ := Body.claim_of_key h
  simp only [State.loseFrame, hb]

theorem State.loseFrame_jobClose (h : f.key = .jobClose) :
    s.loseFrame f = ((s.stopFrame f.key).raiseLoss f.key).releaseLinkPin.refillClose.closeLapse := by
  obtain ⟨a, v, w, m, hb⟩ := Body.jobClose_of_key h
  simp only [State.loseFrame, hb]

theorem State.loseFrame_plain (hc : f.key ≠ .claim) (hj : f.key ≠ .jobClose) :
    s.loseFrame f = ((s.stopFrame f.key).raiseLoss f.key).releaseLinkPin := by
  unfold State.loseFrame
  dsimp only
  split
  next hb => exact absurd (by rw [Frame.key, hb]; rfl) hc
  next hb => exact absurd (by rw [Frame.key, hb]; rfl) hj
  next => rfl

end

theorem exec_arbitrationLoss_none {s : State} (h : s.lc.sending = none) : exec .arbitrationLoss s = .next s := by
  simp only [exec, execArbitrationLoss, h]

theorem exec_arbitrationLoss_some {s : State} {f : Frame} (h : s.lc.sending = some f) :
    exec .arbitrationLoss s = .next ((s.loseFrame f).settle s) := by
  simp only [exec, execArbitrationLoss, h]

/-! ### The CLAIM queued and not on the medium (R62, R64) -/

section
variable {s : State} {r : JobRecord} (hr : s.jc.record = some r)
include hr

theorem State.claimConditions_iff : s.claimConditions = true ↔ r.state = .opened ∧ s.cs.paused = false
    ∧ (r.wanted = 0 ∨ r.accepted + r.claims.length < r.wanted) ∧ (r.noneHeard = true ∨ r.high < r.limit) := by
  simp [State.claimConditions, hr, JobRecord.room, JobRecord.highBelow, and_assoc]

theorem State.claimRefill_filled (hw : s.lc.waiting .claim = true) (hc : s.claimConditions = true) :
    s.claimRefill = s.refill .claim r.claimBody := by
  simp [State.claimRefill, hr, hw, hc]

variable (hw : s.lc.waiting .claim = true) (hc : s.claimConditions = false)
include hw hc

theorem State.claimRefill_toStandby (hs : s.cs.state = .claim) :
    s.claimRefill = { s.withdrawKey .claim with
      cs := { s.cs with state := .standby }
      dp := { s.dp.stopMotor with lock := false }
      tb := none } := by
  have fails : (s.withdrawKey .claim).claimConditions = false := by simpa [State.claimConditions] using hc
  have claiming : (s.withdrawKey .claim).cs.state = .claim := hs
  rw [State.claimRefill_withdraws (by simp [hr]) hw hc, State.claimWithdrawn, if_pos claiming,
    State.toStandby_calm (State.startConditions_of_claim fails)]
  rfl

/-- A pulled disk that waits on the CLAIM leaves the cycle. -/
theorem State.claimRefill_leaves (hs : s.cs.state = .tally) (hp : s.cs.pulled = true) (ho : s.cs.outcome = none) :
    s.claimRefill = (s.withdrawKey .claim).leavePulled .pulled none := by
  have tallying : (s.withdrawKey .claim).cs.state = .tally := hs
  have elsewhere : ¬ (s.withdrawKey .claim).cs.state = .claim := by rw [tallying]; decide
  rw [State.claimRefill_withdraws (by simp [hr]) hw hc, State.claimWithdrawn, if_neg elsewhere]
  exact if_pos ⟨tallying, hp, ho⟩

theorem State.claimRefill_alone (hs : s.cs.state ≠ .claim)
    (hn : ¬(s.cs.state = .tally ∧ s.cs.pulled = true ∧ s.cs.outcome = none)) :
    s.claimRefill = s.withdrawKey .claim := by
  rw [State.claimRefill_withdraws (by simp [hr]) hw hc, State.claimWithdrawn]
  exact (if_neg hs).trans (if_neg hn)

end

/-- Settles O15: the loss by the kind of the frame on the medium, then a waiting CLAIM by the claim conditions and the
state of the cycle. -/
theorem arbitrationLossKeepsTheFrame : Obligations.ArbitrationLossKeepsTheFrame := by
  refine ⟨fun s => ⟨exec_arbitrationLoss_none, fun f hf => ?_⟩, fun s r hr => ?_⟩
  · intro stopped counted
    have raised (h : f.key ≠ .holdOff) : (s.stopFrame f.key).raiseLoss f.key = counted.holdOffTest :=
      State.raiseLoss_eq _ _ h
    refine ⟨fun h => ?_, fun hh hc hj => ?_, fun h => ?_, fun h => ?_⟩ <;> rw [exec_arbitrationLoss_some hf]
    · rw [State.loseFrame_plain s (by simp [h]) (by simp [h]), State.raiseLoss, if_pos h]
      rfl
    · rw [State.loseFrame_plain s hc hj, raised hh]
    · rw [State.loseFrame_claim s h, raised (by simp [h])]
    · rw [State.loseFrame_jobClose s h, raised (by simp [h])]
  · refine ⟨State.claimConditions_iff hr, State.claimRefill_none, State.claimRefill_filled hr, fun hw hc hs => ?_,
      fun hw hc hs => ⟨State.claimRefill_leaves hr hw hc, fun hn => ?_⟩⟩
    · rw [State.claimRefill_toStandby hr hw hc hs]
      exact ⟨rfl, rfl, rfl, Or.inl ⟨rfl, rfl, rfl⟩⟩
    · exact State.claimRefill_alone hr hw hc hs (by simp only [Bool.eq_false_iff] at hn; tauto)

end Sys2Proof.Machine
end

section
/-! PROOFS. SEND_FAULT: the frame kept, or dropped at its fourth fault (R11, R45, R63, R110, R152). -/

namespace Sys2Proof.Machine

/-! ### The fault counted (R152, R175) -/

/-- A send fault is counted, the frame stops, and a link pin is released. -/
def State.faulted (f : Frame) (s : State) : State :=
  (State.stopFrame f.key { s with lc := { s.lc with counters :=
    { s.lc.counters with sendFaults := bump s.lc.counters.sendFaults } } }).releaseLinkPin

theorem exec_sendFault_none {s : State} (h : s.lc.sending = none) : exec .sendFault s = .next s := by
  simp only [exec, execSendFault, h]

section
variable {s : State} {f : Frame} (hf : s.lc.sending = some f)
include hf

theorem exec_sendFault_some : exec .sendFault s = .next ((s.faultFrame f).settle s) := by
  simp only [exec, execSendFault, hf]

theorem exec_sendFault_keeps (hn : f.faults < 3) : exec .sendFault s = .next (State.settle
    (if f.key = .jobClose then ((s.faulted f).mapFrame f.key fun g => { g with faults := g.faults + 1 }).closeLapse
     else (s.faulted f).mapFrame f.key fun g => { g with faults := g.faults + 1 }) s) := by
  have early : f.faults + 1 < Config.sendFaultLimit := Nat.succ_lt_succ hn
  rw [exec_sendFault_some hf, State.faultFrame]
  dsimp only
  rw [if_pos early]
  rfl

theorem exec_sendFault_drops (hn : 3 ≤ f.faults) {b : Body} (hb : f.body = b) : exec .sendFault s =
    .next ((((s.faulted f).dequeue f.key).dropped b).settle s) := by
  have fourth : ¬ f.faults + 1 < Config.sendFaultLimit := Nat.not_lt.2 (Nat.succ_le_succ hn)
  rw [exec_sendFault_some hf, State.faultFrame]
  dsimp only
  rw [if_neg fourth, hb]
  rfl

end

/-! ### What a dropped frame's block does (R45, R63, R110, R114, R118, R160) -/

/-- The blocks that do nothing, or come again at the next place freeing. -/
def Body.leftAtDrop : Body → Bool
  | .holdOff | .jobStop | .jobClose _ _ _ _ | .tally _ _ _ _ _ | .call false _ _ | .reply _ _ _ _ => true
  | .release _ _ _ o _ _ _ => decide (o ≠ .source)
  | _ => false

theorem State.dropped_left (s : State) {b : Body} (h : b.leftAtDrop = true) : s.dropped b = s := by
  unfold State.dropped
  split
  case h_7 => rfl
  all_goals simp [Body.leftAtDrop] at h

theorem Body.leftAtDrop_of_key {b : Body} (h : b.key = .holdOff ∨ b.key = .jobStop ∨ b.key = .jobClose
    ∨ b.key = .tally ∨ b.key = .call false ∨ ∃ p o, b.key = .reply p o) : b.leftAtDrop = true := by
  cases b
  case call first d j =>
    obtain rfl : first = false := by simpa [Body.key] using h
    rfl
  case holdOff | jobStop | jobClose | tally | reply => rfl
  all_goals simp [Body.key] at h

theorem Body.leftAtDrop_of_release {b : Body} (h : ∃ t status reason o z n w,
    b = .release t status reason o z n w ∧ o ≠ .source) : b.leftAtDrop = true := by
  obtain ⟨t, status, reason, o, z, n, w, rfl, ho⟩ := h
  exact decide_eq_true ho

/-- Settles O16: the frame kept up to its third fault, then each kind of frame as its block treats the drop. -/
theorem sendFaultKeepsOrDropsTheFrame : Obligations.SendFaultKeepsOrDropsTheFrame := by
  intro s
  refine ⟨exec_sendFault_none, fun f hf => ?_⟩
  intro stopped kept out again
  refine ⟨fun hn => ⟨fun hk => ?_, fun hk => ?_⟩, fun hn => ?_⟩
  · rw [exec_sendFault_keeps hf hn, if_neg hk]
    rfl
  · rw [exec_sendFault_keeps hf hn, if_pos hk]
    rfl
  have dropped : out = (s.faulted f).dequeue f.key := rfl
  have source : out.ss = s.ss := by simp [dropped, State.faulted]
  have cycle : out.cs = s.cs := by simp [dropped, State.faulted]
  have drops {b : Body} (hb : f.body = b) : exec .sendFault s = .next ((out.dropped b).settle s) :=
    exec_sendFault_drops hf hn hb
  clear_value out
  refine ⟨fun terms hb => ?_, fun reason hb => ⟨fun ha => ?_, fun ha => ?_⟩,
    fun v c hb => ⟨fun ha => ?_, fun ht hp ho => ?_⟩, fun t a restore hb => ?_, fun t status reason z n w hb => ?_, fun a j hb => ?_, fun h => ?_⟩
  · rw [drops hb]
    rfl
  · rw [drops hb, State.dropped, if_pos (source ▸ ha)]
  · rw [drops hb, State.dropped, if_neg (source ▸ ha)]
  · rw [drops hb, State.dropped, State.pulledUnclaimed, if_neg (cycle ▸ ha)]
  · have waits : out.cs.state = .tally ∧ out.cs.pulled = true ∧ out.cs.outcome = none := cycle ▸ ⟨ht, hp, ho⟩
    rw [drops hb, State.dropped, State.pulledUnclaimed, if_pos waits]
  · rw [drops hb]
    rfl
  · rw [drops hb, State.dropped]
  · rw [drops hb, State.dropped, State.enterCallFirst]
  · have left : f.body.leftAtDrop = true := by
      rcases h with h | h | h | h | h | h | h
      · rw [h]; rfl
      · rw [h]; rfl
      · exact Body.leftAtDrop_of_key (by simp [show f.body.key = _ from h])
      · exact Body.leftAtDrop_of_key (by simp [show f.body.key = _ from h])
      · exact Body.leftAtDrop_of_key (by simp [show f.body.key = _ from h])
      · exact Body.leftAtDrop_of_key (by tauto)
      · exact Body.leftAtDrop_of_release h
    rw [drops rfl, State.dropped_left out left]

end Sys2Proof.Machine
end

section
/-! PROOFS. QUEUE_PLACE_FREEING: the freed place offered to the reserves in class order (R11, R63, R69, R114, R116,
R118, R120, R154). -/

namespace Sys2Proof.Machine

/-! ### What joins the queue (R153, R154) -/

/-- What joins the queue stands at its end, in class order, of classes `lo` to `hi`; nothing joins a full queue. -/
def State.Joins (lo hi : Nat) (s t : State) : Prop :=
  ∃ l : List Frame, t.lc.queue = s.lc.queue ++ l ∧ l.Pairwise (fun a b => a.body.cls ≤ b.body.cls)
    ∧ (8 ≤ s.lc.queue.length → l = []) ∧ ∀ g ∈ l, lo ≤ g.body.cls ∧ g.body.cls ≤ hi

theorem State.Joins.nothing {lo hi : Nat} {s t : State} (h : t.lc.queue = s.lc.queue) : s.Joins lo hi t :=
  ⟨[], by simp [h], .nil, fun _ => rfl, by simp⟩

theorem State.Joins.trans {lo mid mid' hi : Nat} {s t u : State} (h : s.Joins lo mid t) (h' : t.Joins mid' hi u)
    (lower : lo ≤ mid') (middle : mid ≤ mid') (upper : mid ≤ hi) : s.Joins lo hi u := by
  obtain ⟨l, hq, hp, hf, hc⟩ := h
  obtain ⟨l', hq', hp', hf', hc'⟩ := h'
  refine ⟨l ++ l', by rw [hq', hq, List.append_assoc], ?_, fun hl => ?_, fun g hg => ?_⟩
  · refine List.pairwise_append.2 ⟨hp, hp', fun a ha b hb => ?_⟩
    exact (hc a ha).2.trans (middle.trans (hc' b hb).1)
  · rw [hf hl, hf' (by rw [hq, List.length_append]; omega), List.append_nil]
  · rcases List.mem_append.1 hg with hg | hg
    · exact ⟨(hc g hg).1, (hc g hg).2.trans upper⟩
    · exact ⟨lower.trans (hc' g hg).1, (hc' g hg).2⟩

section
variable (s : State)

theorem State.push_joins {t : State} {b : Body} {c : Nat} (hc : b.cls = c) (ha : s.accepts b = true)
    (ht : t.lc.queue = s.lc.queue) (j : JobId) : s.Joins c c (t.push b j) := by
  subst hc
  refine ⟨[{ body := b, jobId := j }], congrArg (· ++ _) ht, List.pairwise_singleton _ _, fun hl => ?_, fun g hg => ?_⟩
  · simp [State.accepts_full s b hl] at ha
  · rw [List.mem_singleton.1 hg]
    exact ⟨Nat.le_refl _, Nat.le_refl _⟩

theorem State.enter_joins (b : Body) (j : JobId) : s.Joins b.cls b.cls (s.enter b j) := by
  unfold State.enter
  split
  next ha => exact s.push_joins rfl ha rfl j
  next => exact .nothing rfl

theorem State.holdOffTest_joins : s.Joins 0 0 s.holdOffTest := by
  unfold State.holdOffTest
  split
  · simpa using s.enter_joins .holdOff 0
  · exact .nothing rfl

theorem State.abandonFromReserve_joins : s.Joins 1 1 s.abandonFromReserve := by
  unfold State.abandonFromReserve
  split
  next r reason rest _ _ =>
    split
    next ha => exact s.push_joins (by simp) ha rfl r.jobId
    next => exact .nothing rfl
  next => exact .nothing rfl

theorem State.closeTest_joins : s.Joins 1 1 s.closeTest := by
  unfold State.closeTest
  split
  next r _ =>
    split
    · simpa [JobRecord.closeBody] using s.enter_joins r.closeBody r.jobId
    · exact .nothing rfl
  next => exact .nothing rfl

theorem State.enterStop_joins : s.Joins 1 1 s.enterStop := by
  unfold State.enterStop
  split
  next r _ =>
    split
    · exact .nothing rfl
    · split
      next ha => exact s.push_joins (by simp) ha rfl r.jobId
      next => exact .nothing rfl
  next => exact .nothing rfl

theorem State.stopFromReserve_joins : s.Joins 1 1 s.stopFromReserve := by
  unfold State.stopFromReserve
  split
  · split
    · exact s.enterStop_joins
    · exact .nothing rfl
  · exact .nothing rfl

theorem State.claimAgain_joins : s.Joins 2 2 s.claimAgain := by
  unfold State.claimAgain State.askClaim
  split
  · split
    next r _ =>
      split
      · simpa [JobRecord.claimBody] using s.enter_joins r.claimBody r.jobId
      · exact .nothing s.toStandby_queue
    next => exact .nothing rfl
  · exact .nothing rfl

theorem State.enterTally_joins : s.Joins 3 3 s.enterTally := by
  unfold State.enterTally
  split
  next r o _ _ =>
    split
    · simpa [Disk.tallyBody] using s.enter_joins (s.cs.disk.tallyBody o) r.jobId
    · exact .nothing rfl
  next => exact .nothing rfl

theorem State.releaseFromReserve_joins : s.Joins 5 5 s.releaseFromReserve := by
  unfold State.releaseFromReserve State.enterRelease
  split
  next v _ =>
    split
    next r _ _ =>
      dsimp only
      split
      next ha =>
        rw [State.sourceRelease_eq] at ha ⊢
        exact s.push_joins (by simp) ha rfl r.jobId
      next => exact .nothing rfl
    next => exact .nothing (by simp)
    next => exact .nothing rfl
  next => exact .nothing rfl

/-- The seven reserves in their order: classes 0, 1, 1, 1, 2, 3 and 5. -/
theorem State.placeFreed_joins : s.Joins 0 5 s.placeFreed := by
  have abandoned := s.holdOffTest_joins.trans (State.abandonFromReserve_joins _) (by decide) (by decide) (by decide)
  have closed := abandoned.trans (State.closeTest_joins _) (by decide) (by decide) (by decide)
  have stopped := closed.trans (State.stopFromReserve_joins _) (by decide) (by decide) (by decide)
  have claimed := stopped.trans (State.claimAgain_joins _) (by decide) (by decide) (by decide)
  have tallied := claimed.trans (State.enterTally_joins _) (by decide) (by decide) (by decide)
  exact tallied.trans (State.releaseFromReserve_joins _) (by decide) (by decide) (by decide)

theorem State.placeFreed_leaves : s.placeFreed.fixed = s.fixed ∧ s.placeFreed.account = s.account
    ∧ s.placeFreed.store.mem = s.store.mem ∧ s.placeFreed.du = s.du := by
  simp [State.placeFreed, State.fixed, State.account]

end

/-! ### Each reserve at a place freeing (R154) -/

section
variable {s : State} {r : JobRecord} (hr : s.jc.record = some r)
include hr

/-- R17, R118, R120: the oldest JOB ABANDON. -/
theorem State.abandonFromReserve_none (h : s.jc.abandonDue = []) : s.abandonFromReserve = s := by
  simp only [State.abandonFromReserve, hr, h]

theorem State.abandonFromReserve_eq {reason : AbandonReason} {rest : List AbandonReason}
    (h : s.jc.abandonDue = reason :: rest) : s.abandonFromReserve =
      if s.accepts (.jobAbandon reason) then
        State.push (.jobAbandon reason) r.jobId { s with jc := { s.jc with abandonDue := rest } }
      else s := by
  simp only [State.abandonFromReserve, hr, h]

/-- R11: JOB CLOSE. -/
theorem State.closeTest_eq : s.closeTest = if s.closeConditions then s.enter r.closeBody r.jobId else s := by
  simp only [State.closeTest, hr]

/-- R120: JOB STOP. -/
theorem State.stopFromReserve_eq : s.stopFromReserve = if s.jc.stopDue then s.enterStop else s := by
  simp only [State.stopFromReserve, hr]

theorem State.enterStop_queued (h : s.lc.has .jobStop = true) : s.enterStop = s := by
  simp [State.enterStop, hr, h]

/-- A JOB STOP held in reserve stays there where the queue refuses it. -/
theorem State.stopFromReserve_stays (hb : s.boot = .ready)
    (h : s.jc.stopDue = false ∨ s.lc.has .jobStop = true ∨ 8 ≤ s.lc.queue.length) : s.stopFromReserve = s := by
  rw [State.stopFromReserve_eq hr]
  cases hd : s.jc.stopDue with
  | false => rfl
  | true =>
    rw [if_pos rfl]
    cases hk : s.lc.has .jobStop with
    | true => exact State.enterStop_queued hr hk
    | false =>
      have full : ¬ s.lc.queue.length < 8 := by simpa [hd, hk] using h
      have held : { s.jc with stopDue := true } = s.jc := by rw [← hd]
      rw [State.enterStop_new s r hb hr hk, if_neg full, held]

/-- R62, R63: CLAIM. -/
theorem State.claimAgain_asks (hs : s.cs.state = .claim) (hk : s.lc.has .claim = false) :
    s.claimAgain = if s.claimConditions then s.enter r.claimBody r.jobId else s.toStandby := by
  rw [State.claimAgain, if_pos ⟨hs, hk⟩]
  simp only [State.askClaim, hr]

/-- R69: TALLY. -/
theorem State.enterTally_owed {o : DiskOutcome} (hs : s.cs.state = .tally) (ho : s.cs.outcome = some o) :
    s.enterTally = s.enter (s.cs.disk.tallyBody o) r.jobId := by
  simp only [State.enterTally, hr, ho, if_pos hs]

omit hr in
theorem State.enterTally_unowed (h : s.cs.state ≠ .tally ∨ s.cs.outcome = none) : s.enterTally = s := by
  rcases h with h | h
  · exact State.enterTally_elsewhere h
  · unfold State.enterTally
    split
    next ho => simp [h] at ho
    next => rfl

/-- A RELEASE held in reserve stays there where the queue refuses it. -/
theorem State.releaseFromReserve_stays {v : Reserve} (hv : s.ss.reserve = some v) (ha : s.ss.abandon = none)
    (h : s.lc.has (.release v.track v.reason) = true ∨ 6 ≤ s.lc.queue.length) : s.releaseFromReserve = s := by
  have held : { s.ss with reserve := some v } = s.ss := by rw [← hv]
  simp only [State.releaseFromReserve, hv]
  rw [State.enterRelease_reserves hr ha h, held]

end

/-! ### The close conditions (R10, R11) -/

/-- R11 for any station, with a record or without. -/
theorem State.closeConditions_exists (s : State) : s.closeConditions = true ↔ ∃ r, s.jc.record = some r
    ∧ r.closing = some s.station ∧ r.state = .draining ∧ r.claims = []
    ∧ (r.role = .source → s.ss.restoring = none) := by
  cases hr : s.jc.record with
  | none => simp [State.closeConditions, hr]
  | some r => simp [State.closeConditions_iff hr, imp_iff_not_or]

theorem stationsOf_sorted (m : StationMask) : (stationsOf m).Pairwise (· < ·) :=
  (List.sortedLT_finRange 16).pairwise.filter _

theorem mem_stationsOf {m : StationMask} {i : StationId} : i ∈ stationsOf m ↔ inMask m i = true := by
  simp [stationsOf, inMask, List.mem_finRange]

theorem JobRecord.mem_remaining {r : JobRecord} {i : StationId} :
    i ∈ r.remaining ↔ inMask r.roster i = true ∧ inMask r.departed i = false := by
  simp [JobRecord.remaining, mem_stationsOf, inMask, i.isLt]

theorem JobRecord.closing_opener {r : JobRecord} (h : inMask r.departed r.opener = false) :
    r.closing = some r.opener := by simp [JobRecord.closing, JobRecord.openerGone, h]

theorem JobRecord.closing_lowest {r : JobRecord} (h : inMask r.departed r.opener = true) :
    r.closing = r.remaining.head? := by simp [JobRecord.closing, JobRecord.openerGone, h]

/-- Settles O20: the queue by the classes of the seven reserves, then each reserve by whether it has a frame and the
queue takes it. -/
theorem freedPlaceGoesToTheReservesInOrder : Obligations.FreedPlaceGoesToTheReservesInOrder := by
  refine ⟨fun s => ⟨rfl, ?_⟩, fun s r hb hr => ⟨State.abandonFromReserve_none hr, fun reason rest hd =>
    ⟨fun hn hl => ?_, fun h => ?_⟩, fun hc hn hl => ?_, fun h => ?_, fun hd hn hl => ?_, State.stopFromReserve_stays hr hb, fun h => ?_,
    fun hs hn => ⟨fun hc hl => ?_, fun hc hl => ?_, fun hc => ?_⟩, fun o hs ho hn hl => ?_, fun h => ?_, fun hv => ?_,
    fun v hv ha => ?_, fun v hv ha => ⟨fun hn hl => ?_, State.releaseFromReserve_stays hr hv ha⟩⟩,
    fun s => ⟨s.closeConditions_exists, fun r => ⟨JobRecord.closing_opener, JobRecord.closing_lowest,
      stationsOf_sorted _, fun i => JobRecord.mem_remaining⟩, fun h => if_pos h, fun h => ?_⟩⟩
  · obtain ⟨l, hq, hp, hf, -⟩ := s.placeFreed_joins
    obtain ⟨fixed, account, mem, du⟩ := s.placeFreed_leaves
    exact ⟨s.placeFreed, l, rfl, hq, hp, hf, fixed, account, mem, du⟩
  · rw [State.abandonFromReserve_eq hr hd,
      if_pos ((State.accepts_low_iff (b := .jobAbandon reason) (by simp)).2 ⟨hb, hn, hl⟩)]
    rfl
  · rw [State.abandonFromReserve_eq hr hd, if_neg (State.refuses_low (by simp) (.inr h))]
  · rw [State.closeTest_eq hr, if_pos hc]
    exact State.enter_taken _ hb hn (by simpa [JobRecord.closeBody] using hl)
  · rw [State.closeTest_eq hr]
    split
    next hc =>
      have refused : s.lc.has .jobClose = true ∨ 8 ≤ s.lc.queue.length := by simpa [hc] using h
      exact State.enter_refused_of _ (.inr (by simpa [JobRecord.closeBody, Body.key] using refused))
    next => rfl
  · rw [State.stopFromReserve_eq hr, if_pos hd, State.enterStop_new s r hb hr hn, if_pos hl]
  · rw [State.claimAgain, if_neg]
    rintro ⟨hs, hn⟩
    simp [hs, hn] at h
  · rw [State.claimAgain_asks hr hs hn, if_pos hc]
    exact State.enter_taken _ hb hn (by simpa [JobRecord.claimBody] using hl)
  · rw [State.claimAgain_asks hr hs hn, if_pos hc]
    exact State.enter_refused_of _ (.inr (.inr (by simpa [JobRecord.claimBody] using hl)))
  · rw [State.claimAgain_asks hr hs hn, if_neg (by simp [hc])]
  · rw [State.enterTally_owed hr hs ho]
    exact State.enter_taken _ hb hn (by simpa [Disk.tallyBody] using hl)
  · by_cases owed : s.cs.state ≠ .tally ∨ s.cs.outcome = none
    · exact State.enterTally_unowed owed
    · obtain ⟨hs, ho⟩ := not_or.1 owed
      obtain ⟨o, ho⟩ := Option.ne_none_iff_exists'.1 ho
      have refused : s.lc.has .tally = true ∨ 8 ≤ s.lc.queue.length := by tauto
      rw [State.enterTally_owed hr (not_not.1 hs) ho]
      exact State.enter_refused_of _ (.inr (by simpa [Disk.tallyBody, Body.key] using refused))
  · simp only [State.releaseFromReserve, hv]
  · simp only [State.releaseFromReserve, hv]
    exact State.enterRelease_abandoned hr ha
  · simp only [State.releaseFromReserve, hv]
    rw [State.enterRelease_enters hr ha hb hn hl, State.sourceRelease_eq]
    rfl
  · rw [State.closeLapse, if_neg (by simp [h])]
    rfl

end Sys2Proof.Machine
end

section
/-! PROOFS. A frame that fails its checks, or whose body fails its test, is counted and ends a fill (R30, R31, R158,
R172). -/

namespace Sys2Proof.Machine

/-! ### The receive checks (R158, R171) -/

theorem receivePasses_iff (cls : Fin 8) (bytes : List Byte) (broke : Bool) : receivePasses cls bytes broke = true ↔
    byteAt bytes 0 ∈ [0x01, 0x11, 0x12, 0x13, 0x14, 0x21, 0x31, 0x41, 0x51, 0x61, 0x71, 0x72]
    ∧ (byteAt bytes 0).toNat / 16 = cls.val ∧ beAt bytes 3 2 ≤ 12400 ∧ broke = false
    ∧ bytes.length = beAt bytes 3 2 + 9
    ∧ crc32 (bytes.take (beAt bytes 3 2 + 5)) = BitVec.ofNat 32 (beAt bytes (beAt bytes 3 2 + 5) 4) := by
  simp only [receivePasses, Bool.and_eq_true, decide_eq_true_eq, Bool.not_eq_true', and_assoc]
  rfl

/-! ### The fill that a broken frame ends (R30, R31) -/

theorem Store.brokenFill_track {st : Store} {t : Byte} (rest : List Byte) {i : Nat} (h : st.fillOf t.toNat = some i) :
    st.brokenFill (t :: rest) = some i := by
  simp [Store.brokenFill, h]

theorem Store.brokenFill_last {st : Store} {t : Byte} (rest : List Byte) (h : st.fillOf t.toNat = none) :
    st.brokenFill (t :: rest) = st.fills.head? := by
  simp [Store.brokenFill, h]

theorem Store.brokenFill_noBody (st : Store) : st.brokenFill [] = st.fills.head? := rfl

theorem Store.brokenFill_none {st : Store} (body : List Byte) (h : st.fills = []) : st.brokenFill body = none := by
  cases body with
  | nil => simp [Store.brokenFill_noBody, h]
  | cons t rest => simp [Store.brokenFill_last rest (show st.fillOf t.toNat = none by simp [Store.fillOf, h]), h]

theorem State.breakFill_none {s : State} (body : List Byte) (h : s.store.fills = []) : s.breakFill body = s := by
  unfold State.breakFill
  rw [Store.brokenFill_none body h]
  cases s.recipe <;> rfl

/-- With a record what has arrived is in the slot, and the slot becomes FREE. -/
theorem State.breakFill_some {s : State} {body : List Byte} {i : Nat} {r : JobRecord}
    (hi : s.store.brokenFill body = some i) (hr : s.jc.record = some r) : s.breakFill body =
      { s with store := { (Store.fillSectors r.recipe i none
          (arrivedSectors r.recipe.size r.recipe.sectors (body.drop 9)) s.store).freeSlot i with
        fills := s.store.fills.erase i } } := by
  have recipe : s.recipe = some r.recipe := by simp [State.recipe, hr]
  simp [State.breakFill, recipe, hi, State.endFill]

/-- A frame of another kind puts nothing into a fill, and the last begun ends. -/
theorem State.breakFill_noBody {s : State} : s.breakFill [] = { s with store := match s.store.fills with
    | i :: rest => { s.store.freeSlot i with fills := rest }
    | [] => s.store } := by
  cases hf : s.store.fills with
  | nil => exact State.breakFill_none [] hf
  | cons i rest =>
    have first : s.store.brokenFill [] = some i := by rw [Store.brokenFill_noBody, hf]; rfl
    have nothing (size n : Nat) : arrivedSectors size n [] = [] := by cases n <;> rfl
    unfold State.breakFill
    rw [first]
    cases s.recipe with
    | none => simp [State.endFill, hf]
    | some r => simp [State.endFill, hf, nothing, Store.fillSectors]

/-! ### FRAME_BREAK (R158) -/

section
variable (cls : Fin 8) (bytes : List Byte) (broke : Bool) {s : State}

theorem exec_frameBreak_early (hb : s.boot ≠ .ready) : exec (.frameBreak cls bytes broke) s = .next s := by
  simp [exec, execFrameBreak, State.frameBroken, hb]

theorem exec_frameBreak_passedOver (hb : s.boot = .ready) (hd : s.lc.deaf = true) :
    exec (.frameBreak cls bytes broke) s = .next { s with lc := { s.lc with deaf := false } } := by
  simp [exec, execFrameBreak, State.frameBroken, hb, hd]

variable {cls bytes broke}

theorem exec_frameBreak_passes (h : s.receives) (hp : receivePasses cls bytes broke = true) :
    exec (.frameBreak cls bytes broke) s = .next s := by
  simp [exec, execFrameBreak, State.frameBroken, h.1, h.2, hp]

theorem exec_frameBreak_fails (h : s.receives) (hp : receivePasses cls bytes broke = false) :
    exec (.frameBreak cls bytes broke) s = .next ((s.discardFrame (arrivedBody bytes)).settle s) := by
  simp [exec, execFrameBreak, State.frameBroken, h.1, h.2, hp]

end

/-! ### A completion that is not applied (R158, R172) -/

section
variable {α : Type} {raw : List Byte} {body : Option α} {k : α → Option FrameKey} {i : StationId}
  {apply : α → State → State} {s : State}

theorem State.completed_early (hb : s.boot ≠ .ready) : s.completed raw body k i apply = s := if_neg hb

theorem State.completed_passedOver (hb : s.boot = .ready) (hd : s.lc.deaf = true) :
    s.completed raw body k i apply = { s with lc := { s.lc with deaf := false } } := by
  simp only [State.completed, if_pos hb, if_pos hd]

theorem State.completed_discards (h : s.receives) (hn : body = none) :
    s.completed raw body k i apply = s.discardFrame raw := by
  simp [State.completed, h.1, h.2, hn]

end

theorem next_settled {x y s : State} (h : x = y) : (.next (x.settle s) : Result) = .next (y.settle s) := by rw [h]

theorem State.ownCheckFails_unreceived {s : State} (i : StationId) (h : s.boot ≠ .ready ∨ s.lc.deaf = true) :
    s.ownCheckFails i = false := by
  rcases h with h | h <;> simp [State.ownCheckFails, h]

theorem exec_release_checked {f : Rx} {s : State} (h : s.ownCheckFails f.sender = false) : exec (.release f) s =
    .next ((s.completed f.body (parseRelease f.body) (fun b => some (.release b.track b.reason)) f.sender
      fun b t => t.inJob f.jobId (State.setNote f.jobId)
        (State.releaseHeard (decide (f.sender = s.station)) (s.lc.releaseOrigin b.track b.reason) b)).settle s) := by
  simp [exec, execRelease, h]

/-! ### The codes listed (R172) -/

theorem flagOf_isSome (b : Byte) : (flagOf b).isSome = true ↔ b.toNat ≤ 1 := by
  revert b; decide +kernel

theorem AbandonReason.ofCode_isSome (b : Byte) :
    (AbandonReason.ofCode b).isSome = true ↔ 1 ≤ b.toNat ∧ b.toNat ≤ 6 := by
  revert b; decide +kernel

theorem DiskOutcome.ofCode_isSome (b : Byte) :
    (DiskOutcome.ofCode b).isSome = true ↔ 1 ≤ b.toNat ∧ b.toNat ≤ 3 := by
  revert b; decide +kernel

theorem faultOfCode_isSome (b : Byte) : (faultOfCode b).isSome = true ↔ b.toNat ≤ 14 := by
  revert b; decide +kernel

theorem ReleaseReason.ofCode_isSome (b : Byte) :
    (ReleaseReason.ofCode b).isSome = true ↔ 1 ≤ b.toNat ∧ b.toNat ≤ 3 := by
  revert b; decide +kernel

theorem twoCodes_isSome {α : Type} (b : Byte) (x y : α) :
    (if b = 1 then some x else if b = 2 then some y else none).isSome = true ↔ b = 1 ∨ b = 2 := by
  split
  next h1 => exact iff_of_true rfl (.inl h1)
  next h1 =>
    split
    next h2 => exact iff_of_true rfl (.inr h2)
    next h2 => exact iff_of_false (by simp) (not_or.2 ⟨h1, h2⟩)

theorem ReleaseStatus.ofCode_good (b : Byte) : ReleaseStatus.ofCode b = some .good ↔ b = 1 := by
  revert b; decide +kernel

theorem ReleaseStatus.ofCode_lost (b : Byte) : ReleaseStatus.ofCode b = some .lost ↔ b = 2 := by
  revert b; decide +kernel

/-! ### The tests of the bodies (R172) -/

section
variable (bs : List Byte)

theorem parseHoldOff_eq_none : parseHoldOff bs = none ↔ bs.length ≠ 0 := by
  simp [parseHoldOff]

theorem parseOpen_isSome :
    (parseOpen bs).isSome = true ↔ bs.length = 87 ∧ (byteAt bs 0 = 1 ∨ byteAt bs 0 = 2) := by
  rw [← twoCodes_isSome _ JobKind.copy JobKind.format, parseOpen]
  generalize (if byteAt bs 0 = 1 then some JobKind.copy else _) = kind
  cases kind with
  | none => simp
  | some kind => split <;> simp [*]

theorem parseStop_isSome : (parseStop bs).isSome = true ↔ bs.length = 2 ∧ byteAt bs 1 = 1 := by
  simp [parseStop]

theorem parseClose_isSome : (parseClose bs).isSome = true ↔ bs.length = 17 := by
  simp [parseClose]

theorem parseClose_eq_none : parseClose bs = none ↔ bs.length ≠ 17 := by
  simp [parseClose]

theorem parseAbandon_isSome :
    (parseAbandon bs).isSome = true ↔ bs.length = 2 ∧ 1 ≤ (byteAt bs 1).toNat ∧ (byteAt bs 1).toNat ≤ 6 := by
  rw [← AbandonReason.ofCode_isSome, parseAbandon]
  split <;> simp [*]

theorem parseClaim_isSome : (parseClaim bs).isSome = true ↔ bs.length = 8 := by
  simp [parseClaim]

theorem parseClaim_eq_none : parseClaim bs = none ↔ bs.length ≠ 8 := by
  simp [parseClaim]

theorem parseTally_isSome : (parseTally bs).isSome = true ↔ bs.length = 9 ∧ 1 ≤ (byteAt bs 0).toNat
    ∧ (byteAt bs 0).toNat ≤ 3 ∧ (byteAt bs 1).toNat ≤ 1 ∧ (byteAt bs 6).toNat ≤ 14 := by
  rw [← faultOfCode_isSome, ← flagOf_isSome, ← and_assoc (a := 1 ≤ _), ← DiskOutcome.ofCode_isSome, parseTally]
  split
  next hl =>
    cases DiskOutcome.ofCode (byteAt bs 0) with
    | none => simp
    | some o =>
      cases flagOf (byteAt bs 1) with
      | none => simp
      | some present => cases faultOfCode (byteAt bs 6) <;> simp [hl]
  next hl => simp [hl]

theorem parseWant_isSome : (parseWant bs).isSome = true ↔ bs.length = 3 ∧ (byteAt bs 2).toNat ≤ 1 := by
  rw [← flagOf_isSome, parseWant]
  split <;> simp [*]

theorem parseRelease_isSome : (parseRelease bs).isSome = true ↔ 9 ≤ bs.length ∧ 1 ≤ (byteAt bs 2).toNat
    ∧ (byteAt bs 2).toNat ≤ 3
    ∧ (byteAt bs 1 = 1 ∧ bs.length = 9 + (byteAt bs 4).toNat * (1 + 128 * 2 ^ (byteAt bs 3).toNat)
      ∨ byteAt bs 1 = 2 ∧ bs.length = 9) := by
  rw [← and_assoc (a := 1 ≤ _), ← ReleaseReason.ofCode_isSome, ← ReleaseStatus.ofCode_good,
    ← ReleaseStatus.ofCode_lost, parseRelease]
  cases ReleaseReason.ofCode (byteAt bs 2) with
  | none => simp
  | some reason =>
    cases ReleaseStatus.ofCode (byteAt bs 1) with
    | none => simp
    | some status =>
      have length (size count : Nat) : bs.length = releaseLength status size count ↔
          some status = some .good ∧ bs.length = 9 + count * (1 + 128 * 2 ^ size)
          ∨ some status = some .lost ∧ bs.length = 9 := by cases status <;> simp [releaseLength]
      rw [← length]
      dsimp only
      split
      next h => exact iff_of_true rfl ⟨h.1, rfl, h.2⟩
      next h => exact iff_of_false (by simp) fun ⟨h9, _, hl⟩ => h ⟨h9, hl⟩

theorem parseCall_isSome : (parseCall bs).isSome = true ↔ bs.length = 5 ∧ (byteAt bs 0 = 1 ∨ byteAt bs 0 = 2)
    ∧ (byteAt bs 1).toNat ≤ 1 := by
  rw [← flagOf_isSome, ← twoCodes_isSome _ true false, parseCall]
  generalize (if byteAt bs 0 = 1 then some true else _) = type
  cases type with
  | none => simp
  | some first =>
    cases flagOf (byteAt bs 1) with
    | none => simp
    | some fitted => split <;> simp [*]

theorem parseQuery_isSome : (parseQuery bs).isSome = true ↔ bs.length = 7 ∧ (byteAt bs 6).toNat ≤ 1 := by
  rw [← flagOf_isSome, parseQuery]
  split <;> simp [*]

theorem parseReply_isSome : (parseReply bs).isSome = true ↔ 4 ≤ bs.length ∧ bs.length ≤ 260
    ∧ 1 ≤ (byteAt bs 3).toNat ∧ (byteAt bs 3).toNat ≤ 3 := by
  simp [parseReply, inRange, and_assoc]

end

/-! ### The frames discarded (R31, R158, R172) -/

section
variable {f : Rx} {s : State}

theorem State.discardFrame_noBody : s.discardFrame [] = { s with
    lc := { s.lc with counters := { s.lc.counters with badFrames := min (s.lc.counters.badFrames + 1) 4294967295 } }
    store := match s.store.fills with
      | i :: rest => { s.store.freeSlot i with fills := rest }
      | [] => s.store } := by
  rw [State.discardFrame, State.breakFill_noBody]
  rfl

theorem State.discardFrame_unfilled (raw : List Byte) (h : s.store.fills = []) : s.discardFrame raw = s.badFrame := by
  rw [State.discardFrame, State.breakFill_none raw h]

theorem State.discardFrame_filled {raw : List Byte} {i : Nat} {r : JobRecord} (hi : s.store.brokenFill raw = some i)
    (hr : s.jc.record = some r) : s.discardFrame raw = { s.badFrame with
      store := { (Store.fillSectors r.recipe i none
          (arrivedSectors r.recipe.size r.recipe.sectors (raw.drop 9)) s.store).freeSlot i with
        fills := s.store.fills.erase i } } := by
  rw [State.discardFrame, State.breakFill_some hi hr]
  rfl

end

/-- Settles O18: FRAME_BREAK by the receive checks, the completions by whether the station receives and the body passes
its test, and each test by its codes. -/
theorem frameThatFailsItsChecksIsCounted : Obligations.FrameThatFailsItsChecksIsCounted := by
  refine ⟨fun cls bytes broke s => ⟨receivePasses_iff cls bytes broke, exec_frameBreak_early cls bytes broke,
      exec_frameBreak_passedOver cls bytes broke, fun hb hd => ⟨exec_frameBreak_passes ⟨hb, hd⟩, fun hp => ?_⟩,
      fun t rest i => Store.brokenFill_track rest, fun t rest => Store.brokenFill_last rest, s.store.brokenFill_noBody⟩,
    fun f s => ⟨fun hb c hc => ?_, fun hb hd c hc => ?_, fun hb c hc => ?_, fun hb hd c hc => ?_, fun h => ?_⟩,
    fun bs => ⟨parseOpen_isSome bs, parseStop_isSome bs, parseClose_isSome bs, parseAbandon_isSome bs,
      parseClaim_isSome bs, parseTally_isSome bs, parseWant_isSome bs, parseRelease_isSome bs, parseCall_isSome bs,
      parseQuery_isSome bs, parseReply_isSome bs⟩⟩
  · intro body counted
    have arrived : exec (.frameBreak cls bytes broke) s = .next ((s.discardFrame body).settle s) :=
      exec_frameBreak_fails ⟨hb, hd⟩ hp
    clear_value body
    rw [arrived]
    refine ⟨fun hf => ?_, fun i r hi hr => ?_⟩
    · rw [State.discardFrame_unfilled _ hf]
      rfl
    · rw [State.discardFrame_filled hi hr]
      rfl
  · simp only [List.mem_cons, List.not_mem_nil, or_false] at hc
    rcases hc with rfl | rfl | rfl | rfl | rfl | rfl | rfl | rfl | rfl <;>
      exact congrArg _ (State.completed_early hb)
  · simp only [List.mem_cons, List.not_mem_nil, or_false] at hc
    rcases hc with rfl | rfl | rfl | rfl | rfl | rfl | rfl | rfl | rfl <;>
      exact congrArg _ (State.completed_passedOver hb hd)
  · simp only [List.mem_cons, List.not_mem_nil, or_false] at hc
    rcases hc with rfl | rfl | rfl | rfl
    case inr.inr.inr =>
      rw [exec_release_checked (State.ownCheckFails_unreceived _ (.inl hb)), State.completed_early hb]
    all_goals exact next_settled (State.completed_early hb)
  · simp only [List.mem_cons, List.not_mem_nil, or_false] at hc
    rcases hc with rfl | rfl | rfl | rfl
    case inr.inr.inr =>
      rw [exec_release_checked (State.ownCheckFails_unreceived _ (.inr hd)), State.completed_passedOver hb hd]
    all_goals exact next_settled (State.completed_passedOver hb hd)
  · intro counted discarded
    have discards {α : Type} {body : Option α} (k : α → Option FrameKey) (apply : α → State → State)
        (hn : body = none) : s.completed [] body k f.sender apply = discarded :=
      (State.completed_discards h hn).trans State.discardFrame_noBody
    clear_value discarded
    refine ⟨fun c hc => ?_, fun c hc => ?_, fun hp hown => ?_⟩
    · rcases hc with ⟨rfl, hp⟩ | ⟨rfl, hp⟩ | ⟨rfl, hp⟩ | ⟨rfl, hp⟩ | ⟨rfl, hp⟩ | ⟨rfl, hp⟩ | ⟨rfl, hp⟩ | ⟨rfl, hp⟩ |
        ⟨rfl, hp⟩
      · exact congrArg _ (discards _ _ ((parseHoldOff_eq_none f.body).2 hp))
      · exact congrArg _ (discards _ _ hp)
      · exact congrArg _ (discards _ _ hp)
      · exact congrArg _ (discards _ _ ((parseClose_eq_none f.body).2 hp))
      · exact congrArg _ (discards _ _ hp)
      · exact congrArg _ (discards _ _ hp)
      · exact congrArg _ (discards _ _ (by rw [hp]; rfl))
      · exact congrArg _ (discards _ _ hp)
      · exact congrArg _ (discards _ _ hp)
    · rcases hc with ⟨rfl, hp⟩ | ⟨rfl, hp⟩ | ⟨rfl, hp⟩
      · exact next_settled (discards _ _ ((parseClaim_eq_none f.body).2 hp))
      · exact next_settled (discards _ _ hp)
      · exact next_settled (discards _ _ (by rw [hp]; rfl))
    · rw [exec_release_checked hown, State.completed_discards h hp]
      refine ⟨fun hf => ?_, fun i r hi hr => ?_⟩
      · rw [State.discardFrame_unfilled _ hf]
        rfl
      · rw [State.discardFrame_filled hi hr]
        rfl

end Sys2Proof.Machine
end

section
/-! PROOFS. The query pages: their entries at their offsets (R170, R175). -/

namespace Sys2Proof.Machine

/-! ### Blocks of one length in a row -/

section
variable {α β : Type} {g : α → List β} {w : Nat} (hw : ∀ a, (g a).length = w)
include hw

theorem length_flatMap_blocks (l : List α) : (l.flatMap g).length = w * l.length := by
  induction l with
  | nil => simp
  | cons a l ih => rw [List.flatMap_cons, List.length_append, hw, ih, List.length_cons, Nat.mul_succ, Nat.add_comm]

/-- The block of the entry at `k` starts at `k` times the block length. -/
theorem block_flatMap {l : List α} {k : Nat} {a : α} (h : l[k]? = some a) :
    ((l.flatMap g).drop (w * k)).take w = g a := by
  induction l generalizing k with
  | nil => simp at h
  | cons b l ih =>
    rw [List.flatMap_cons]
    cases k with
    | zero =>
      obtain rfl : b = a := by simpa using h
      rw [Nat.mul_zero, List.drop_zero, List.take_left' (hw b)]
    | succ k =>
      have skip : w * (k + 1) = (g b).length + w * k := by rw [hw, Nat.mul_succ, Nat.add_comm]
      rw [skip, ← List.drop_drop, List.drop_left]
      exact ih (by simpa using h)

end

/-! ### Pages 0, 3, 4, 6 and 7: tables -/

section
variable (s : State)

theorem State.page0_length : s.page0.length = 80 := by
  rw [State.page0, length_flatMap_blocks (w := 5) (by simp), Vector.length_toList]

theorem State.page0_entry (i : Fin 16) : (s.page0.drop (5 * i.val)).take 5 =
    [flagByte s.lc.presence[i].present, flagByte s.lc.presence[i].fitted, s.lc.presence[i].revision]
      ++ beBytes 2 s.lc.presence[i].jobId.toNat :=
  block_flatMap (g := fun p : Presence =>
      [flagByte p.present, flagByte p.fitted, p.revision] ++ beBytes 2 p.jobId.toNat) (w := 5) (by simp) (by simp)

theorem State.page3_length : s.page3.length = 504 := by
  rw [State.page3, length_flatMap_blocks (w := 3) (by simp), Vector.length_toList, Config.trackCount]

theorem State.page3_entry {u : Nat} (hu : u < 168) : (s.page3.drop (3 * u)).take 3 =
    [(s.store.entry u).presence.code, orNone (s.store.entry u).slot, flagByte (s.store.entry u).home] :=
  block_flatMap (g := fun e : MapEntry => [e.presence.code, orNone e.slot, flagByte e.home]) (w := 3) (by simp)
    (by simp [Store.entry, hu])

theorem State.page4_length : s.page4.length = 640 := by
  rw [State.page4, length_flatMap_blocks (w := 10) (by simp), Vector.length_toList, Config.slotCount]

theorem State.page4_entry {i : Nat} (hi : i < 64) : (s.page4.drop (10 * i)).take 10 =
    [(s.store.slot i).state.code, orNone (s.store.slot i).track] ++ beBytes 4 (s.store.slot i).check.toNat
      ++ [flagByte (s.store.slot i).drivePin, flagByte (s.store.slot i).linkPin, flagByte (s.store.slot i).damaged,
        flagByte (s.store.slot i).freePending] :=
  block_flatMap (g := fun e : Slot => [e.state.code, orNone e.track] ++ beBytes 4 e.check.toNat
    ++ [flagByte e.drivePin, flagByte e.linkPin, flagByte e.damaged, flagByte e.freePending]) (w := 10) (by simp)
    (by simp [Store.slot, hi])

/-- A history entry in its 10 bytes (R169, R175). -/
def HistoryEntry.bytes (h : HistoryEntry) : List Byte :=
  h.outcome.code :: optSerial h.serial ++ [faultCode h.first, byteOf h.further, byteOf h.verified, causeCode h.cause]

theorem HistoryEntry.bytes_length (h : HistoryEntry) : h.bytes.length = 10 := by
  simp [HistoryEntry.bytes, optSerial]

theorem HistoryEntry.bytes_eq (h : HistoryEntry) : h.bytes =
    [match h.outcome with | .accepted => 1 | .rejected => 2 | .pulled => 3, flagByte h.serial.isSome]
      ++ beBytes 4 (h.serial.getD 0) ++ [match h.first with | some f => f.code | none => 0, byteOf h.further,
        byteOf h.verified, match h.cause with
          | none => 0 | some (.abandon why) => why.code | some .close => 7 | some .restart => 8] := by
  have outcome : h.outcome.code = match h.outcome with | .accepted => 1 | .rejected => 2 | .pulled => 3 := by
    cases h.outcome <;> rfl
  have first : faultCode h.first = match h.first with | some f => f.code | none => 0 := by
    cases h.first <;> rfl
  have cause : causeCode h.cause = match h.cause with
      | none => 0 | some (.abandon why) => why.code | some .close => 7 | some .restart => 8 := by
    rcases h.cause with _ | c
    · rfl
    · cases c <;> rfl
  rw [HistoryEntry.bytes, outcome, first, cause]
  rfl

theorem State.page6_eq : s.page6 = s.pc.history.flatMap HistoryEntry.bytes := rfl

theorem State.page6_length : s.page6.length = 10 * s.pc.history.length :=
  length_flatMap_blocks HistoryEntry.bytes_length _

theorem State.page6_entry {k : Nat} {e : HistoryEntry} (h : s.pc.history[k]? = some e) :
    (s.page6.drop (10 * k)).take 10 = e.bytes := block_flatMap HistoryEntry.bytes_length h

theorem State.page7_length : s.page7.length = 36 := length_flatMap_blocks (beBytes_length 4) _

theorem State.page7_entry {k n : Nat} (h : s.lc.counters.toList[k]? = some n) :
    (s.page7.drop (4 * k)).take 4 = beBytes 4 n := block_flatMap (beBytes_length 4) h

end

theorem TrackPresence.code_eq (p : TrackPresence) :
    p.code = match p with | .absent => 0 | .filling => 1 | .held => 2 := by cases p <;> rfl

theorem SlotState.code_eq (p : SlotState) :
    p.code = match p with | .free => 0 | .filling => 1 | .home => 2 | .cache => 3 := by cases p <;> rfl

/-! ### Page 5: the want list (R44) -/

/-- Positions 1 to 8 of the want list: 5 of the need part, 3 of the repair part. -/
def Distribution.positions (du : Distribution) : List (Option Want) :=
  (List.range 5).map (fun i => du.need[i]?) ++ (List.range 3).map fun i => du.repair[i]?

theorem Distribution.positions_get (du : Distribution) {k : Nat} (hk : k < 8) :
    du.positions[k]? = some (if k < 5 then du.need[k]? else du.repair[k - 5]?) := by
  unfold Distribution.positions
  split
  next h5 => rw [List.getElem?_append_left (by simpa using h5)]; simp [h5]
  next h5 =>
    rw [List.getElem?_append_right (by simpa using h5)]
    simp [show k - 5 < 3 by omega]

theorem wantEntry_length (now : Nat) (w : Option Want) : (wantEntry now w).length = 6 := by
  cases w <;> simp [wantEntry]

theorem State.page5_eq (s : State) : s.page5 = s.du.positions.flatMap (wantEntry s.now) := by
  simp only [State.page5, Distribution.positions, List.flatMap_append, List.flatMap_map]

theorem State.page5_length (s : State) : s.page5.length = 48 := by
  rw [State.page5_eq, length_flatMap_blocks (wantEntry_length s.now)]
  simp [Distribution.positions]

theorem State.page5_entry (s : State) {k : Nat} (hk : k < 8) : (s.page5.drop (6 * k)).take 6 =
    wantEntry s.now (if k < 5 then s.du.need[k]? else s.du.repair[k - 5]?) := by
  rw [State.page5_eq, block_flatMap (wantEntry_length s.now) (s.du.positions_get hk)]

theorem WantPhase.code_eq (p : WantPhase) :
    p.code = match p with | .queued => 1 | .waiting => 2 | .unsent => 3 := by cases p <;> rfl

section
variable (now : Nat) (w : Want)

theorem wantEntry_take : (wantEntry now (some w)).take 4 =
    [byteOf w.track, byteOf w.attempt, flagByte w.restore,
      match w.phase with | .queued => 1 | .waiting => 2 | .unsent => 3] :=
  congrArg (fun c => [byteOf w.track, byteOf w.attempt, flagByte w.restore, c]) w.phase.code_eq

theorem wantEntry_drop : (wantEntry now (some w)).drop 4 = beBytes 2 (timeLeft now w.deadline) := rfl

end

theorem timeLeft_none (now : Nat) : timeLeft now none = 0 := rfl

/-- A time left that is whole milliseconds shows as it is. -/
theorem timeLeft_whole (now ms : Nat) : timeLeft now (some (now + ms * 1000)) = ms := by
  simp [timeLeft]

end Sys2Proof.Machine
end

section
/-! PROOFS. QUERY and REPLY (R161, R170), and the query pages of the job record and the configuration (R175). -/

namespace Sys2Proof.Machine

/-! ### Page 1: the job record -/

theorem padTo_length (n : Nat) (bs : List Byte) : (padTo n bs).length = n := by
  simp [padTo]

theorem Recipe.toBytes_length (r : Recipe) : r.toBytes.length = 73 := by
  simp [Recipe.toBytes, padTo_length]

/-- Bytes 0 to 5 of page 1. -/
def JobRecord.pageHead (r : JobRecord) : List Byte :=
  [r.state.code, r.role.code] ++ beBytes 2 r.jobId.toNat ++ [r.kind.code, byteOf r.opener.val]

/-- Bytes 79 to 120 of page 1. -/
def JobRecord.pageFields (r : JobRecord) : List Byte :=
  [byteOf r.tracks, byteOf r.r] ++ beBytes 2 r.roster.toNat ++ beBytes 2 r.departed.toNat
  ++ [flagByte r.joinRefused, byteOf r.mark] ++ beBytes 2 r.wanted
  ++ beBytes 4 r.base ++ beBytes 4 r.limit ++ beBytes 4 r.high ++ beBytes 4 r.heard ++ beBytes 4 r.accepted
  ++ beBytes 4 r.void ++ beBytes 4 r.withdrawn
  ++ [byteOf r.claims.length, flagByte r.stamping, byteOf r.homeShort, byteOf r.repair.length]

/-- The last 5 bytes of page 1, at a SOURCE. -/
def Source.pageBytes (ss : Source) : List Byte :=
  [ss.state.code, flagByte ss.present, flagByte ss.prot, byteOf ss.firstTrack, orNone ss.restoring]

/-- What follows byte 120 of page 1: the repair list, and at a SOURCE the master record. -/
def State.pageLists (s : State) (r : JobRecord) : List Byte :=
  r.repair.map byteOf ++ if r.role = .source then s.ss.pageBytes else []

theorem JobRecord.pageHead_length (r : JobRecord) : r.pageHead.length = 6 := rfl

theorem JobRecord.pageFields_length (r : JobRecord) : r.pageFields.length = 42 := rfl

theorem JobRecord.pageHead_eq (r : JobRecord) : r.pageHead =
    ([if r.state = .opened then 1 else 2, match r.role with | .source => 1 | .member => 2 | .observer => 3] : List Byte)
      ++ beBytes 2 r.jobId.toNat ++ [if r.kind = .copy then 1 else 2, byteOf r.opener.val] := by
  have state : r.state.code = if r.state = .opened then 1 else 2 := by cases r.state <;> rfl
  have role : r.role.code = match r.role with | .source => 1 | .member => 2 | .observer => 3 := by
    cases r.role <;> rfl
  have kind : r.kind.code = if r.kind = .copy then 1 else 2 := by cases r.kind <;> rfl
  rw [JobRecord.pageHead, state, role, kind]

theorem Source.pageBytes_eq (ss : Source) : ss.pageBytes = [
    match ss.state with
      | .idle => 0 | .spinup => 1 | .home => 2 | .read => 3 | .release => 4 | .serve => 5 | .ending => 6,
    flagByte ss.present, flagByte ss.prot, byteOf ss.firstTrack, (ss.restoring.map byteOf).getD 0xFF] := by
  have state : ss.state.code = match ss.state with
      | .idle => 0 | .spinup => 1 | .home => 2 | .read => 3 | .release => 4 | .serve => 5 | .ending => 6 := by
    cases ss.state <;> rfl
  rw [Source.pageBytes, state]
  rfl

section
variable {s : State} {r : JobRecord} (hr : s.jc.record = some r)
include hr

theorem State.page1_eq : s.page1 = r.pageHead ++ (r.recipe.toBytes ++ (r.pageFields ++ s.pageLists r)) := by
  simp only [State.page1, hr, JobRecord.pageHead, JobRecord.pageFields, State.pageLists, Source.pageBytes,
    List.append_assoc]

theorem State.page1_length :
    s.page1.length = 121 + r.repair.length + if r.role = .source then 5 else 0 := by
  have lists : (s.pageLists r).length = r.repair.length + if r.role = .source then 5 else 0 := by
    unfold State.pageLists
    split <;> simp [Source.pageBytes]
  rw [State.page1_eq hr]
  simp only [List.length_append, JobRecord.pageHead_length, Recipe.toBytes_length, JobRecord.pageFields_length, lists]
  omega

theorem State.page1_head : s.page1.take 6 = r.pageHead := by
  rw [State.page1_eq hr, List.take_left' r.pageHead_length]

theorem State.page1_recipe : (s.page1.drop 6).take 73 = r.recipe.toBytes := by
  rw [State.page1_eq hr, List.drop_left' r.pageHead_length, List.take_left' r.recipe.toBytes_length]

/-- What stands from byte 79 on. -/
theorem State.page1_drop (k : Nat) : s.page1.drop (79 + k) = (r.pageFields ++ s.pageLists r).drop k := by
  have before : (r.pageHead ++ r.recipe.toBytes).length = 79 := by
    rw [List.length_append, JobRecord.pageHead_length, Recipe.toBytes_length]
  rw [State.page1_eq hr, ← List.append_assoc, ← List.drop_drop, List.drop_left' before]

theorem State.page1_lists : s.page1.drop 121 = s.pageLists r := by
  rw [State.page1_drop hr 42, List.drop_left' r.pageFields_length]

theorem State.page1_master (hs : r.role = .source) : s.page1.drop (121 + r.repair.length) = s.ss.pageBytes := by
  rw [← List.drop_drop, State.page1_lists hr, State.pageLists, if_pos hs, List.drop_left' (List.length_map _)]

/-! ### Page 2: the claim list -/

theorem State.page2_eq : s.page2 = r.claims.flatMap fun c => beBytes 4 c.serial ++ [byteOf c.station.val] := by
  simp only [State.page2, hr]

theorem State.page2_length : s.page2.length = 5 * r.claims.length := by
  rw [State.page2_eq hr, length_flatMap_blocks (w := 5) (by simp)]

theorem State.page2_entry {k : Nat} {c : Claim} (h : r.claims[k]? = some c) :
    (s.page2.drop (5 * k)).take 5 = beBytes 4 c.serial ++ [byteOf c.station.val] := by
  rw [State.page2_eq hr, block_flatMap (w := 5) (by simp) h]

end

/-! ### Page 8: the configuration in effect -/

theorem Params.toBytes_length (p : Params) : p.toBytes.length = 22 := rfl

theorem State.page8_length (s : State) : s.page8.length = 29 := rfl

/-- A bit of a mask folded over a list of bit numbers. -/
theorem getLsbD_foldl_mask (g : Nat → Bool) (j : Nat) (hj : j < 8) (l : List Nat) (m : Byte) :
    (l.foldl (fun m k => if g k then m ||| (1#8 <<< k) else m) m).getLsbD j =
      (m.getLsbD j || decide (j ∈ l) && g j) := by
  induction l generalizing m with
  | nil => simp
  | cons k l ih =>
    have bit : (1#8 <<< k).getLsbD j = decide (j = k) := by
      rw [BitVec.getLsbD_shiftLeft, BitVec.getLsbD_one]
      by_cases h : j = k
      · simp [h]
        omega
      · simp [h]
        omega
    rw [List.foldl_cons, ih]
    by_cases hk : j = k
    · subst hk
      cases g j <;> simp [bit]
    · cases g k <;> simp [bit, hk]

theorem usableMask_bit (d : Vector (Option Recipe) 8) (k : Fin 8) : (usableMask d).getLsbD k.val = d[k].isSome := by
  rw [usableMask, getLsbD_foldl_mask (fun k => ((d[k]?).getD none).isSome) k.val k.isLt]
  simp

theorem refusalCode_eq (f : Option LoadRefusal) : refusalCode f = match f with
    | none => 0 | some .rigBusy => 1 | some .recipeInvalid => 2 | some .masterNotProtected => 3
    | some .noRoom => 4 := by
  rcases f with _ | f
  · rfl
  · cases f <;> rfl

/-! ### QUERY and REPLY (R161, R170) -/

theorem State.page_none (s : State) {n : Nat} (h : 8 < n) : s.page n = none := by
  match n, h with
  | _ + 9, _ => rfl

section
variable (s : State) {q : QueryBody}

theorem State.answer_noPage (h : 8 < q.page) : s.answer q = (.noPage, []) := by
  simp only [State.answer, s.page_none h]

variable {bytes : List Byte} (hp : s.page q.page = some bytes)
include hp

theorem State.answer_ok (h1 : 1 ≤ q.count) (h2 : q.count ≤ 256) (ho : q.offset ≤ bytes.length) :
    s.answer q = (.ok, (bytes.drop q.offset).take q.count) := by
  simp [State.answer, hp, inRange, h1, h2, ho]

theorem State.answer_range (h : q.count < 1 ∨ 256 < q.count ∨ bytes.length < q.offset) :
    s.answer q = (.range, []) := by
  have outside : (inRange 1 256 q.count && decide (q.offset ≤ bytes.length)) = false := by
    simp only [inRange, Bool.and_eq_false_iff, decide_eq_false_iff_not]
    omega
  simp [State.answer, hp, outside]

end

theorem execReply_heard {f : Rx} {s : State} {p : Nat × Nat} (h : s.receives) (hp : parseReply f.body = some p) :
    exec (.reply f) s = .next ((s.heard (.reply p.1 p.2) f.sender).afterCompletion s) :=
  congrArg _ (State.completed_heard [] (parseReply f.body) (fun p => some (.reply p.1 p.2)) _ _ s p h hp _ rfl)

theorem execQuery_heard {f : Rx} {s : State} {q : QueryBody} (h : s.receives) (hq : parseQuery f.body = some q) :
    exec (.query f) s = .next (((s.endViewOf f.sender).queried q).afterCompletion s) := by
  refine congrArg _ (?_ : s.completed [] (parseQuery f.body) (fun _ => none) f.sender State.queried = _)
  simp only [State.completed, h.1, h.2, hq, if_true, State.ownLeaves]
  rfl

section
variable {s : State} {q : QueryBody}

/-- A QUERY to another station, or whose REPLY the queue refuses, is not answered. -/
theorem State.queried_unanswered
    (h : q.target ≠ s.station.val ∨ s.lc.has (.reply q.page q.offset) = true ∨ 6 ≤ s.lc.queue.length) :
    s.queried q = s := by
  unfold State.queried
  split
  next ht =>
    dsimp only
    exact if_neg (State.refuses_high (by simp) (h.resolve_left (not_not_intro ht)))
  next => rfl

/-- The state with the REPLY of a QUERY in the queue. -/
def State.replied (s : State) (q : QueryBody) : State := s.push (.reply q.page q.offset (s.answer q).1 (s.answer q).2) 0

variable (hb : s.boot = .ready) (ht : q.target = s.station.val) (hn : s.lc.has (.reply q.page q.offset) = false)
  (hl : s.lc.queue.length < 6)
include hb ht hn hl

theorem State.queried_taken : s.queried q =
    if q.clear ∧ q.page = 7 ∧ (s.answer q).1 = .ok then
      (s.replied q).count (Counters.clearRead q.offset (s.answer q).2.length)
    else s.replied q := by
  have taken : s.accepts (.reply q.page q.offset (s.answer q).1 (s.answer q).2) = true :=
    (State.accepts_high_iff (by simp)).2 ⟨hb, hn, hl⟩
  rw [State.queried, if_pos ht]
  exact if_pos taken

end

theorem Counters.clearRead_all (c : Counters) : c.clearRead 0 36 = {} := rfl

/-- Settles O53: the answer by the status line that applies, then each page by its own lemmas. -/
theorem queryIsAnsweredByItsTarget : Obligations.QueryIsAnsweredByItsTarget := by
  refine ⟨fun f s h => ⟨fun p hp => execReply_heard h hp, fun q hq => ?_⟩, fun s => ?_⟩
  · intro heard a answered
    have asked := execQuery_heard h hq
    have queue : heard.lc.queue = s.lc.queue := by simp [heard]
    have station : heard.station = s.station := by simp [heard]
    have has : heard.lc.has (.reply q.page q.offset) = s.lc.has (.reply q.page q.offset) := by simp [Link.has, queue]
    have replied : heard.replied q = answered := by
      simp only [answered, ← queue]
      rfl
    refine ⟨fun hno => ?_, fun ht hn hl => ?_, fun hp => State.answer_noPage heard hp,
      fun bytes hp => ⟨State.answer_ok heard hp, State.answer_range heard hp⟩⟩
    · rw [asked, State.queried_unanswered (by rwa [station, has, queue])]
    · have taken := State.queried_taken (s := heard) (q := q) (by simpa [heard] using h.1) (by rwa [station])
        (by rwa [has]) (by rwa [queue])
      rw [replied] at taken
      have counters : answered.lc.counters = s.lc.counters := by simp [answered, heard]
      refine ⟨fun hno => ?_, fun hc hp ho h1 h2 => ?_, fun hc hp hk => ?_⟩
      · have keeps : ¬(q.clear = true ∧ q.page = 7 ∧ (heard.answer q).1 = .ok) := by
          rintro ⟨hc, hp, hk⟩
          rcases hno with hno | hno | hno
          · simp [hc] at hno
          · exact hno hp
          · exact hno hk
        rw [asked, taken, if_neg keeps]
      · have whole : heard.answer q = (.ok, heard.page7) := by
          rw [State.answer_ok heard (bytes := heard.page7) (by rw [hp]; rfl) (by omega) h2 (by omega), ho,
            List.drop_zero, List.take_of_length_le (by rw [State.page7_length]; exact h1)]
        rw [asked, taken, if_pos ⟨hc, hp, by rw [whole]⟩, whole, ho, State.page7_length]
        rfl
      · rw [asked, taken, if_pos ⟨hc, hp, hk⟩, State.count, counters]
        rfl
  · refine ⟨⟨s.page0, rfl, s.page0_length, s.page0_entry⟩,
      fun hr => ⟨by simp only [State.page, State.page1, hr], by simp only [State.page, State.page2, hr]⟩,
      fun r hr => ⟨⟨s.page1, rfl, State.page1_length hr, ?_, State.page1_recipe hr, ?_, ?_, ?_, ?_, ?_, fun hs => ?_⟩,
        s.page2, rfl, State.page2_length hr, fun k c hk => State.page2_entry hr hk⟩,
      ⟨s.page3, rfl, s.page3_length, fun u hu => ?_⟩, ⟨s.page4, rfl, s.page4_length, fun i hi => ?_⟩,
      ⟨s.page5, rfl, s.page5_length, fun k hk => ?_⟩, ⟨s.page6, rfl, s.page6_length, fun k e he => ?_⟩,
      ⟨s.page7, rfl, s.page7_length, fun k n hn => s.page7_entry hn⟩,
      ⟨s.page8, rfl, s.page8_length, rfl, rfl, rfl, usableMask_bit s.pc.directory, ?_⟩⟩
    · exact (State.page1_head hr).trans r.pageHead_eq
    · rw [State.page1_drop hr 0]
      rfl
    · rw [State.page1_drop hr 8]
      rfl
    · rw [State.page1_drop hr 22]
      rfl
    · rw [State.page1_drop hr 38]
      rfl
    · rw [State.page1_lists hr, State.pageLists, List.take_left' (List.length_map _)]
    · exact (State.page1_master hr hs).trans s.ss.pageBytes_eq
    · rw [s.page3_entry hu, TrackPresence.code_eq]
      rfl
    · rw [s.page4_entry hi, SlotState.code_eq]
      rfl
    · intro position bytes
      have entry : bytes = wantEntry s.now position := s.page5_entry hk
      refine ⟨fun hp => by rw [entry, hp]; rfl, fun w hp => ?_⟩
      rw [entry, hp]
      refine ⟨wantEntry_take s.now w, fun hd => ?_, fun ms hd => ?_⟩
      · rw [wantEntry_drop, hd, timeLeft_none]
        decide
      · rw [wantEntry_drop, hd, timeLeft_whole]
    · exact (s.page6_entry he).trans e.bytes_eq
    · exact congrArg (fun b => [b]) (refusalCode_eq s.pc.refusal)

end Sys2Proof.Machine
end

section
/-! PROOFS. RESTART: what it clears and keeps, and what it makes of the disk in the cycle (R75, R93, R119, R162, R166,
R169). -/

namespace Sys2Proof.Machine

/-! ### The disk ended by the restart (R87, R93, R169) -/

/-- The history entry of a disk record that has taken one more fault. -/
theorem Disk.record_entry (f : DiskFault) (d : Disk) (o : DiskOutcome) (cause : Option EndCause) :
    (d.record f).entry o cause =
      { outcome := o, serial := d.serial, first := some (d.first.getD f)
        further := if d.first.isSome then min (d.further + 1) 255 else d.further
        verified := d.verified, cause := cause } := by
  cases hf : d.first with
  | none => simp [Disk.record_none f hf, Disk.entry]
  | some g =>
    have faulted : d.first.isSome = true := by simp [hf]
    simp [Disk.record_some f faulted, Disk.entry, hf]

theorem State.abandonDisk_cycle (cause : EndCause) (s : State) :
    (s.abandonDisk cause).cs.state = .out ∧ (s.abandonDisk cause).cs.outcome = some .rejected := by
  obtain ⟨hstate, houtcome, -⟩ := s.abandonDisk_out cause
  exact ⟨hstate, houtcome⟩

/-- The EJECT pulse of an abandoned disk begins now, unless one is running. -/
theorem State.abandonDisk_eject (cause : EndCause) (s : State) :
    (s.abandonDisk cause).dp.ejectEnds = some (s.dp.ejectEnds.getD (s.now + 100000)) := by
  rw [State.abandonDisk, State.enterOut_dp, State.endUse_drive, Drive.stopMotor_eq]
  simp

theorem State.abandonDisk_pc (cause : EndCause) (s : State) :
    (s.abandonDisk cause).pc = s.pc.recording ((s.cs.disk.record .abandoned).entry .rejected (some cause)) := by
  rw [State.abandonDisk, State.enterOut_pc, State.endUse_disk, State.fault_cs]
  simp [Disk.entry]

theorem State.abandonDisk_counters (cause : EndCause) (s : State) :
    (s.abandonDisk cause).lc.counters =
      { s.lc.counters with rejected := min (s.lc.counters.rejected + 1) 4294967295 } := by
  rw [State.abandonDisk, State.enterOut_rejected]
  simp

/-! ### The restart (R166) -/

theorem execRestart_ready {s : State} (h : s.boot = .ready) : exec .restart s = .next s.restarted :=
  congrArg Host.Outcome.next (if_pos h)

/-- What the restart leaves of the cycle, the link and the panel is read from the disk's end alone. -/
theorem State.restarted_parts (s : State) :
    s.restarted.cs = { (s.copyJobEnd .restart).cs with disk := {}, phase := none }
    ∧ s.restarted.lc = (s.copyJobEnd .restart).lc.restarted
    ∧ s.restarted.pc = { (s.copyJobEnd .restart).pc with flash := none, sequence := none } := by
  simp [State.restarted]

/-- The drive port after the restart: its input lines, and a running EJECT pulse. -/
theorem State.restarted_dp (s : State) : s.restarted.dp =
    { ejectEnds := (s.copyJobEnd .restart).dp.ejectEnds
      diskin := s.dp.diskin, wprot := s.dp.wprot, trk0 := s.dp.trk0 } := by
  simp [State.restarted, Drive.restarted, State.endRead_eject]

/-- The state in which the restart works out the next serial base: the disk, a master read and the pins have ended. -/
def State.restartEnded (s : State) : State := (s.copyJobEnd .restart).endRead.releaseDrivePin.releaseLinkPin

theorem State.restarted_base (s : State) :
    s.restarted.jc.nextBase = (s.restartEnded.setNextBase JobRecord.nextBase).jc.nextBase := rfl

/-- The end of the uses leaves the job's fixed fields and its account. -/
theorem State.restartEnded_kept (s : State) :
    s.restartEnded.station = s.station ∧ s.restartEnded.jc.nextBase = s.jc.nextBase
    ∧ s.restartEnded.jc.record.map (·.fixed) = s.jc.record.map (·.fixed)
    ∧ s.restartEnded.jc.record.map (·.account) = s.jc.record.map (·.account) := by
  simp [State.restartEnded]

theorem JobRecord.nextBase_congr {r r' : JobRecord} (h : r'.account = r.account) : r'.nextBase = r.nextBase := by
  have hhigh : r'.high = r.high := congrArg Account.high h
  have hnone : r'.noneHeard = r.noneHeard := congrArg Account.noneHeard h
  rw [JobRecord.nextBase, JobRecord.nextBase, hhigh, hnone]

/-- The opener's next serial base comes from its high mark (R75). -/
theorem State.restarted_base_opener {s : State} {r : JobRecord} (hr : s.jc.record = some r)
    (ho : r.opener = s.station) : s.restarted.jc.nextBase = r.nextBase := by
  obtain ⟨station, -, fixed, account⟩ := s.restartEnded_kept
  obtain ⟨r', hr', hfixed, haccount⟩ := recordKept hr fixed account
  have opener : r'.opener = r.opener := congrArg FixedFields.opener hfixed
  rw [State.restarted_base, State.setNextBase_opener hr' (opener.trans (ho.trans station.symm)),
    JobRecord.nextBase_congr haccount]

theorem State.restarted_base_other {s : State} (h : ∀ r, s.jc.record = some r → r.opener ≠ s.station) :
    s.restarted.jc.nextBase = s.jc.nextBase := by
  obtain ⟨station, nextBase, fixed, account⟩ := s.restartEnded_kept
  have others : ∀ r', s.restartEnded.jc.record = some r' → r'.opener ≠ s.restartEnded.station := by
    intro r' hr' ho
    obtain ⟨r, hr, hfixed, -⟩ := recordKept hr' fixed.symm account.symm
    have opener : r.opener = r'.opener := congrArg FixedFields.opener hfixed
    exact h r hr (opener.trans (ho.trans station))
  rw [State.restarted_base, State.setNextBase_other others, nextBase]

/-! ### The restart and the disk (R93) -/

section
variable {s : State}

theorem State.restarted_rejects (hb : s.cs.state.busy = true) (hp : ¬(s.cs.state = .tally ∧ s.cs.pulled = true)) :
    s.restarted.cs.state = .out ∧ s.restarted.cs.outcome = some .rejected
    ∧ s.restarted.dp.ejectEnds = some (s.dp.ejectEnds.getD (s.now + 100000))
    ∧ s.restarted.pc.history =
      (s.pc.recording ((s.cs.disk.record .abandoned).entry .rejected (some .restart))).history
    ∧ s.restarted.lc.counters =
      { s.lc.counters with rejected := min (s.lc.counters.rejected + 1) 4294967295 } := by
  obtain ⟨hcs, hlc, hpc⟩ := s.restarted_parts
  rw [hcs, hlc, hpc, State.restarted_dp, State.copyJobEnd_abandons hb hp (by simp)]
  obtain ⟨hstate, houtcome⟩ := (s.mapCopy fun cs => { cs with paused := false }).abandonDisk_cycle .restart
  simp only [Link.restarted, State.abandonDisk_eject, State.abandonDisk_pc, State.abandonDisk_counters]
  exact ⟨hstate, houtcome, rfl, rfl, rfl⟩

theorem State.restarted_pulled (hs : s.cs.state = .tally) (hp : s.cs.pulled = true) :
    s.restarted.cs.state = .empty ∧ s.restarted.dp.ejectEnds = s.dp.ejectEnds
    ∧ s.restarted.pc.history = (s.pc.recording (s.cs.disk.entry .pulled (some .restart))).history
    ∧ s.restarted.lc.counters = s.lc.counters := by
  obtain ⟨hcs, hlc, hpc⟩ := s.restarted_parts
  rw [hcs, hlc, hpc, State.restarted_dp, State.copyJobEnd_pulled hs hp]
  exact ⟨rfl, rfl, rfl, rfl⟩

theorem State.restarted_idle (hb : s.cs.state.busy = false) :
    s.restarted.cs.state = s.cs.state ∧ s.restarted.cs.outcome = s.cs.outcome
    ∧ s.restarted.dp.ejectEnds = s.dp.ejectEnds ∧ s.restarted.pc.history = s.pc.history
    ∧ s.restarted.lc.counters = s.lc.counters := by
  obtain ⟨hcs, hlc, hpc⟩ := s.restarted_parts
  rw [hcs, hlc, hpc, State.restarted_dp, State.copyJobEnd_idle hb]
  exact ⟨rfl, rfl, rfl, rfl, rfl⟩

end

/-- Settles O7: the restart clears by its own record update, the next serial base is the opener's, and the disk goes
the way its place in the cycle gives. -/
theorem restartClearsKeepsAndEndsTheDisk : Obligations.RestartClearsKeepsAndEndsTheDisk := by
  refine ⟨fun s => ⟨fun hb => ⟨s.restarted, execRestart_ready hb, ?_⟩,
    fun hb => congrArg Host.Outcome.next (if_neg hb)⟩,
    fun s hb => ⟨s.restarted, execRestart_ready hb, fun busy stays => ?_, fun ⟨hs, hp⟩ => ?_, State.restarted_idle⟩⟩
  · obtain ⟨hcs, hlc, -⟩ := s.restarted_parts
    have paused : s.restarted.cs.paused = false := by rw [hcs]; exact State.copyJobEnd_paused s .restart
    have disk : s.restarted.cs.disk = {} := by rw [hcs]
    have presence : s.restarted.lc.presence = s.lc.presence := by rw [hlc]; simp [Link.restarted]
    obtain ⟨pending, now, station, seq, mem, -, diskin, wprot, trk0, params, directory, refusal⟩ := s.restarted_kept
    refine ⟨rfl, rfl, rfl, rfl, rfl, rfl, rfl, rfl, rfl, paused, disk, rfl, rfl, rfl, rfl, rfl, rfl, rfl, rfl, rfl, rfl,
      rfl, rfl, rfl, rfl, rfl, rfl, rfl, params, directory, refusal, station, presence, seq, diskin, wprot, trk0, mem,
      now, pending, fun r hr ho hn => ?_, fun r hr ho hn => ?_, State.restarted_base_other⟩
    · simp [State.restarted_base_opener hr ho, JobRecord.nextBase, hn, capNext, Config.max32]
    · simp [State.restarted_base_opener hr ho, JobRecord.nextBase, hn]
  · obtain ⟨hstate, houtcome, heject, hhistory, hcounters⟩ := State.restarted_rejects busy stays
    rw [Disk.record_entry] at hhistory
    exact ⟨hstate, houtcome, heject, hhistory, hcounters⟩
  · exact State.restarted_pulled hs hp

end Sys2Proof.Machine
end

section
/-! PROOFS. POWER_ON, the state it gives, and the configuration load (R40, R75, R163 to R165). -/

namespace Sys2Proof.Machine

/-! ### Power-on (R163) -/

/-- Settles O3: the state of power-on names nothing of the state before but the commands that wait. -/
theorem powerOnGivesThePowerOnState : Obligations.PowerOnGivesThePowerOnState :=
  fun _ _ _ _ _ => rfl

/-- The reset state is that of a power-on with every strap and line inactive. -/
theorem State.reset_eq_poweredOn : State.reset = State.reset.poweredOn 0 false false false := rfl

theorem State.reset_presence (i : StationId) : State.reset.lc.presence[i] = {} :=
  Vector.getElem_replicate i.isLt

theorem State.reset_slot (i : Nat) : State.reset.store.slot i = {} := by
  show ((Vector.replicate Config.slotCount ({} : Slot))[i]?).getD {} = {}
  rw [Vector.getElem?_replicate]
  split <;> rfl

theorem State.reset_entry (t : Nat) : State.reset.store.entry t = {} := by
  show ((Vector.replicate Config.trackCount ({} : MapEntry))[t]?).getD {} = {}
  rw [Vector.getElem?_replicate]
  split <;> rfl

/-- Settles O4: the three tables hold their reset value at every index. -/
theorem resetHoldsThePowerOnValues : Obligations.ResetHoldsThePowerOnValues :=
  ⟨rfl, rfl, rfl, rfl, rfl, rfl, rfl, State.reset_presence, rfl, State.reset_slot, State.reset_entry, rfl, rfl, rfl, rfl,
    rfl, rfl, rfl, rfl, rfl, rfl, rfl, rfl, rfl, rfl, rfl, rfl, rfl, rfl, rfl, rfl, rfl, rfl, rfl, rfl⟩

/-- Settles O57: with no record and an inactive gate, what is left are the laws of the state after power-on. -/
theorem invariantsHoldAtReset : Obligations.InvariantsHoldAtReset := by
  have started : State.reset.Lawful 1 State.reset := State.reset.poweredOn_lawful 0 false false false
  exact ⟨started.memory, State.accountSound_noJob rfl, Link.queueSound_iff.2 started.queue, State.gateSound_shut rfl,
    started.bounds⟩

/-! ### The configuration load (R164, R165) -/

/-- The load falls back on the defaults without the signature, and where the store stops answering in the directory. -/
theorem loadConfig_defaults {bytes : List Byte} (h : bytes.head? ≠ some 0x5C ∨ bytes.length < 37) :
    loadConfig bytes = Loaded.defaults := by
  unfold loadConfig
  split
  next signed =>
    have short : bytes.length < 37 := h.resolve_left fun unsigned => unsigned signed
    have unread : storeRead bytes 1 36 = none := if_neg (by omega)
    rw [unread]
  next => rfl

theorem Loaded.defaults_builtIn : Loaded.defaults.directory[0] = some Recipe.builtIn := rfl

theorem Loaded.defaults_unusable {k : Fin 8} (h : k ≠ 0) : Loaded.defaults.directory[k] = none := by
  have apart : 0 ≠ k.val := fun hk => h (Fin.ext hk.symm)
  exact (Vector.getElem_set_ne (by omega) k.isLt apart).trans (Vector.getElem_replicate k.isLt)

theorem State.configLoadEnds_loading {s : State} (bytes : List Byte) (mid : Bool) (h : s.boot = .loading) :
    s.configLoadEnds bytes mid = State.ready mid { s with
      pc := { s.pc with params := (loadConfig bytes).params, directory := (loadConfig bytes).directory }
      jc := { s.jc with nextBase := (loadConfig bytes).params.serialBase } } := by
  simp only [State.configLoadEnds, h]

theorem State.configLoadEnds_elsewhere {s : State} (bytes : List Byte) (mid : Bool) (h : s.boot ≠ .loading) :
    s.configLoadEnds bytes mid = s := by
  unfold State.configLoadEnds
  split
  next hb => exact absurd hb h
  next => rfl

/-- Settles O6: the end of the load is the end of start-up with what the store gives in effect. -/
theorem configurationLoadPutsTheStoreInEffect : Obligations.ConfigurationLoadPutsTheStoreInEffect := by
  refine ⟨fun bytes mid s => ⟨fun hb hr hq => ?_,
    fun hb => congrArg Host.Outcome.next (State.configLoadEnds_elsewhere bytes mid hb)⟩, fun bytes h => ?_⟩
  · have ended := State.ready_noJob { s with
      pc := { s.pc with params := (loadConfig bytes).params, directory := (loadConfig bytes).directory }
      jc := { s.jc with nextBase := (loadConfig bytes).params.serialBase } } mid hr hq
    exact congrArg Host.Outcome.next ((State.configLoadEnds_loading bytes mid hb).trans ended)
  · rw [loadConfig_defaults h]
    exact ⟨rfl, Loaded.defaults_builtIn, fun _ => Loaded.defaults_unusable⟩

end Sys2Proof.Machine
end

section
/-! PROOFS. The ends of the panel's effects, and the lamps (R95, R108, R119, R163, R168). -/

namespace Sys2Proof.Machine

/-! ### The panel effects end (R168) -/

section
variable {s : State}

theorem State.flashEnds_shown {e : Nat} (h : s.pc.flash = some e) :
    s.flashEnds = { s with now := max s.now e, pc := { s.pc with flash := none } } := by
  simp only [State.flashEnds, h]
  rfl

theorem State.flashEnds_none (h : s.pc.flash = none) : s.flashEnds = s := by
  simp only [State.flashEnds, h]

theorem State.sequenceEnds_shown {reason : AbandonReason} {start : Nat} (h : s.pc.sequence = some (reason, start)) :
    s.sequenceEnds = { s with
      now := max s.now (start + reason.flashes * 500000 + 1000000)
      pc := { s.pc with sequence := none } } := by
  simp only [State.sequenceEnds, h]
  rfl

theorem State.sequenceEnds_none (h : s.pc.sequence = none) : s.sequenceEnds = s := by
  simp only [State.sequenceEnds, h]

/-! ### When the lamps are dark (R163) -/

theorem State.dark_startUp (h : s.boot = .clearing true ∨ s.boot = .loading) : s.dark = true := by
  simpa [State.dark] using h

theorem State.dark_started (h : s.boot = .clearing false ∨ s.boot = .ready) : s.dark = false := by
  rcases h with h | h <;> simp [State.dark, h]

theorem State.lamps_dark (h : s.dark = true) : s.amber = .off ∧ s.green = .off ∧ s.red = .off := by
  simp [State.amber, State.green, State.red, h]

/-! ### Who calls for AMBER (R95, R108, R137) -/

/-- The Source Sequencer uses the port at the SOURCE, and in ENDING where no copy cycle has it. -/
theorem State.portUser_source : s.portUser = .sourceSequencer ↔
    s.role = some .source ∨ s.role ≠ some .member ∧ s.ss.state = .ending := by
  unfold State.portUser State.role
  cases s.jc.record with
  | none => simp
  | some r => cases hr : r.role <;> simp [hr]

theorem State.sourceAmber_eq (s : State) :
    s.sourceAmber = if s.ss.state = .idle ∨ s.ss.state = .ending then .off else .steady := by
  unfold State.sourceAmber
  split <;> simp_all

section
variable (hd : s.dark = false)
include hd

theorem State.green_lit :
    s.green = if s.cs.state = .out ∧ s.cs.outcome = some .accepted then .steady else .off := by
  simp [State.green, hd]

theorem State.red_lit :
    s.red = if s.pc.flash.isSome then .flashing
      else if s.cs.state = .out ∧ s.cs.outcome = some .rejected then .steady else .off := by
  simp [State.red, hd]

theorem State.amber_sequence {reason : AbandonReason} {start : Nat} (h : s.pc.sequence = some (reason, start)) :
    s.amber = if s.now < start + reason.flashes * 500000 then .flashing else .off := by
  simp only [State.amber, hd, h, Config.flashPeriod]
  rfl

variable (hq : s.pc.sequence = none)
include hq

theorem State.amber_source (h : s.portUser = .sourceSequencer) : s.amber = s.sourceAmber := by
  simp [State.amber, hd, hq, h]

theorem State.amber_cycle (h : s.portUser ≠ .sourceSequencer) : s.amber = s.cycleAmber := by
  cases hp : s.portUser
  case sourceSequencer => exact absurd hp h
  all_goals simp [State.amber, hd, hq, hp]

end

end

/-- Settles O11: AMBER without an abandon sequence is what the port's user calls for. -/
theorem panelEffectsEnd : Obligations.PanelEffectsEnd := by
  refine ⟨fun s => ⟨fun e h => congrArg Host.Outcome.next (State.flashEnds_shown h),
    fun h => congrArg Host.Outcome.next (State.flashEnds_none h), fun reason start h => ?_,
    fun h => congrArg Host.Outcome.next (State.sequenceEnds_none h)⟩,
    fun s => ⟨fun h => State.lamps_dark (State.dark_startUp h), fun h => ?_⟩⟩
  · have ended := congrArg (Host.Outcome.next (φ := Fault) (ρ := Refusal)) (State.sequenceEnds_shown h)
    cases reason <;> exact ended
  · have lit : s.dark = false := State.dark_started h
    refine ⟨State.green_lit lit, State.red_lit lit, fun reason start hq => State.amber_sequence lit hq,
      fun hq => ⟨fun source => ?_, fun notSource notMember ending => ?_, fun cycle => ?_⟩⟩
    · rw [State.amber_source lit hq (State.portUser_source.2 (.inl source)), State.sourceAmber_eq]
    · rw [State.amber_source lit hq (State.portUser_source.2 (.inr ⟨notMember, ending⟩)), State.sourceAmber_eq,
        if_pos (.inr ending)]
    · have user : s.portUser ≠ .sourceSequencer := by
        rw [Ne, State.portUser_source]
        rcases cycle with member | ⟨notSource, notEnding⟩
        · simp [member]
        · simp [notSource, notEnding]
      exact State.amber_cycle lit hq user

end Sys2Proof.Machine
end

section
/-! PROOFS. One step: the front command, or 1 µs on an empty queue (log 2). -/

namespace Sys2Proof.Machine

/-- Settles O1: a step is defined by its front command. -/
theorem stepRunsTheFrontCommand : Obligations.StepRunsTheFrontCommand :=
  fun _ _ _ => rfl

/-- A tick to a time ahead of the clock sets the clock to it. -/
theorem State.tickTo_of_le {s : State} {t : Nat} (h : s.now ≤ t) : s.tickTo t = { s with now := t } := by
  rw [State.tickTo, Nat.max_eq_right h]

theorem step_of_empty {s : State} (h : s.pending = []) : step s = .next (s.tickTo (s.now + 1)) := by
  simp only [step, h]

/-- Settles O2: the tick of an empty queue is ahead of the clock. -/
theorem stepOnAnEmptyQueuePassesTime : Obligations.StepOnAnEmptyQueuePassesTime := by
  intro s h
  rw [step_of_empty h, State.tickTo_of_le (Nat.le_succ s.now)]

end Sys2Proof.Machine
end

section
/-! SUPPORT. Codes read back, and where a field stands in a list of bytes (R172, R173). -/

namespace Sys2Proof.Machine

/-! ### The codes (R172, R173) -/

@[simp] theorem DataRate.ofCode_code (d : DataRate) : DataRate.ofCode d.code = some d := by cases d <;> rfl
@[simp] theorem Nominal.ofCode_code (n : Nominal) : Nominal.ofCode n.code = some n := by cases n <;> rfl
@[simp] theorem VerifyMode.ofCode_code (v : VerifyMode) : VerifyMode.ofCode v.code = some v := by cases v <;> rfl
@[simp] theorem SpanForm.ofCode_code (f : SpanForm) : SpanForm.ofCode f.code = some f := by cases f <;> rfl

@[simp] theorem AbandonReason.ofCode_code (a : AbandonReason) : AbandonReason.ofCode a.code = some a := by
  cases a <;> rfl

@[simp] theorem DiskOutcome.ofCode_code (o : DiskOutcome) : DiskOutcome.ofCode o.code = some o := by
  cases o <;> rfl

@[simp] theorem ReleaseReason.ofCode_code (a : ReleaseReason) : ReleaseReason.ofCode a.code = some a := by
  cases a <;> rfl

@[simp] theorem faultOfCode_faultCode (f : Option DiskFault) : faultOfCode (faultCode f) = some f := by
  rcases f with _ | f
  · rfl
  · cases f <;> rfl

theorem signedByte_toInt {i : Int} (low : -128 ≤ i) (high : i < 128) : (signedByte i).toInt = i :=
  BitVec.toInt_ofInt_eq_self (by decide) low high

/-! ### Where a field stands -/

@[simp] theorem byteAt_cons_zero (b : Byte) (bs : List Byte) : byteAt (b :: bs) 0 = b := rfl

@[simp] theorem byteAt_cons_succ (b : Byte) (bs : List Byte) (i : Nat) : byteAt (b :: bs) (i + 1) = byteAt bs i := rfl

theorem byteAt_drop (bs : List Byte) (i j : Nat) : byteAt (bs.drop i) j = byteAt bs (j + i) := by
  simp [byteAt, List.getD_eq_getElem?_getD, Nat.add_comm]

/-- A number whose bytes all stand in a part of a list is read in that part. -/
theorem beAt_take_drop (bs : List Byte) {i j k n : Nat} (h : j + k ≤ n) :
    beAt ((bs.drop i).take n) j k = beAt bs (i + j) k := by
  rw [beAt, beAt, List.drop_take, List.take_take, List.drop_drop, Nat.min_eq_left (by omega)]

/-- 16 bits written as a number of 2 bytes. -/
theorem ofNat_beNat_mask (m : BitVec 16) : BitVec.ofNat 16 (beNat (beBytes 2 m.toNat)) = m := by
  rw [beNat_beBytes_lt m.isLt, BitVec.ofNat_toNat, BitVec.setWidth_eq]

/-- 32 bits written as a number of 4 bytes. -/
theorem ofNat_beNat_check (w : CheckWord) : BitVec.ofNat 32 (beNat (beBytes 4 w.toNat)) = w := by
  rw [beNat_beBytes_lt w.isLt, BitVec.ofNat_toNat, BitVec.setWidth_eq]

end Sys2Proof.Machine
end

section
/-! PROOFS. A valid recipe reads back from its record (R122, R123, R173). -/

namespace Sys2Proof.Machine

/-! ### The fields of a valid recipe fit their bytes (R122, R123) -/

theorem padTo_of_le {n : Nat} {bs : List Byte} (h : bs.length ≤ n) :
    padTo n bs = bs ++ List.replicate (n - bs.length) 0 := by
  rw [padTo, List.take_append, List.take_of_length_le h, List.take_replicate, Nat.min_eq_left (Nat.sub_le ..)]

/-- The numbers of a recipe, each in its byte, read back. -/
structure Recipe.BytesRead (r : Recipe) : Prop where
  cylinders  : (byteOf r.cylinders).toNat = r.cylinders
  heads      : (byteOf r.heads).toNat = r.heads
  stepMult   : (byteOf r.stepMult).toNat = r.stepMult
  sectors    : (byteOf r.sectors).toNat = r.sectors
  sizeCode   : (byteOf r.sizeCode).toNat = r.sizeCode
  firstId    : (byteOf r.firstId).toNat = r.firstId
  skew       : (byteOf r.skew).toNat = r.skew
  trim       : (signedByte r.trim).toInt = r.trim
  tolerance  : (byteOf r.tolerance).toNat = r.tolerance
  gapI       : (byteOf r.gapI).toNat = r.gapI
  sync       : (byteOf r.sync).toNat = r.sync
  gap2       : (byteOf r.gap2).toNat = r.gap2
  gap3       : (byteOf r.gap3).toNat = r.gap3
  verifyRevs : (byteOf r.verifyRevs).toNat = r.verifyRevs
  writeRetry : (byteOf r.writeRetry).toNat = r.writeRetry
  masterRevs : (byteOf r.masterRevs).toNat = r.masterRevs
  stepTime   : (byteOf r.stepTime).toNat = r.stepTime
  headSettle : (byteOf r.headSettle).toNat = r.headSettle
  spanCount  : (byteOf r.spans.length).toNat = r.spans.length

section
variable {r : Recipe} (h : r.valid = true)
include h

/-- The ranges of R122, and the last sector ID in its byte (R123). -/
theorem Recipe.rangesHold_of_valid : r.rangesHold = true ∧ r.firstId + r.sectors ≤ 256 := by
  simp only [Recipe.valid, Bool.and_eq_true, decide_eq_true_eq] at h
  obtain ⟨⟨⟨⟨⟨⟨⟨⟨ranges, -⟩, lastId⟩, -⟩, -⟩, -⟩, -⟩, -⟩, -⟩ := h
  exact ⟨ranges, by omega⟩

/-- The ranges of R122 that bound the table, the spans and the sector IDs. -/
theorem Recipe.valid_limits :
    r.cylinders ≤ 84 ∧ r.heads ≤ 2 ∧ r.sectors ≤ 36 ∧ r.sizeCode ≤ 3 ∧ r.spans.length ≤ 2 := by
  obtain ⟨ranges, -⟩ := Recipe.rangesHold_of_valid h
  simp only [Recipe.rangesHold, inRange, Bool.and_eq_true, decide_eq_true_eq] at ranges
  omega

/-- The ranges of R122 fit a byte. -/
theorem Recipe.bytesRead_of_valid : r.BytesRead := by
  obtain ⟨ranges, -⟩ := Recipe.rangesHold_of_valid h
  simp only [Recipe.rangesHold, inRange, Bool.and_eq_true, decide_eq_true_eq] at ranges
  constructor
  case trim => exact signedByte_toInt (by omega) (by omega)
  all_goals exact byteOf_toNat (by omega)

theorem Recipe.id_lt {z : Nat} (hz : z ∈ r.ids) : z < 256 := by
  obtain ⟨-, lastId⟩ := Recipe.rangesHold_of_valid h
  have := Recipe.mem_ids.1 hz
  omega

end

/-! ### Where the parts of the record stand (R173) -/

/-- Bytes 42 to 60 of a recipe record: what stands between the interleave table and the spans. -/
def Recipe.fieldBytes (r : Recipe) : List Byte :=
  [byteOf r.skew, r.rate.code, signedByte r.trim, r.nominal.code, byteOf r.tolerance, byteOf r.gapI, byteOf r.sync,
    byteOf r.gap2, byteOf r.gap3, r.idMarker, r.dataMarker, r.fill, r.verify.code, byteOf r.verifyRevs,
    byteOf r.writeRetry, byteOf r.masterRevs, byteOf r.stepTime, byteOf r.headSettle, byteOf r.spans.length]

section
variable (r : Recipe)

/-- What stands from the interleave table on. -/
theorem Recipe.toBytes_drop_head : r.toBytes.drop 6 =
    padTo 36 (r.interleave.map byteOf) ++ (r.fieldBytes ++ padTo 12 (r.spans.flatMap Span.toBytes)) :=
  List.append_assoc ..

theorem Recipe.toBytes_drop_table :
    r.toBytes.drop 42 = r.fieldBytes ++ padTo 12 (r.spans.flatMap Span.toBytes) := by
  rw [show 42 = 6 + 36 from rfl, ← List.drop_drop, Recipe.toBytes_drop_head, List.drop_left' (padTo_length ..)]

theorem Recipe.toBytes_drop_fields : r.toBytes.drop 61 = padTo 12 (r.spans.flatMap Span.toBytes) := by
  rw [show 61 = 42 + 19 from rfl, ← List.drop_drop, Recipe.toBytes_drop_table]
  rfl

theorem Recipe.byteAt_fields (j : Nat) : byteAt r.toBytes (j + 42) =
    byteAt (r.fieldBytes ++ padTo 12 (r.spans.flatMap Span.toBytes)) j := by
  rw [← Recipe.toBytes_drop_table, byteAt_drop]

end

/-! ### The table, the spans and the record read back -/

/-- The table's entries that are read are the recipe's: they are below the sector count. -/
theorem Recipe.interleave_read {r : Recipe} (h : r.valid = true) :
    (((r.toBytes.drop 6).take 36).take r.sectors).map BitVec.toNat = r.interleave := by
  have perm := Recipe.interleave_perm h
  obtain ⟨-, -, sectors, -, -⟩ := Recipe.valid_limits h
  have length : (r.interleave.map byteOf).length = r.sectors := by
    rw [List.length_map, perm.length_eq, List.length_range]
  have entry (v : Nat) (hv : v ∈ r.interleave) : (byteOf v).toNat = v := by
    have := List.mem_range.1 (perm.mem_iff.1 hv)
    exact byteOf_toNat (by omega)
  rw [Recipe.toBytes_drop_head, List.take_left' (padTo_length ..), padTo_of_le (by omega), List.take_left' length,
    List.map_map]
  exact (List.map_congr_left entry).trans (List.map_id _)

theorem Span.ofBytes_toBytes {p : Span} (ht : p.track < 256) (hs : p.sector < 256) (ho : p.offset < 65536)
    (hl : p.length < 256) (rest : List Byte) : Span.ofBytes (p.toBytes ++ rest) = some p := by
  have fields : Span.ofBytes (p.toBytes ++ rest) = (SpanForm.ofCode p.form.code).map fun form =>
      { track := (byteOf p.track).toNat, sector := (byteOf p.sector).toNat, offset := beNat (beBytes 2 p.offset)
        length := (byteOf p.length).toNat, form := form } := rfl
  rw [fields, SpanForm.ofCode_code, byteOf_toNat ht, byteOf_toNat hs, byteOf_toNat hl, beNat_beBytes_lt ho]
  rfl

theorem Span.toBytes_length (p : Span) : p.toBytes.length = 6 := rfl

/-- Spans that read back singly read back in a row. -/
theorem spansOfBytes_flatMap {ps : List Span} (h : ∀ p ∈ ps, ∀ rest, Span.ofBytes (p.toBytes ++ rest) = some p)
    (rest : List Byte) : spansOfBytes ps.length (ps.flatMap Span.toBytes ++ rest) = some ps := by
  induction ps with
  | nil => rfl
  | cons p ps ih =>
    obtain ⟨hp, hps⟩ := List.forall_mem_cons.1 h
    simp only [List.length_cons, spansOfBytes, List.flatMap_cons, List.append_assoc, hp,
      List.drop_left' p.toBytes_length, ih hps]

/-- A span of a valid recipe lies in one of its sectors, so it fits its 6 bytes. -/
theorem Recipe.span_read {r : Recipe} (h : r.valid = true) {p : Span} (hp : p ∈ r.spans) (rest : List Byte) :
    Span.ofBytes (p.toBytes ++ rest) = some p := by
  obtain ⟨-, lastId⟩ := Recipe.rangesHold_of_valid h
  obtain ⟨cylinders, heads, -, sizeCode, -⟩ := Recipe.valid_limits h
  have tracks : r.tracks ≤ 84 * 2 := Nat.mul_le_mul cylinders heads
  have size : r.size ≤ 128 * 2 ^ 3 := Nat.mul_le_mul_left _ (Nat.pow_le_pow_right (by omega) sizeCode)
  have fits := Recipe.span_fits h hp
  have holds := Recipe.spanHolds_of_mem h hp
  simp only [Recipe.spanHolds, inRange, Bool.and_eq_true, decide_eq_true_eq] at holds
  obtain ⟨⟨⟨track, sector⟩, -⟩, form⟩ := holds
  have length : p.length < 256 := by
    cases hf : p.form <;> simp only [hf, Bool.and_eq_true, decide_eq_true_eq] at form <;> omega
  exact Span.ofBytes_toBytes (by omega) (by omega) (by omega) length rest

theorem Recipe.spans_read {r : Recipe} (h : r.valid = true) :
    spansOfBytes r.spans.length (r.toBytes.drop 61) = some r.spans := by
  obtain ⟨-, -, -, -, count⟩ := Recipe.valid_limits h
  have length : (r.spans.flatMap Span.toBytes).length = 6 * r.spans.length :=
    length_flatMap_blocks Span.toBytes_length _
  rw [Recipe.toBytes_drop_fields, padTo_of_le (by omega)]
  exact spansOfBytes_flatMap (fun p hp => Recipe.span_read h hp) _

/-- Of the fields behind the interleave table, those with codes and the span count. -/
theorem Recipe.codes_read {r : Recipe} (h : r.valid = true) :
    DataRate.ofCode (byteAt r.toBytes 43) = some r.rate ∧ Nominal.ofCode (byteAt r.toBytes 45) = some r.nominal
    ∧ VerifyMode.ofCode (byteAt r.toBytes 54) = some r.verify ∧ (byteAt r.toBytes 60).toNat = r.spans.length := by
  rw [r.byteAt_fields 1, r.byteAt_fields 3, r.byteAt_fields 12, r.byteAt_fields 18]
  exact ⟨r.rate.ofCode_code, r.nominal.ofCode_code, r.verify.ofCode_code, (Recipe.bytesRead_of_valid h).spanCount⟩

/-- A valid recipe reads back: the bytes before the table, the table, the fields behind it, the spans. -/
theorem Recipe.ofBytes_toBytes {r : Recipe} (h : r.valid = true) : Recipe.ofBytes r.toBytes = some r := by
  have reads := Recipe.bytesRead_of_valid h
  obtain ⟨rate, nominal, verify, count⟩ := Recipe.codes_read h
  obtain ⟨-, -, -, -, two⟩ := Recipe.valid_limits h
  have sectors : (byteAt r.toBytes 3).toNat = r.sectors := reads.sectors
  have head : (byteAt r.toBytes 0).toNat = r.cylinders ∧ (byteAt r.toBytes 1).toNat = r.heads
      ∧ (byteAt r.toBytes 2).toNat = r.stepMult ∧ (byteAt r.toBytes 4).toNat = r.sizeCode
      ∧ (byteAt r.toBytes 5).toNat = r.firstId :=
    ⟨reads.cylinders, reads.heads, reads.stepMult, reads.sizeCode, reads.firstId⟩
  rw [Recipe.ofBytes, if_pos ⟨r.toBytes_length, by omega⟩, count, Recipe.spans_read h, rate, nominal, verify]
  simp only [sectors, Recipe.interleave_read h, head, r.byteAt_fields, Recipe.fieldBytes, List.cons_append,
    byteAt_cons_succ, byteAt_cons_zero, reads.skew, reads.trim, reads.tolerance, reads.gapI, reads.sync, reads.gap2,
    reads.gap3, reads.verifyRevs, reads.writeRetry, reads.masterRevs, reads.stepTime, reads.headSettle]

end Sys2Proof.Machine
end

section
/-! PROOFS. Frame bodies read back as they are sent (R34, R172). -/

namespace Sys2Proof.Machine

/-! ### A body whose codes are listed (R172) -/

section
variable {bs : List Byte}

theorem parseOpen_of_kind {k : JobKind} (hl : bs.length = 87) (hk : byteAt bs 0 = k.code) : parseOpen bs = some {
    kind := k, roster := BitVec.ofNat 16 (beAt bs 1 2), r := (byteAt bs 3).toNat, wanted := beAt bs 4 2
    base := beAt bs 6 4, limit := beAt bs 10 4, recipe := Recipe.ofBytes (bs.drop 14) } := by
  cases k <;> simp [parseOpen, hl, hk, JobKind.code]

theorem parseTally_of_codes {o : DiskOutcome} {present : Bool} {f : Option DiskFault} (hl : bs.length = 9)
    (ho : byteAt bs 0 = o.code) (hp : byteAt bs 1 = flagByte present) (hf : byteAt bs 6 = faultCode f) :
    parseTally bs = some {
      outcome := o, serial := if present then some (beAt bs 2 4) else none, first := f
      further := (byteAt bs 7).toNat, verified := (byteAt bs 8).toNat } := by
  simp only [parseTally, hl, ho, hp, hf, DiskOutcome.ofCode_code, flagOf_flagByte, faultOfCode_faultCode, if_true]

section
variable {reason : ReleaseReason} (hr : byteAt bs 2 = reason.code)
include hr

theorem parseRelease_of_lost (hs : byteAt bs 1 = 2) (hl : bs.length = 9) : parseRelease bs = some {
    track := (byteAt bs 0).toNat, status := .lost, reason := reason, size := (byteAt bs 3).toNat
    count := (byteAt bs 4).toNat, check := BitVec.ofNat 32 (beAt bs 5 4), sectors := [] } := by
  simp [parseRelease, hr, (ReleaseStatus.ofCode_lost _).2 hs, ReleaseReason.ofCode_code, releaseLength, hl]

theorem parseRelease_of_good {size count : Nat} (hs : byteAt bs 1 = 1) (hz : (byteAt bs 3).toNat = size)
    (hn : (byteAt bs 4).toNat = count) (hl : bs.length = 9 + count * (1 + 128 * 2 ^ size)) :
    parseRelease bs = some {
      track := (byteAt bs 0).toNat, status := .good, reason := reason, size := size, count := count
      check := BitVec.ofNat 32 (beAt bs 5 4), sectors := sectorEntries count (128 * 2 ^ size) (bs.drop 9) } := by
  simp [parseRelease, hr, (ReleaseStatus.ofCode_good _).2 hs, ReleaseReason.ofCode_code, releaseLength, hl, hz, hn]

end

end

/-! ### Bodies of a fixed layout (R172): each field is read where it is written -/

section
variable (s : State)

theorem parseOpen_jobOpen {j : JobTerms} (hrecipe : Recipe.ofBytes j.recipe.toBytes = some j.recipe) (hr : j.r < 256)
    (hw : j.wanted < 65536) (hb : j.base < 4294967296) (hl : j.limit < 4294967296) :
    parseOpen (s.bodyBytes (.jobOpen j)) = some {
      kind := j.kind, roster := j.roster, r := j.r, wanted := j.wanted, base := j.base, limit := j.limit
      recipe := some j.recipe } := by
  have length : (s.bodyBytes (.jobOpen j)).length = 87 := by simp [State.bodyBytes, Recipe.toBytes_length]
  have fields : parseOpen (s.bodyBytes (.jobOpen j)) = some {
      kind := j.kind, roster := BitVec.ofNat 16 (beNat (beBytes 2 j.roster.toNat)), r := (byteOf j.r).toNat
      wanted := beNat (beBytes 2 j.wanted), base := beNat (beBytes 4 j.base), limit := beNat (beBytes 4 j.limit)
      recipe := Recipe.ofBytes j.recipe.toBytes } := parseOpen_of_kind length rfl
  rw [fields, ofNat_beNat_mask, byteOf_toNat hr, beNat_beBytes_lt hw, beNat_beBytes_lt hb, beNat_beBytes_lt hl,
    hrecipe]

theorem parseClose_jobClose (a v w : Nat) {h : Nat} (hh : h < 4294967296) :
    parseClose (s.bodyBytes (.jobClose a v w h)) = some h :=
  congrArg some (beNat_beBytes_lt (k := 4) hh)

theorem parseAbandon_jobAbandon (reason : AbandonReason) :
    parseAbandon (s.bodyBytes (.jobAbandon reason)) = some reason :=
  reason.ofCode_code

theorem parseClaim_claim {v c : Nat} (hv : v < 4294967296) (hc : c < 4294967296) :
    parseClaim (s.bodyBytes (.claim v c)) = some (v, c) :=
  congrArg some (Prod.ext (beNat_beBytes_lt (k := 4) hv) (beNat_beBytes_lt (k := 4) hc))

/-- A flag byte and the number under it give the number back, or none. -/
theorem optSerial_read {v : Option Nat} (h : ∀ n, v = some n → n < 4294967296) :
    (if v.isSome then some (beNat (beBytes 4 (v.getD 0))) else none) = v := by
  cases v with
  | none => rfl
  | some n => exact congrArg some (beNat_beBytes_lt (k := 4) (h n rfl))

theorem parseTally_tally (o : DiskOutcome) {v : Option Nat} (first : Option DiskFault) {further verified : Nat}
    (hv : ∀ n, v = some n → n < 4294967296) (hf : further < 256) (hd : verified < 256) :
    parseTally (s.bodyBytes (.tally o v first further verified)) = some {
      outcome := o, serial := v, first := first, further := further, verified := verified } := by
  have fields : parseTally (s.bodyBytes (.tally o v first further verified)) = some {
      outcome := o, serial := if v.isSome then some (beNat (beBytes 4 (v.getD 0))) else none, first := first
      further := (byteOf further).toNat, verified := (byteOf verified).toNat } :=
    parseTally_of_codes rfl rfl rfl rfl
  rw [fields, optSerial_read hv, byteOf_toNat hf, byteOf_toNat hd]

theorem parseWant_want {t a : Nat} (restore : Bool) (ht : t < 256) (ha : a < 256) :
    parseWant (s.bodyBytes (.want t a restore)) = some { track := t, attempt := a, restore := restore } := by
  have fields : parseWant (s.bodyBytes (.want t a restore)) = (flagOf (flagByte restore)).map fun f =>
      { track := (byteOf t).toNat, attempt := (byteOf a).toNat, restore := f } := rfl
  rw [fields, flagOf_flagByte, byteOf_toNat ht, byteOf_toNat ha]
  rfl

theorem parseCall_call (first fitted : Bool) (j : JobId) :
    parseCall (s.bodyBytes (.call first fitted j)) = some {
      first := first, fitted := fitted, revision := 1, jobId := j } := by
  have fields : parseCall (s.bodyBytes (.call first fitted j)) = some {
      first := first, fitted := fitted, revision := 1, jobId := BitVec.ofNat 16 (beNat (beBytes 2 j.toNat)) } := by
    cases first <;> cases fitted <;> rfl
  rw [fields, ofNat_beNat_mask]

theorem parseReply_reply {page offset : Nat} (status : ReplyStatus) {data : List Byte} (hp : page < 256)
    (ho : offset < 65536) (hd : data.length ≤ 256) :
    parseReply (s.bodyBytes (.reply page offset status data)) = some (page, offset) := by
  have length : (s.bodyBytes (.reply page offset status data)).length = data.length + 4 := by
    simp only [State.bodyBytes, List.length_append, List.length_cons, beBytes_length]
    omega
  have listed : inRange 1 3 status.code.toNat = true := by cases status <;> rfl
  have passes : (inRange 4 260 (s.bodyBytes (.reply page offset status data)).length
      && inRange 1 3 (byteAt (s.bodyBytes (.reply page offset status data)) 3).toNat) = true := by
    rw [Bool.and_eq_true, length]
    exact ⟨by simp [inRange, hd], listed⟩
  have pageRead : (byteAt (s.bodyBytes (.reply page offset status data)) 0).toNat = page := byteOf_toNat hp
  have offsetRead : beAt (s.bodyBytes (.reply page offset status data)) 1 2 = offset :=
    beNat_beBytes_lt (k := 2) (n := offset) ho
  rw [parseReply, if_pos passes, pageRead, offsetRead]

end

/-! ### RELEASE (R34, R172) -/

/-- The slot of a held track is the one a RELEASE is read from. -/
theorem Store.releaseSlot_held {st : Store} {t i : Nat} (h : st.heldSlot t = some i) : st.releaseSlot t = some i := by
  simp only [Store.releaseSlot, h]

/-- Once the track is held no more, it is the slot that the link pin keeps for it. -/
theorem Store.releaseSlot_pinned {st : Store} {t i : Nat} (hheld : st.heldSlot t = none)
    (hpin : st.linkPinned = some i) (ht : (st.slot i).track = some t) : st.releaseSlot t = some i := by
  simp [Store.releaseSlot, hheld, hpin, ht]

/-- Entries of one size are read in the order they are written. -/
theorem sectorEntries_flatMap {data : Nat → List Byte} {size : Nat} (hdata : ∀ z, (data z).length = size)
    {ids : List Nat} (hids : ∀ z ∈ ids, z < 256) :
    sectorEntries ids.length size (ids.flatMap fun z => byteOf z :: data z) = ids.map fun z => (z, data z) := by
  induction ids with
  | nil => rfl
  | cons z ids ih =>
    obtain ⟨hz, hids⟩ := List.forall_mem_cons.1 hids
    rw [List.length_cons, List.flatMap_cons, List.cons_append, sectorEntries, byteAt_cons_zero, byteOf_toNat hz,
      List.drop_succ_cons, List.drop_zero, List.take_left' (hdata z), List.drop_succ_cons, List.drop_left' (hdata z),
      ih hids, List.map_cons]

theorem Recipe.length_ids (r : Recipe) : r.ids.length = r.sectors := by
  simp [Recipe.ids]

theorem Store.length_releaseSectors (st : Store) (r : Recipe) (i : Nat) :
    (st.releaseSectors r i).length = r.sectors * (1 + 128 * 2 ^ r.sizeCode) := by
  have entry (z : Nat) : (byteOf z :: st.sectorData r i z).length = 1 + 128 * 2 ^ r.sizeCode := by
    rw [List.length_cons, Store.length_sectorData, Recipe.size, Nat.add_comm]
  rw [Store.releaseSectors, length_flatMap_blocks entry, Recipe.length_ids, Nat.mul_comm]

/-- The bytes of a RELEASE before its sector entries. -/
def releaseHead (t : Nat) (status : ReleaseStatus) (reason : ReleaseReason) (z n : Nat) (w : CheckWord) : List Byte :=
  [byteOf t, status.code, reason.code, byteOf z, byteOf n] ++ beBytes 4 w.toNat

section
variable (s : State) (t : Nat) (reason : ReleaseReason) (o : ReleaseOrigin) (z n : Nat) (w : CheckWord)

theorem State.bodyBytes_lost : s.bodyBytes (.release t .lost reason o z n w) = releaseHead t .lost reason z n w := by
  simp [State.bodyBytes, releaseHead]

theorem State.bodyBytes_good {r : JobRecord} {i : Nat} (hr : s.jc.record = some r)
    (hi : s.store.releaseSlot t = some i) : s.bodyBytes (.release t .good reason o z n w) =
      releaseHead t .good reason z n w ++ s.store.releaseSectors r.recipe i := by
  simp only [State.bodyBytes, releaseHead, hr, hi]

end

theorem parseRelease_lost (s : State) {t z n : Nat} (reason : ReleaseReason) (o : ReleaseOrigin) (w : CheckWord)
    (ht : t < 256) (hz : z < 256) (hn : n < 256) :
    parseRelease (s.bodyBytes (.release t .lost reason o z n w)) = some {
      track := t, status := .lost, reason := reason, size := z, count := n, check := w, sectors := [] } := by
  have fields : parseRelease (releaseHead t .lost reason z n w) = some {
      track := (byteOf t).toNat, status := .lost, reason := reason, size := (byteOf z).toNat
      count := (byteOf n).toNat, check := BitVec.ofNat 32 (beNat (beBytes 4 w.toNat)), sectors := [] } :=
    parseRelease_of_lost rfl rfl rfl
  rw [State.bodyBytes_lost, fields, byteOf_toNat ht, byteOf_toNat hz, byteOf_toNat hn, ofNat_beNat_check]

theorem parseRelease_good {s : State} {r : JobRecord} {t i : Nat} (reason : ReleaseReason) (o : ReleaseOrigin)
    (w : CheckWord) (ht : t < 256) (hr : s.jc.record = some r) (h : r.recipe.valid = true)
    (hi : s.store.heldSlot t = some i) :
    parseRelease (s.bodyBytes (.release t .good reason o r.recipe.sizeCode r.recipe.sectors w)) = some {
      track := t, status := .good, reason := reason, size := r.recipe.sizeCode, count := r.recipe.sectors, check := w
      sectors := r.recipe.ids.map fun z => (z, s.store.sectorData r.recipe i z) } := by
  have reads := Recipe.bytesRead_of_valid h
  have length : (releaseHead t .good reason r.recipe.sizeCode r.recipe.sectors w
      ++ s.store.releaseSectors r.recipe i).length = 9 + r.recipe.sectors * (1 + 128 * 2 ^ r.recipe.sizeCode) := by
    rw [List.length_append, Store.length_releaseSectors]
    rfl
  have fields : parseRelease (releaseHead t .good reason r.recipe.sizeCode r.recipe.sectors w
      ++ s.store.releaseSectors r.recipe i) = some {
      track := (byteOf t).toNat, status := .good, reason := reason, size := r.recipe.sizeCode
      count := r.recipe.sectors, check := BitVec.ofNat 32 (beNat (beBytes 4 w.toNat))
      sectors := sectorEntries r.recipe.sectors (128 * 2 ^ r.recipe.sizeCode)
        (s.store.releaseSectors r.recipe i) } :=
    parseRelease_of_good rfl rfl reads.sizeCode reads.sectors length
  have sectors : sectorEntries r.recipe.sectors (128 * 2 ^ r.recipe.sizeCode) (s.store.releaseSectors r.recipe i)
      = r.recipe.ids.map fun z => (z, s.store.sectorData r.recipe i z) := by
    have entries := sectorEntries_flatMap (s.store.length_sectorData r.recipe i) (ids := r.recipe.ids)
      fun z hz => Recipe.id_lt h hz
    rwa [Recipe.length_ids] at entries
  rw [State.bodyBytes_good s t reason o _ _ w hr (Store.releaseSlot_held hi), fields, sectors, byteOf_toNat ht,
    ofNat_beNat_check]

end Sys2Proof.Machine
end

section
/-! PROOFS. The configuration store reads back, and what is written reads back (R164, R165, R174). -/

namespace Sys2Proof.Machine

/-! ### The station block (R165, R174) -/

/-- The ranges of R165, and for the three numbers that have none the width of their field. -/
structure Params.InRange (p : Params) : Prop where
  r              : 1 ≤ p.r ∧ p.r ≤ 3
  holdOffLimit   : 2 ≤ p.holdOffLimit ∧ p.holdOffLimit ≤ 15
  holdOffTime    : 5 ≤ p.holdOffTime ∧ p.holdOffTime ≤ 100
  wantTimeout    : 10 ≤ p.wantTimeout ∧ p.wantTimeout ≤ 250
  wantAttempts   : 1 ≤ p.wantAttempts ∧ p.wantAttempts ≤ 7
  restoreTimeout : 500 ≤ p.restoreTimeout ∧ p.restoreTimeout ≤ 5000
  lookahead      : p.lookahead ≤ 4
  spinUpLimit    : 500 ≤ p.spinUpLimit ∧ p.spinUpLimit ≤ 2000
  wanted         : p.wanted < 65536
  serialBase     : p.serialBase < 4294967296
  serialSpan     : 1 ≤ p.serialSpan ∧ p.serialSpan < 4294967296

section
variable {p : Params} (h : p.InRange)
include h

/-- The fields of one byte read back from the station block. -/
theorem Params.bytes_read : (byteAt p.toBytes 1).toNat = p.r ∧ (byteAt p.toBytes 2).toNat = p.holdOffLimit
    ∧ (byteAt p.toBytes 3).toNat = p.holdOffTime ∧ (byteAt p.toBytes 4).toNat = p.wantTimeout
    ∧ (byteAt p.toBytes 5).toNat = p.wantAttempts ∧ (byteAt p.toBytes 8).toNat = p.lookahead := by
  obtain ⟨r, holdOffLimit, holdOffTime, wantTimeout, wantAttempts, -, lookahead, -, -, -, -⟩ := h
  exact ⟨byteOf_toNat (by omega), byteOf_toNat (by omega), byteOf_toNat (by omega), byteOf_toNat (by omega),
    byteOf_toNat (by omega), byteOf_toNat (by omega)⟩

/-- The fields of more bytes read back from the station block. -/
theorem Params.numbers_read : beAt p.toBytes 6 2 = p.restoreTimeout ∧ beAt p.toBytes 9 2 = p.spinUpLimit
    ∧ beAt p.toBytes 12 2 = p.wanted ∧ beAt p.toBytes 14 4 = p.serialBase ∧ beAt p.toBytes 18 4 = p.serialSpan := by
  obtain ⟨-, -, -, -, -, restoreTimeout, -, spinUpLimit, wanted, serialBase, -, span⟩ := h
  exact ⟨beNat_beBytes_lt (k := 2) (n := p.restoreTimeout) (by omega),
    beNat_beBytes_lt (k := 2) (n := p.spinUpLimit) (by omega), beNat_beBytes_lt (k := 2) wanted,
    beNat_beBytes_lt (k := 4) serialBase, beNat_beBytes_lt (k := 4) span⟩

theorem Params.ofBytes_toBytes : Params.ofBytes p.toBytes = some p := by
  have fitted : flagOf (byteAt p.toBytes 0) = some p.fitted := flagOf_flagByte _
  have requireProt : flagOf (byteAt p.toBytes 11) = some p.requireProt := flagOf_flagByte _
  simp only [Params.ofBytes, fitted, requireProt, Params.bytes_read h, Params.numbers_read h, p.toBytes_length]
  simp [inRange, h.r, h.holdOffLimit, h.holdOffTime, h.wantTimeout, h.wantAttempts, h.restoreTimeout, h.lookahead,
    h.spinUpLimit, h.serialSpan]

end

/-! ### The blocks of the store and its load (R164, R174) -/

/-- The directory of a configuration store: the 36 bytes behind the signature. -/
def configDirectory (bs : List Byte) : List Byte := (bs.drop 1).take 36

/-- Entry `e` of the directory, a length and a quarter offset, stands behind the signature and `e` entries. -/
theorem configDirectory_entry (bs : List Byte) {e : Nat} (he : e < 9) :
    beAt (configDirectory bs) (4 * e) 2 = beAt bs (1 + 4 * e) 2
    ∧ beAt (configDirectory bs) (4 * e + 2) 2 = beAt bs (1 + 4 * e + 2) 2 :=
  ⟨beAt_take_drop bs (by omega), beAt_take_drop bs (by omega)⟩

section
variable {bs dir : List Byte} {e : Nat}

theorem directoryBlock_inside {l off : Nat} (h : directoryBlock dir e = some (l, off)) : off + l ≤ 2048 := by
  obtain ⟨present, place⟩ := Option.ite_none_left_eq_some.1 h
  cases place
  rw [Config.configBytes] at present
  omega

theorem readBlock_absent (len : Nat) (he : e < 9) (h : beAt bs (1 + 4 * e) 2 = 0) :
    readBlock bs (configDirectory bs) e len = some none := by
  obtain ⟨length, -⟩ := configDirectory_entry bs he
  have absent : directoryBlock (configDirectory bs) e = none := if_pos (.inl (length.trans h))
  rw [readBlock, absent]

section
variable (hbs : bs.length = 2048)
include hbs

/-- A block that lies in the store is read at its offset. -/
theorem readBlock_present {len off : Nat} (he : e < 9) (hlen : beAt bs (1 + 4 * e) 2 = len)
    (hoff : beAt bs (1 + 4 * e + 2) 2 * 4 = off) (hpos : 0 < len) (hlow : 37 ≤ off) (hhigh : off + len ≤ 2048) :
    readBlock bs (configDirectory bs) e len = some (some (some ((bs.drop off).take len))) := by
  obtain ⟨length, offset⟩ := configDirectory_entry bs he
  have present : directoryBlock (configDirectory bs) e = some (len, off) := by
    rw [directoryBlock, length, offset, hlen, hoff]
    exact if_neg (by rw [Config.configBytes]; omega)
  have read : storeRead bs off len = some ((bs.drop off).take len) := if_pos (by omega)
  simp only [readBlock, present, if_true, read, Option.map_some]

/-- A whole store answers at every byte of a block of its directory. -/
theorem readBlock_answers (dir : List Byte) (e len : Nat) : ∃ block, readBlock bs dir e len = some block := by
  cases hd : directoryBlock dir e with
  | none => exact ⟨none, by rw [readBlock, hd]⟩
  | some place =>
    obtain ⟨l, off⟩ := place
    have inside : off + l ≤ bs.length := hbs ▸ directoryBlock_inside hd
    by_cases hl : l = len
    · exact ⟨_, by simp only [readBlock, hd, if_pos hl, storeRead, if_pos inside]; rfl⟩
    · exact ⟨_, by simp only [readBlock, hd, if_neg hl]; rfl⟩

/-- A whole store gives each recipe as its block reads. -/
theorem loadRecipes_answers (dir : List Byte) (n k : Nat) : ∃ recipes, loadRecipes bs dir n k = some recipes
    ∧ ∀ i < n, ∀ block, readBlock bs dir (k + i + 1) 73 = some block →
      recipes[i]? = some (directoryRecipe (k + i) block) := by
  induction n generalizing k with
  | zero => exact ⟨[], rfl, fun i hi => absurd hi (Nat.not_lt_zero i)⟩
  | succ n ih =>
    obtain ⟨first, hfirst⟩ := readBlock_answers hbs dir (k + 1) 73
    obtain ⟨rest, hrest, entries⟩ := ih (k + 1)
    refine ⟨directoryRecipe k first :: rest, by simp only [loadRecipes, hfirst, hrest], fun i hi block hb => ?_⟩
    cases i with
    | zero =>
      obtain rfl : first = block := Option.some_inj.1 (hfirst.symm.trans hb)
      rfl
    | succ i =>
      rw [show k + (i + 1) = k + 1 + i by omega] at hb ⊢
      exact entries i (by omega) block hb

end

end

/-- The recipe of an absent block: the built-in one at number 0 alone. -/
theorem directoryRecipe_absent (k : Fin 8) :
    directoryRecipe k.val none = if k = 0 then some Recipe.builtIn else none := by
  simp only [directoryRecipe, Fin.ext_iff]
  rfl

section
variable {bs : List Byte} (hbs : bs.length = 2048) (hs : bs.head? = some 0x5C)
include hbs hs

/-- What the load of a signed whole store puts in effect, from what its blocks read as. -/
theorem loadConfig_reads {block : Option (Option (List Byte))}
    (hb : readBlock bs (configDirectory bs) 0 22 = some block) {recipes : List (Option Recipe)}
    (hr : loadRecipes bs (configDirectory bs) 8 0 = some recipes) : loadConfig bs = {
      params := (block.join.bind Params.ofBytes).getD {}
      directory := Vector.ofFn fun i => (recipes[i.val]?).getD none } := by
  have signed : bs.head? = some Config.storeSignature := hs
  have directory : storeRead bs 1 36 = some (configDirectory bs) := if_pos (by omega)
  rw [loadConfig, if_pos signed, directory]
  simp only [hb, hr]
  rcases block with _ | _ | b <;> rfl

theorem loadConfig_params {block : Option (Option (List Byte))}
    (hb : readBlock bs (configDirectory bs) 0 22 = some block) :
    (loadConfig bs).params = (block.join.bind Params.ofBytes).getD {} := by
  obtain ⟨recipes, hr, -⟩ := loadRecipes_answers hbs (configDirectory bs) 8 0
  rw [loadConfig_reads hbs hs hb hr]

theorem loadConfig_recipe (k : Fin 8) {block : Option (Option (List Byte))}
    (hb : readBlock bs (configDirectory bs) (k.val + 1) 73 = some block) :
    (loadConfig bs).directory[k] = directoryRecipe k.val block := by
  obtain ⟨station, hstation⟩ := readBlock_answers hbs (configDirectory bs) 0 22
  obtain ⟨recipes, hr, entries⟩ := loadRecipes_answers hbs (configDirectory bs) 8 0
  have entry := entries k.val k.isLt block (by rwa [Nat.zero_add])
  rw [Nat.zero_add] at entry
  rw [loadConfig_reads hbs hs hstation hr]
  simp [entry]

end

/-- Settles O54: each field is read where its layout writes it, in a width that its range fits. -/
theorem writtenRecordsReadBackAsTheyWere : Obligations.WrittenRecordsReadBackAsTheyWere := by
  refine ⟨⟨fun r => Recipe.ofBytes_toBytes, fun s => ⟨
      fun j hv hr hw hb hl => parseOpen_jobOpen s (Recipe.ofBytes_toBytes hv) hr hw hb hl,
      rfl,
      fun a v w h => parseClose_jobClose s a v w,
      parseAbandon_jobAbandon s,
      fun v c => parseClaim_claim s,
      fun o v first further verified => parseTally_tally s o first,
      fun t a restore => parseWant_want s restore,
      fun t reason o z n w => parseRelease_lost s reason o w,
      fun t reason o w r i ht hr hv hi => parseRelease_good reason o w ht hr hv hi,
      parseCall_call s,
      fun page offset status data => parseReply_reply s status⟩⟩,
    fun st t i => Store.releaseSlot_pinned,
    fun p r r' limit limit' time time' want want' attempts attempts' restore restore' ahead spin spin' wanted base
        span span' =>
      ⟨p.toBytes_length, Params.ofBytes_toBytes ⟨⟨r, r'⟩, ⟨limit, limit'⟩, ⟨time, time'⟩, ⟨want, want'⟩,
        ⟨attempts, attempts'⟩, ⟨restore, restore'⟩, ahead, ⟨spin, spin'⟩, wanted, base, ⟨span, span'⟩⟩⟩,
    fun bs hbs hs => ⟨fun absent => ?_, fun p hlen hlow hhigh hp => ?_,
      fun k => ⟨fun absent => ?_, fun hlen hlow hhigh => ?_⟩⟩⟩
  · exact loadConfig_params hbs hs (readBlock_absent (e := 0) 22 (by omega) absent)
  · rw [loadConfig_params hbs hs (readBlock_present (e := 0) hbs (by omega) hlen rfl (by omega) hlow hhigh)]
    exact congrArg (·.getD {}) hp
  · exact (loadConfig_recipe hbs hs k (readBlock_absent 73 (by omega) absent)).trans (directoryRecipe_absent k)
  · exact loadConfig_recipe hbs hs k (readBlock_present hbs (by omega) hlen rfl (by omega) hlow hhigh)

end Sys2Proof.Machine
end
